-- ==== Sys2Proof/Word.lean ====
section
/-! DEFINITION. The word types of the register space (R4: every register is 32 bits wide). -/

namespace Sys2Proof

/-- A 32-bit register or table-window word (R4). -/
abbrev Word := BitVec 32

/-- A byte of DRAM, of a tile or of a packet. -/
abbrev Byte := BitVec 8

end Sys2Proof
end

