-- ==== Sys2Proof/Units.lean ====
section
/-! DEFINITION. The plain data that commands and state speak of: ordering codes, access paths, reset kinds, the page
kinds of the BAR0 map (R378) and the power domains (R403). -/

namespace Sys2Proof

/-- The two ordering codes (spec/00, Ordering codes). -/
inductive OrdCode where
  | f
  | h
  deriving DecidableEq, Repr

/-- The paths that keep _HI latches, _LO staging and PG_KEY opening of their own (R5, R9, R471): the PCIe path, the
management SPI path, and, as masters of the register fabric, each DMA channel (R324) and the Wells. -/
inductive Path where
  | pcie
  | mspi
  | dma (n : Nat)
  | well (b : Nat)
  deriving DecidableEq, Repr

/-- The access codes of R8. -/
inductive Acc where
  | ro | rw | w1c | w1s | wo | sc | rwl | rc
  deriving DecidableEq, Repr

/-- The reset classes of R12. -/
inductive RCls where
  | P | F | H | B | N | K
  deriving DecidableEq, Repr

/-- The kinds of register page, by layout (R378). TRN and CHN have one layout per instance. -/
inductive PageKind where
  | id | st | pwr | fuse | trn0 | trn1 | trn2 | tod | tune | slk | lnk | arr | dly | chn0 | chn1 | mere | eng | gsv | xs | bm | bas | pk | mc | map | scr | dma | dmach | mx | well | mbx | acc | evt | sec | nvr | pcie
  deriving DecidableEq, Repr

/-- BAR0 offset of the first page of the kind (R378). -/
def PageKind.base0 : PageKind → Nat
  | .id => 0x0
  | .st => 0x1000
  | .pwr => 0x2000
  | .fuse => 0x3000
  | .trn0 => 0x10000
  | .trn1 => 0x11000
  | .trn2 => 0x12000
  | .tod => 0x14000
  | .tune => 0x15000
  | .slk => 0x20000
  | .lnk => 0x60000
  | .arr => 0xa0000
  | .dly => 0xa1000
  | .chn0 => 0xb0000
  | .chn1 => 0xb1000
  | .mere => 0xc0000
  | .eng => 0x100000
  | .gsv => 0x150000
  | .xs => 0x160000
  | .bm => 0x161000
  | .bas => 0x180000
  | .pk => 0x181000
  | .mc => 0x1c0000
  | .map => 0x1c8000
  | .scr => 0x1c9000
  | .dma => 0x200000
  | .dmach => 0x201000
  | .mx => 0x240000
  | .well => 0x280000
  | .mbx => 0x282000
  | .acc => 0x2c0000
  | .evt => 0x300000
  | .sec => 0x340000
  | .nvr => 0x380000
  | .pcie => 0x3c0000


/-- BAR0 distance between two pages of the kind. -/
def PageKind.stride : PageKind → Nat
  | .id => 0x0
  | .st => 0x0
  | .pwr => 0x0
  | .fuse => 0x0
  | .trn0 => 0x0
  | .trn1 => 0x0
  | .trn2 => 0x0
  | .tod => 0x0
  | .tune => 0x0
  | .slk => 0x1000
  | .lnk => 0x1000
  | .arr => 0x0
  | .dly => 0x0
  | .chn0 => 0x0
  | .chn1 => 0x0
  | .mere => 0x0
  | .eng => 0x1000
  | .gsv => 0x1000
  | .xs => 0x0
  | .bm => 0x0
  | .bas => 0x0
  | .pk => 0x0
  | .mc => 0x1000
  | .map => 0x0
  | .scr => 0x0
  | .dma => 0x0
  | .dmach => 0x1000
  | .mx => 0x0
  | .well => 0x1000
  | .mbx => 0x0
  | .acc => 0x0
  | .evt => 0x0
  | .sec => 0x0
  | .nvr => 0x0
  | .pcie => 0x0


/-- Pages of the kind on the YG-6472-F. -/
def PageKind.countF : PageKind → Nat
  | .id => 1
  | .st => 1
  | .pwr => 1
  | .fuse => 1
  | .trn0 => 1
  | .trn1 => 1
  | .trn2 => 1
  | .tod => 1
  | .tune => 1
  | .slk => 64
  | .lnk => 64
  | .arr => 1
  | .dly => 1
  | .chn0 => 1
  | .chn1 => 1
  | .mere => 1
  | .eng => 72
  | .gsv => 8
  | .xs => 1
  | .bm => 1
  | .bas => 1
  | .pk => 1
  | .mc => 8
  | .map => 1
  | .scr => 1
  | .dma => 1
  | .dmach => 32
  | .mx => 1
  | .well => 2
  | .mbx => 1
  | .acc => 1
  | .evt => 1
  | .sec => 1
  | .nvr => 1
  | .pcie => 1


/-- Pages of the kind present on the YG-6472-H (R2). -/
def PageKind.countH : PageKind → Nat
  | .id => 1
  | .st => 1
  | .pwr => 1
  | .fuse => 1
  | .trn0 => 1
  | .trn1 => 1
  | .trn2 => 1
  | .tod => 1
  | .tune => 1
  | .slk => 32
  | .lnk => 32
  | .arr => 1
  | .dly => 1
  | .chn0 => 1
  | .chn1 => 1
  | .mere => 1
  | .eng => 36
  | .gsv => 4
  | .xs => 1
  | .bm => 1
  | .bas => 1
  | .pk => 1
  | .mc => 4
  | .map => 1
  | .scr => 1
  | .dma => 1
  | .dmach => 32
  | .mx => 1
  | .well => 2
  | .mbx => 1
  | .acc => 1
  | .evt => 1
  | .sec => 1
  | .nvr => 1
  | .pcie => 1


/-- Block type code (R378). -/
def PageKind.type : PageKind → Nat
  | .id => 0x1
  | .st => 0x2
  | .pwr => 0x3
  | .fuse => 0x4
  | .trn0 => 0x10
  | .trn1 => 0x10
  | .trn2 => 0x10
  | .tod => 0x11
  | .tune => 0x12
  | .slk => 0x20
  | .lnk => 0x21
  | .arr => 0x22
  | .dly => 0x23
  | .chn0 => 0x30
  | .chn1 => 0x30
  | .mere => 0x31
  | .eng => 0x40
  | .gsv => 0x41
  | .xs => 0x42
  | .bm => 0x43
  | .bas => 0x50
  | .pk => 0x51
  | .mc => 0x60
  | .map => 0x61
  | .scr => 0x62
  | .dma => 0x70
  | .dmach => 0x70
  | .mx => 0x71
  | .well => 0x80
  | .mbx => 0x81
  | .acc => 0x90
  | .evt => 0x91
  | .sec => 0xa0
  | .nvr => 0xa1
  | .pcie => 0xb0

/-- Every page kind, in BAR0 order. -/
def PageKind.all : List PageKind :=
  [.id, .st, .pwr, .fuse, .trn0, .trn1, .trn2, .tod, .tune, .slk, .lnk, .arr, .dly, .chn0, .chn1, .mere, .eng, .gsv, .xs, .bm, .bas, .pk, .mc, .map, .scr, .dma, .dmach, .mx, .well, .mbx, .acc, .evt, .sec, .nvr, .pcie]

/-- A register page: its kind and its instance (R378). -/
structure Page where
  kind : PageKind
  inst : Nat
  deriving DecidableEq, Repr

/-- BAR0 offset of a page. -/
def Page.base (p : Page) : Nat := p.kind.base0 + p.kind.stride * p.inst

/-- Pages of a kind on an ordering code. -/
def PageKind.count (k : PageKind) : OrdCode → Nat
  | .f => k.countF
  | .h => k.countH

/-- The page exists on the ordering code (R2). -/
def Page.present (p : Page) (c : OrdCode) : Bool := decide (p.inst < p.kind.count c)

/-- INSTANCE of PG_ID as the BAR0 map gives it: DMACH n is instance n + 1 of type DMA; TRN and CHN pages are instances
of one block (R378). -/
def Page.instanceField (p : Page) : Nat :=
  match p.kind with
  | .trn1 => 1
  | .trn2 => 2
  | .chn1 => 1
  | .dmach => p.inst + 1
  | _ => p.inst

/-- The power domain that holds a page, as a bit of PWR.DOM_EN (R403). A LNK page lies with the lanes of the same
number (DEDUCED: the table lists the SLK and LNK pages of SLKA to SLKD together, sixteen each). -/
def Page.domain (p : Page) : Nat :=
  match p.kind with
  | .id | .st | .pwr | .fuse | .trn0 | .trn1 | .trn2 | .tod | .tune | .evt => 0
  | .well | .mbx | .sec | .nvr => 1
  | .pcie => 2
  | .slk | .lnk => 3 + p.inst / 16
  | .arr | .dly | .chn0 | .chn1 | .mere => 7
  | .eng => 8 + p.inst / 9
  | .gsv => 8 + p.inst
  | .bas | .bm | .pk => 16
  | .mc => if p.inst < 4 then 17 else 18
  | .dma | .dmach | .mx | .xs | .map | .scr | .acc => 19

/-- The page lies in the AON domain, so its header fields are of class P (R374). -/
def Page.aon (p : Page) : Bool := p.domain == 0

/-- The page has a block enable in PG_CTL.ENABLE (LNK, ARR and BAS chapters; every other chapter says it has none). -/
def PageKind.hasEnable : PageKind → Bool
  | .lnk | .arr | .bas => true
  | _ => false

end Sys2Proof
end

