-- ==== Sys2Proof/Args.lean ====
section
/-! DEFINITION. The operands of commands: what the outside world supplies with them. -/

namespace Sys2Proof

/-- The lock of a lane that is lost (R76): CDR, FEC or marker lock, or the signal itself, below the level at which signal detect
is released, and the CDR lock with it (R457). -/
inductive LockKind where
  | cdr | fec | marker | signal
  deriving DecidableEq, Repr

/-- The completion of a read of host memory: with its data, with EP set, with status UR or CA, or none in time (R333). -/
inductive Cpl where
  | good | poisoned | failed | timedOut
  deriving DecidableEq, Repr

/-- A 257-bit block as received on a lane (R57): its header bit, and its 32 bytes, of which the first gives the type of a
control block. -/
structure Block where
  data : Bool
  bytes : List Byte
  deriving DecidableEq, Repr

/-- An S1 capability exchange message of the peer (R52): `precode` that it supports precoding, `precodeReq` its request
per lane index of the link. -/
structure CapMsg where
  version : Nat
  identity : Nat
  maxStep : Nat
  precode : Bool
  precodeReq : Nat
  fillGroup : Nat
  deriving DecidableEq, Repr

/-- How the retraining of a lane goes (R77): whether each start works under the criterion of R51, in the order in which they are
tried (the taps in use, SLK.PRESET, the presets 1 to 4; the list may end at the first that works), and the microseconds it took. -/
structure RetrainEnd where
  works : List Bool
  usec : Nat
  deriving DecidableEq, Repr

/-- A training frame as received on a lane (R50, R51): the request field (with the outcome of its CRC-8) and its READY, the
outcome of the response field's CRC-8 and the taps the peer reports in use, whether the device's own receiver finds that the
setting works, and the microseconds since the step started. -/
structure TrainFrame where
  reqOk : Bool
  reqPre : Nat
  reqPost : Nat
  preset : Nat
  peerReady : Bool
  respOk : Bool
  peerPre : Nat
  peerPost : Nat
  works : Bool
  usec : Nat
  deriving DecidableEq, Repr

/-- The MARKER block received on a lane (R60), and how late it comes after the earliest lane's, in units of 10 ps. -/
structure Marker where
  lane : Nat
  linkNum : Nat
  physLane : Nat
  index : Nat
  width : Nat
  count : Nat
  late : Nat
  deriving DecidableEq, Repr

/-- The STATUS block of the peer (R62). -/
structure LinkStatus where
  linkState : Nat
  ql : Nat
  qlValid : Bool
  dormReq : Bool
  dormAck : Bool
  retrainReq : Bool
  retrainMap : Nat
  fillGroup : Nat
  deriving DecidableEq, Repr

/-- A symbol of a 36-symbol DRAM word read differently from what was stored: which symbol, and by which pattern. -/
structure SymErr where
  symbol : Nat
  pattern : Nat
  deriving DecidableEq, Repr

/-- The masters of DRAM requests (LOG_A.MASTER). -/
inductive Master where
  | host | dma | wellA | wellB | arrive | chanRd | mereWr | pool | drain | beamw | scrub | fill
  deriving DecidableEq, Repr

/-- A DRAM request: a read of `len` bytes, or a write of `data`. `wait` is the cycles it waits behind a write to its
granule (R288), `failures` how many of its attempts fail by a command or address error (R296). -/
structure DramReq where
  master : Master
  addr : Nat
  write : Bool
  len : Nat
  data : List Byte
  wait : Nat
  failures : Nat
  deriving DecidableEq, Repr

/-- A PCIe configuration request: the function addressed, and a read or a write of a register the model holds. -/
inductive CfgReg where
  | ids | classRev | subsystem | command | bar0Lo | bar0Hi | bar2Lo | bar2Hi | intPin | msixCtl | powerState | serialLo | serialHi
  | devCtl | devCtl2 | devCtl3 | linkCtl | l1ss | rebar | aerUnc | aerUncMask | aerUncSev | aerCor | aerCorMask | aerHdr0 | aerHdr1
  | aerHdr2 | aerHdr3 | doeStatus | doeWrite
  deriving DecidableEq, Repr

/-- A configuration request (R349 to R353). -/
structure CfgReq where
  function : Nat
  reg : CfgReg
  write : Bool
  value : Nat
  deriving DecidableEq, Repr

/-- A firmware image as the boot ROM sees it (R424): version, build, signing-key index, and whether the public key hashes
to the fused hash of the index and signature and digest verify. -/
structure Img where
  version : Nat
  build : Nat
  key : Nat
  good : Bool
  deriving DecidableEq, Repr

/-- What the outside world decides in a bring-up step (R417, R418): a failure from outside (a code of R418, 0 none), the
outcome of the Wells' self-tests at step 5, and at steps 6 and 7 the channels that train, the controllers whose test fails
and the CRC units whose test fails, as masks; the temperatures of the stacks at step 6. -/
structure BringupEnv where
  fail : Nat
  wellA : Bool
  wellB : Bool
  trained : Nat
  badMc : Nat
  badCrc : Nat
  temps : List Int
  deriving DecidableEq, Repr

/-- The measurement of a reference over a gate of one second (R381, R383): edges present, the frequency counted in units of
10 µHz (REFC as divided to a nominal 100 MHz), and whether its PPS is present and regular. -/
structure RefMeas where
  act : Bool
  freq : Nat
  pps : Bool
  deriving DecidableEq, Repr

/-- A request at a master port of the bus matrix (R339, R341): its master, the port among those of the pool, its address in
the target's space, whether it writes, and the FAB_CLK cycles it has waited. -/
structure MxReq where
  master : Master
  port : Nat
  addr : Nat
  write : Bool
  waited : Nat
  deriving DecidableEq, Repr

end Sys2Proof
end

