-- ==== Sys2Proof/Syntax.lean ====
section
/-! DEFINITION. The commands of the device: one constructor per row of spec/opcode_table.json. An operand is what the
outside world supplies with the command (the path and the value of an access, a message of the peer, a measured value,
the outcome of an analogue search); everything else a command needs stands in the state. -/

namespace Sys2Proof

/-- The commands (spec/opcode_table.json). -/
inductive Instr where
  /-- REGISTER_WRITE: A write to a register field that has no row of its own acts as its access code defines. -/
  | registerWrite (path : Path) (off : Nat) (value : Nat) (be : Nat) (ep : Bool)
  /-- TABLE_WINDOW_WRITE: A write to a table window merges its enabled bytes into the entry under the entry's own rules. -/
  | tableWindowWrite (path : Path) (off : Nat) (value : Nat) (be : Nat) (ep : Bool)
  /-- RC_READ: A read of an RC field returns its value and clears it, applying an event of the same cycle afterwards. -/
  | rcRead (path : Path) (off : Nat)
  /-- LO_READ_LATCH: A read of a _LO register returns the low half and latches the high half for that path. -/
  | loReadLatch (path : Path) (off : Nat)
  /-- LO_WRITE_STAGE: A write to the _LO register of a writable pair is held in the staging register. -/
  | loWriteStage (path : Path) (off : Nat) (value : Nat)
  /-- HI_WRITE_COMMIT: A write to the _HI register applies both halves of the pair together. -/
  | hiWriteCommit (path : Path) (off : Nat) (value : Nat)
  /-- PG_KEY_WRITE: A write of the key to PG_KEY opens the locked page for the next write from that path; any other value closes it. -/
  | pgKeyWrite (path : Path) (page : Page) (value : Nat)
  /-- PG_LOCK: A write of 1 to PG_CTL.LOCK locks the page's RWL fields until the page's reset. -/
  | pgLock (path : Path) (page : Page)
  /-- BLOCK_SOFT_RESET: A write of PG_CTL.SOFT_RST resets the class B fields of the page and of pages it acts on. -/
  | blockSoftReset (path : Path) (page : Page)
  /-- PAGE_FREEZE: Setting PG_CTL.FREEZE latches the page's counters and ARR.NOW; clearing it returns reads to live values. -/
  | pageFreeze (path : Path) (page : Page) (on : Bool)
  /-- IRQ_STAT_CLEAR: A W1C write to PG_IRQ_STAT clears the named bits of PG_IRQ_RAW. -/
  | irqStatClear (path : Path) (page : Page) (bits : Nat)
  /-- PENDING_MESSAGE_SEND: A pending MSI-X message is sent once the vector and function are unmasked and bus mastering is enabled. -/
  | pendingMessageSend (vector : Nat)
  /-- ARM: ARM_CTL.ARM starts the check of the page's shadow set for its target, or is ignored while an arm is in progress. -/
  | arm (path : Path) (page : Page)
  /-- CANCEL: ARM_CTL.CANCEL ends a CHECKING or PENDING arm, and every page of its device arm, as CANCELLED. -/
  | cancel (path : Path) (page : Page)
  /-- COPY_BACK: ARM_CTL.COPY_BACK copies the active set into the shadow set. -/
  | copyBack (path : Path) (page : Page)
  /-- ARM_CHECK_DONE: A page's check ends and the arm becomes PENDING or REJECTED with its code and ARM_DETAIL. -/
  | armCheckDone (page : Page)
  /-- DEVICE_ARM_CHECK: When every partner has ended its own check, the XS arm checks the combination and accepts or rejects all together. -/
  | deviceArmCheck
  /-- ARM_APPLY: At the first frame tick at or after its boundary a pending arm is applied, reported and its interrupt raised. -/
  | armApply
  /-- REPLAN: After a group degrades the XS scheduler generates a reduced device arm for the next integration boundary. -/
  | replan
  /-- LNK_ENABLE: Setting LNK PG_CTL.ENABLE checks the lane set and starts bring-up of the link, or refuses it. -/
  | lnkEnable (path : Path) (j : Nat)
  /-- LNK_DISABLE: Clearing LNK PG_CTL.ENABLE stops the link and returns it to DISABLED. -/
  | lnkDisable (path : Path) (j : Nat)
  /-- SIGNAL_DETECT: Signal detected on the lanes of an enabled link starts lane bring-up at S1. -/
  | signalDetect (lane : Nat)
  /-- CAPABILITY_MESSAGE: A capability exchange message received in two identical copies is taken at S1. -/
  | capabilityMessage (j : Nat) (msg : CapMsg)
  /-- TRAINING_FRAME: A training frame's request and response fields adjust the taps and report READY. -/
  | trainingFrame (lane : Nat) (frame : TrainFrame)
  /-- STEP_TRAIN_TIMEOUT: A step's training not complete within 20 ms fails that step under the step policy. -/
  | stepTrainTimeout (lane : Nat)
  /-- MARKER_GROUP: A marker group received on the lanes aligns the lanes, carries STATUS and is the point of rate matching. -/
  | markerGroup (j : Nat) (markers : List Marker) (status : LinkStatus) (fill : Nat)
  /-- LINK_TILE: A framed link tile is counted in RX_TILES and then accepted or dropped under the first cause that applies. -/
  | linkTile (j : Nat) (lane : Nat) (fill : Nat) (blocks : List Block)
  /-- HUNT: A word that is neither SYNC nor IDLE after a tile starts a hunt for the next valid header. -/
  | hunt (j : Nat) (words : Nat)
  /-- STRAY_CONTROL_BLOCK: A reserved or misplaced control block is discarded and truncates any tile it falls in. -/
  | strayControlBlock (j : Nat) (block : Block)
  /-- UNCORRECTABLE_CODEWORD: An uncorrectable codeword is counted and every tile touching it is dropped with cause FEC. -/
  | uncorrectableCodeword (lane : Nat) (blocks : Nat)
  /-- ELASTIC_OVERFLOW: An elastic buffer reaching full drops tiles until the fill falls to 64 blocks. -/
  | elasticOverflow (lane : Nat)
  /-- LOCK_LOSS: Loss of CDR, FEC or marker lock on a lane requests retraining of its link. -/
  | lockLoss (lane : Nat) (lock : LockKind)
  /-- RETRAIN: LNK.CTL.RETRAIN stops data and retrains the link's lanes at its step. -/
  | retrain (path : Path) (j : Nat)
  /-- RETRAIN_DONE: A lane's retrain ends with a working setting and the link resumes. -/
  | retrainDone (lane : Nat) (result : RetrainEnd)
  /-- SETTING_TIMEOUT: A lane finding no working setting within 20 ms fails and the link renegotiates to a narrower width. -/
  | settingTimeout (lane : Nat)
  /-- RETRY: SLK.CTL.RETRY trains a FAILED lane on its own with the peer. -/
  | retry (path : Path) (lane : Nat)
  /-- RETRY_DONE: A standalone lane training ends in SPARE_OK or back in FAILED. -/
  | retryDone (lane : Nat) (ok : Bool)
  /-- REGROW: LNK.CTL.REGROW retrains the widest usable lane set, or is ignored. -/
  | regrow (path : Path) (j : Nat)
  /-- DORMANT_REQ: LNK.CTL.DORMANT_REQ asks the peer to enter DORMANT, or is refused. -/
  | dormantReq (path : Path) (j : Nat)
  /-- DORMANT_ACK_TIMEOUT: No DORMANT acknowledge within four marker intervals refuses the entry. -/
  | dormantAckTimeout (j : Nat)
  /-- WAKE_REQ: LNK.CTL.WAKE_REQ relocks the transmit PLL and sends the wake tone. -/
  | wakeReq (path : Path) (j : Nat)
  /-- WAKE_TONE: A wake tone from the peer wakes a DORMANT link. -/
  | wakeTone (j : Nat)
  /-- WAKE_TIMEOUT: A lane that misses a wake bound retrains under R77. -/
  | wakeTimeout (lane : Nat)
  /-- PRESET_SAVE: SLK.CTL.PRESET_SAVE copies the S4 taps into PRESET and requests a record save. -/
  | presetSave (path : Path) (lane : Nat)
  /-- PRESET_CLR: SLK.CTL.PRESET_CLR clears PRESET and requests a record save. -/
  | presetClr (path : Path) (lane : Nat)
  /-- FRAME_TICK: Every 4096 CTL_CLK cycles ARR.NOW advances and the pulses of the frame grid are driven. -/
  | frameTick
  /-- LOAD_SYNC: ARR.CTL.LOAD_SYNC makes a load of NOW pending for the next SYNC edge. -/
  | loadSync (path : Path)
  /-- LOAD_NOW: ARR.CTL.LOAD_NOW makes a load of NOW pending for the next frame tick. -/
  | loadNow (path : Path)
  /-- LOAD_CANCEL: ARR.CTL.LOAD_CANCEL withdraws a pending load. -/
  | loadCancel (path : Path)
  /-- NOW_LOAD: A pending load copies NOW_LD into NOW, sets NOW_VALID and releases resident tiles. -/
  | nowLoad
  /-- ARR_ENABLE: Enabling the arrival area releases old residency and starts directory initialisation. -/
  | arrEnable (path : Path)
  /-- ARR_DISABLE: Disabling the arrival area stops placement and clears INIT_DONE. -/
  | arrDisable (path : Path)
  /-- INIT_DONE: Directory initialisation ends and the arrival area accepts tiles. -/
  | initDone
  /-- TILE_PLACE: An accepted tile is written to its slot with its descriptor, or counted as a duplicate. -/
  | tilePlace
  /-- FRAME_CLOSE: At NOW = f + LAT frame f closes and its unfilled slots are counted missing. -/
  | frameClose
  /-- SLOT_EXPIRY: At NOW = h + D − AHEAD the slots of frame h expire and unread ones are counted. -/
  | slotExpiry
  /-- SLOT_READ: A read of a slot verifies its descriptor and payload CRC and marks its samples valid or invalid. -/
  | slotRead (frame : Nat) (group : Nat) (chan : Nat)
  /-- UPDATE_INTERVAL: At each update interval the evaluator computes every modelled input's delay and phase. -/
  | updateInterval (interval : Nat)
  /-- CHUNK_START: A chunk starts at the close of its last frame once the previous chunk has finished. -/
  | chunkStart
  /-- CHUNK_PAIR: One coarse channel and input group of a chunk is primed, filtered, corrected and delivered as rows. -/
  | chunkPair
  /-- CHUNK_END: The last pair of a chunk completes and the spans it finishes close. -/
  | chunkEnd
  /-- MERE_ROW_WRITE: A channeliser row is written to its Mere tile, opening or holding the tile as needed. -/
  | mereRowWrite (fault : Bool)
  /-- MERE_DESCRIPTOR_WRITE: After the 32nd row write is accepted the tile's descriptor is written. -/
  | mereDescriptorWrite (tile : Nat)
  /-- MERE_DIR_FILL_DONE: The FILL master finishes zeroing the Mere directory and the first pass may proceed. -/
  | mereDirFillDone
  /-- PASS_START: Pass j starts once pass j − 1 is done and span j has closed. -/
  | passStart
  /-- CHANNEL_RELEASE: A channel of a Mere half is released once its reads, drains and replays are done. -/
  | channelRelease (chan : Nat)
  /-- MERE_READ: A Mere tile read is checked for poison, staleness and CRC and yields its effective mask. -/
  | mereRead (tau : Nat) (group : Nat)
  /-- PLAN_EVAL: MERE.CTL.PLAN_EVAL computes PLAN_MEM and PLAN_BW for the shadow sets. -/
  | planEval (path : Path)
  /-- PLAN_EVAL_DONE: The plan evaluation ends and PLAN_SRC shows the shadow results. -/
  | planEvalDone
  /-- EVAL: XS.CTL.EVAL computes the shadow shape registers. -/
  | eval (path : Path)
  /-- EVAL_DONE: The shape evaluation ends and the _SH shape registers hold its results. -/
  | evalDone
  /-- SWEEP_START: The next sweep begins on every active engine once all have finished their drain or switch. -/
  | sweepStart (stall : Nat)
  /-- STEP_START: A step begins when its rows are staged in every active engine and the previous step is done. -/
  | stepStart (wait : Nat)
  /-- DRAIN_START: After a sweep's last MAC cycle the engine drains its contexts once it holds its credit. -/
  | drainStart (engine : Nat) (wait : Nat)
  /-- BUFFER_HANDOVER: The full drain buffer is handed to the Basin and the credit is spent. -/
  | bufferHandover (engine : Nat)
  /-- SELFTEST: ENG.CTL.SELFTEST starts an engine self-test, or is refused. -/
  | selftest (path : Path) (engine : Nat)
  /-- SELFTEST_DONE: A self-test ends and reports pass or fail. -/
  | selftestDone (engine : Nat) (ok : Bool)
  /-- ENGINE_RESET: An engine reset zeroes contexts and staging and discards a partly written drain buffer. -/
  | engineReset (path : Path) (engine : Nat)
  /-- COLLECT_START: The collector starts copying the next drain buffer in order once a collection buffer is free. -/
  | collectStart (wait : Nat)
  /-- COLLECT_DONE: A copy ends, the credit is returned and the buffer's checks complete. -/
  | collectDone
  /-- BUFFER_COMMIT: The accumulator commits a checked buffer's records to the visibility store and slice assembly. -/
  | bufferCommit (wait : Nat)
  /-- CHANNEL_PASS_ACCEPT: A channel-pass is accepted once every buffer is resolved and no pending entry names it. -/
  | channelPassAccept (cycles : Nat)
  /-- FINISHER_CHANNEL: The finisher reads a finished bank channel and writes its packet to the product ring when room allows. -/
  | finisherChannel
  /-- PACKET_COMMIT: A packet's header write is accepted and WPTR advances. -/
  | packetCommit
  /-- RPTR_WRITE: A write to BAS.RPTR advances the read count or is dropped as bad. -/
  | rptrWrite (path : Path) (value : Nat)
  /-- RING_RESET: BAS.CTL.RING_RESET sets WPTR and RPTR to 0, or is blocked. -/
  | ringReset (path : Path)
  /-- WEIGHT_LOAD: The weight loader starts loading the next beamformed channel into the free bank. -/
  | weightLoad
  /-- WEIGHT_LOAD_DONE: A channel's weight load completes. -/
  | weightLoadDone
  /-- B_SWITCH: After a round-0 sweep each B-mode engine flushes its partials to the combiner. -/
  | bSwitch (engine : Nat)
  /-- BANK_SWAP: Once the next channel's weights are loaded the engine swaps banks and finishes its switch. -/
  | bankSwap (engine : Nat) (wait : Nat)
  /-- VOLTAGE_NOTICE: After a pass's last beamformed channel the combiner puts a voltage notice on the ring. -/
  | voltageNotice
  /-- VREL_WRITE: A write to BM.VREL releases voltage halves for later passes. -/
  | vrelWrite (path : Path) (value : Nat)
  /-- TOKEN_TIMEOUT: A missing channel-completion token after TOKEN_DL raises a TOKEN sign. -/
  | tokenTimeout (engine : Nat)
  /-- STEP_TIMEOUT: An engine not finishing a step STEP_DL cycles after the others raises a STEP sign. -/
  | stepTimeout (engine : Nat)
  /-- FAILURE_SIGN: A failure sign resets the engine, marks it FAILED and removes it from the lockstep. -/
  | failureSign (engine : Nat) (sign : Nat)
  /-- FAIL: GSV.CTL.FAIL raises a MANUAL sign for the selected slot. -/
  | fail (path : Path) (group : Nat) (slot : Nat)
  /-- UNLOCK: GSV.CTL.UNLOCK moves a LOCKED_OUT engine to FAILED. -/
  | unlock (path : Path) (group : Nat) (slot : Nat)
  /-- RETEST: GSV.CTL.RETEST self-tests a FAILED or STANDBY engine now. -/
  | retest (path : Path) (group : Nat) (slot : Nat)
  /-- TAKEOVER: At the channel boundary after a sign the Fallow takes over and the lost channel-passes are resolved. -/
  | takeover (group : Nat)
  /-- ENGINE_RETURN: At a pass boundary a repaired engine returns to its slot, or goes LOCKED_OUT. -/
  | engineReturn (group : Nat)
  /-- WELL_FAILURE: A Well detecting its own failure gives up control to the standby Well and self-tests. -/
  | wellFailure (b : Nat) (cause : Nat)
  /-- WELL_WATCHDOG_EXPIRY: A Well's watchdog expires and the Well is treated as failed. -/
  | wellWatchdogExpiry (b : Nat)
  /-- WELL_TAKEBACK: Well A, after passing its test, takes control back when no mailbox command is in progress. -/
  | wellTakeback
  /-- RESTART: WELL.CTL.RESTART reboots a FAILED Well and self-tests it. -/
  | restart (path : Path) (b : Nat)
  /-- TEST: WELL.CTL.TEST self-tests a Well in STANDBY. -/
  | test (path : Path) (b : Nat)
  /-- DRAM_REQUEST: A request is accepted into its channel's queue and ordered against other requests. -/
  | dramRequest (req : DramReq)
  /-- DRAM_READ_COMPLETE: A word read ends clean, corrected, stored poison or uncorrectable and is delivered accordingly. -/
  | dramReadComplete (master : Master) (addr : Nat) (errs : List SymErr)
  /-- TRACK_EXPIRY: A tracking entry with no correction for 4 × P is freed. -/
  | trackExpiry (entry : Nat)
  /-- REFRESH_INTERVAL: A refresh interval passes and any changed multiplier takes effect. -/
  | refreshInterval (stack : Nat)
  /-- TEMP_CHANGE: A stack temperature crosses a threshold, changing its refresh multiplier or setting HOT. -/
  | tempChange (stack : Nat) (temp : Int)
  /-- DRAM_RETRAIN_TIMER: A periodic retrain of the next channel in rotation falls due. -/
  | dramRetrainTimer
  /-- MC_RETRAIN: MC.CTL.RETRAIN retrains the selected channel now. -/
  | mcRetrain (path : Path) (mc : Nat) (ch : Nat)
  /-- DRAM_RETRAIN_DONE: A channel retrain ends, bringing it back online or retiring it. -/
  | dramRetrainDone (chan : Nat) (ok : Bool)
  /-- RETIRE: MC.CTL.RETIRE retires the selected channel at once. -/
  | retire (path : Path) (mc : Nat) (ch : Nat)
  /-- LOG_POP: MC.LOG_POP.POP removes the oldest error-log entry. -/
  | logPop (path : Path) (mc : Nat)
  /-- REGION_WRITE: A write to a region register is performed, refused or blocked under the region rules. -/
  | regionWrite (path : Path) (off : Nat) (value : Nat)
  /-- REMAP: MAP.CTL.REMAP rebuilds the channel list and reloads the Wells, or is blocked. -/
  | remap (path : Path)
  /-- REMAP_DONE: The remap ends and regions take their new sizes. -/
  | remapDone
  /-- FILL: MAP.CTL.FILL starts zeroing a region, or is blocked. -/
  | fill (path : Path) (rgn : Nat)
  /-- FILL_DONE: A region fill ends and sets FILLED and SCRUB. -/
  | fillDone
  /-- SCRUB_PASS_START: The scrub period elapses and a new scrub pass begins. -/
  | scrubPassStart
  /-- START: SCR.CTL.START begins a scrub pass at once. -/
  | start (path : Path)
  /-- SCRUB_READ: A scrub read writes back, queues a spare or skips according to what it finds. -/
  | scrubRead (chan : Nat) (bank : Nat) (row : Nat) (word : Nat) (errs : List SymErr) (raced : Bool)
  /-- SOFT_SPARE: A queued row is copied into a soft spare and redirected. -/
  | softSpare
  /-- DMACH_START: DMACH.CTL.START begins the channel's program, or ends in ERROR. -/
  | dmachStart (path : Path) (n : Nat)
  /-- DMACH_STOP: DMACH.CTL.STOP stops the channel after its read bursts are written. -/
  | dmachStop (path : Path) (n : Nat)
  /-- DMACH_CLEAR: DMACH.CTL.CLEAR returns a finished channel to IDLE. -/
  | dmachClear (path : Path) (n : Nat)
  /-- STOP_ALL: DMA.CTL.STOP_ALL stops every running or waiting channel. -/
  | stopAll (path : Path)
  /-- PROGRAM_FETCH: A 256-byte instruction fetch returns, or stops the channel on poison or error. -/
  | programFetch (n : Nat) (data : List Byte) (cpl : Cpl)
  /-- MOVE: A MOVE copies LEN bytes from source to destination through the funnel. -/
  | move (n : Nat)
  /-- LOOP: A LOOP executes its body COUNT times or forever. -/
  | loop (n : Nat)
  /-- WAIT: A WAIT reads a word and completes when its condition holds. -/
  | wait (n : Nat) (host : Nat) (cpl : Cpl)
  /-- WAIT_POLL: A waiting instruction repeats its read after the poll interval. -/
  | waitPoll (n : Nat) (host : Nat) (cpl : Cpl) (cycles : Nat)
  /-- WAIT_TIMEOUT: A WAIT whose condition has not held by TIMEOUT stops the channel. -/
  | waitTimeout (n : Nat) (cycles : Nat)
  /-- SIGNAL: A SIGNAL performs FLUSH, WRITE, CRC_STORE, CRC_RESET, DP_STEP, IRQ and END in order. -/
  | signal (n : Nat)
  /-- ILLEGAL: An instruction with an unknown opcode or reserved content stops the channel. -/
  | illegal (n : Nat)
  /-- BURST_GRANT: The DMA scheduler grants a burst to the next channel by age, priority and round-robin. -/
  | burstGrant
  /-- DMA_READ_RETURN: Read data returns to the funnel, poisoned data being marked and counted. -/
  | dmaReadReturn (n : Nat) (data : List Byte) (cpl : Cpl)
  /-- WRITE_ERROR_RESPONSE: A write error response stops the issuing MOVE or is recorded as a late error. -/
  | writeErrorResponse (n : Nat)
  /-- MATRIX_REQUEST: A target port grants a request by class and round-robin, or the request is a decode error. -/
  | matrixRequest (target : Nat) (reqs : List MxReq)
  /-- MSPI_RST_PULSE: A pulse on MSPI_RST_N clears a hung port or abandons the transaction in progress. -/
  | mspiRstPulse
  /-- MSPI_READ: A management SPI READ transaction performs a BAR0 read and returns data and status. -/
  | mspiRead (addr : Nat)
  /-- MSPI_WRITE: A management SPI WRITE transaction performs a BAR0 write and returns status. -/
  | mspiWrite (addr : Nat) (value : Nat)
  /-- MSPI_BAD_OPCODE: An opcode other than READ or WRITE is ignored until CS_N rises. -/
  | mspiBadOpcode (opcode : Nat)
  /-- MSPI_CS_RISE: CS_N rising ends a transaction, discarding or abandoning it as its progress dictates. -/
  | mspiCsRise (write : Bool) (addr : Nat) (value : Nat) (bits : Nat)
  /-- CONFIG_REQUEST: A PCIe configuration request is answered, retried or completed with UR. -/
  | configRequest (req : CfgReq)
  /-- BAR2_READ: A BAR2 read reads DRAM at WIN_BASE plus offset, with poison or decode errors marked. -/
  | bar2Read (off : Nat) (len : Nat)
  /-- BAR2_WRITE: A BAR2 write writes DRAM, or is dropped and counted, or stored as poison. -/
  | bar2Write (off : Nat) (data : List Byte) (ep : Bool)
  /-- PCIE_LINK_UP: PCIe link training completes and PCIE.LINK reports the link. -/
  | pcieLinkUp (speed : Nat) (width : Nat) (flit : Bool) (reversed : Bool)
  /-- PCIE_LINK_DOWN: The PCIe link goes down outside a reset and host traffic gets error responses. -/
  | pcieLinkDown
  /-- D3HOT_ENTRY: Entry to D3hot makes BAR accesses complete with UR and holds MSI-X messages. -/
  | d3hotEntry
  /-- D0_RETURN: Return to D0 serves BAR accesses again with every register kept. -/
  | d0Return
  /-- PING: Mailbox PING reports the Well in control and the Onamen version. -/
  | ping (path : Path)
  /-- FW_INFO: Mailbox FW_INFO reports the running image's version, build, slot and key index. -/
  | fwInfo (path : Path)
  /-- NVR_READ: Mailbox NVR_READ returns bytes of the persistent record. -/
  | nvrRead (path : Path)
  /-- NVR_FLUSH: Mailbox NVR_FLUSH writes a record bank and returns its sequence number. -/
  | nvrFlush (path : Path)
  /-- SET_SUBSYS: Mailbox SET_SUBSYS stores a new subsystem identity in the record for the next POR. -/
  | setSubsys (path : Path)
  /-- FW_STAGE: Mailbox FW_STAGE checks and writes a new image into the slot not running. -/
  | fwStage (path : Path)
  /-- WELL_TEST: Mailbox WELL_TEST self-tests the Well in STANDBY. -/
  | wellTest (path : Path)
  /-- UNKNOWN_CMD: A mailbox command with an unlisted opcode completes with UNKNOWN_CMD. -/
  | unknownCmd (path : Path)
  /-- MBX_COMMAND_DONE: The Well writes the responses and status, clears BUSY and sets DONE. -/
  | mbxCommandDone (img : Img) (flashOk : Bool)
  /-- DOE_DISCOVERY: A DOE Discovery request is answered. -/
  | doeDiscovery (index : Nat)
  /-- GET_VERSION: An SPDM GET_VERSION request is answered. -/
  | getVersion
  /-- GET_CAPABILITIES: An SPDM GET_CAPABILITIES request is answered. -/
  | getCapabilities
  /-- NEGOTIATE_ALGORITHMS: An SPDM NEGOTIATE_ALGORITHMS request selects ECDSA P-384 and SHA-384. -/
  | negotiateAlgorithms
  /-- GET_DIGESTS: An SPDM GET_DIGESTS request returns the certificate digests. -/
  | getDigests
  /-- GET_CERTIFICATE: An SPDM GET_CERTIFICATE request returns the slot 0 chain. -/
  | getCertificate (slot : Nat) (off : Nat) (len : Nat)
  /-- CHALLENGE: An SPDM CHALLENGE request is signed with the device identity key. -/
  | challenge (slot : Nat) (nonce : List Byte)
  /-- GET_MEASUREMENTS: An SPDM GET_MEASUREMENTS request returns the measurement blocks. -/
  | getMeasurements (index : Nat) (signed : Bool) (nonce : List Byte)
  /-- UNSUPPORTED_REQUEST: Any other SPDM request returns ERROR with UnsupportedRequest. -/
  | unsupportedRequest (code : Nat)
  /-- DOE_ABORT: A DOE Abort ends the request in progress. -/
  | doeAbort
  /-- OSC_LOST: No OSC_IN edge for 1 µs holds ROOT_CLK, faults TUNE and puts the Tarn in FREERUN. -/
  | oscLost
  /-- OSC_RETURN: OSC_IN running 10 ms without a gap counts as present and the root PLL pulls back. -/
  | oscReturn
  /-- OSC_PULL_DONE: The root PLL completes its pull back to OSC_IN and OSC_LOST clears. -/
  | oscPullDone
  /-- QL_SAMPLE: Every 1 ms the QL pins are sampled and a repeated value is taken. -/
  | qlSample (a : Nat) (b : Nat)
  /-- REF_MEASUREMENT: At the end of each 1 s gate the references are measured, qualified and selection runs. -/
  | refMeasurement (meas : List RefMeas)
  /-- REF_ACTIVITY_LOSS: No clock edge on a reference for 1 µs makes it lost within 2 µs. -/
  | refActivityLoss (r : Nat)
  /-- SWITCH_BUILDOUT: After 16 phase comparisons BUILDOUT takes the offset and the loop resumes on the new reference. -/
  | switchBuildout (offset : Int)
  /-- SWITCH_DONE: A hitless switch ends and SWITCHES advances. -/
  | switchDone
  /-- REF_PPS: A PPS edge of the active reference executes pending ToD commands and records PPS_OFS. -/
  | refPps (offset : Int)
  /-- LOOP_UPDATE: Every 1 ms the loop writes a new TUNE code, works off phase steps and judges lock. -/
  | loopUpdate (phase : Int)
  /-- HIST_SAVE_TIMER: Each hour of LOCKED time HOLD_CODE is copied to HIST and a record save requested. -/
  | histSaveTimer
  /-- HIST_SAVE: TRN0.CTL.HIST_SAVE copies HOLD_CODE to HIST now. -/
  | histSave (path : Path)
  /-- PSTEP_WRITE: A write to TRN0.PSTEP adds to the phase step remaining, or is ignored. -/
  | pstepWrite (path : Path) (value : Nat)
  /-- PSTEP_CANCEL: TRN0.CTL.PSTEP_CANCEL sets PSTEP_REM to zero. -/
  | pstepCancel (path : Path)
  /-- REALIGN: TRN2.CTL.REALIGN arms a realign for the next qualifying PPS edge. -/
  | realign (path : Path)
  /-- REALIGN_CANCEL: TRN2.CTL.REALIGN_CANCEL withdraws a pending realign. -/
  | realignCancel (path : Path)
  /-- REALIGN_EDGE: At the realign edge the frame grid and CLKOUT dividers restart. -/
  | realignEdge
  /-- TOD_SECOND_WRAP: The ToD nanoseconds carry into the seconds and PPS_OUT rises. -/
  | todSecondWrap
  /-- TOD_NOW_READ: A read of TOD.NOW_NS latches the whole ToD for that path. -/
  | todNowRead (path : Path) (cycles : Nat)
  /-- CMP_FIRE: An armed ToD compare unit fires when the ToD reaches its target. -/
  | cmpFire (n : Nat)
  /-- LOAD_PPS: TOD.CTL.LOAD_PPS makes a seconds load pending for the next reference PPS. -/
  | loadPps (path : Path)
  /-- ALIGN: TOD.CTL.ALIGN makes a nanosecond alignment pending for the next reference PPS. -/
  | align (path : Path)
  /-- TOD_CANCEL: TOD.CTL.CANCEL withdraws a pending ToD command. -/
  | todCancel (path : Path)
  /-- NO_PPS: A ToD command waiting 2 s without a PPS edge sets NO_PPS. -/
  | noPps
  /-- TUNE_FAULT: A fault forces TUNE to zero scale and records its cause. -/
  | tuneFault (cause : Nat)
  /-- TUNE_FAULT_CLEAR: A fault condition absent for 10 ms clears the fault. -/
  | tuneFaultClear (cause : Nat)
  /-- TUNE_CODE_WRITE: A write of TUNE.CODE drives the output while SRC is 1. -/
  | tuneCodeWrite (path : Path) (value : Nat)
  /-- RANGE_CHANGE: A TUNE.CFG write changing RANGE takes the output to zero scale and starts the change. -/
  | rangeChange (path : Path) (value : Nat)
  /-- RANGE_DONE: After 50 µs the new range is connected and the output resumes. -/
  | rangeDone
  /-- DOM_EN_WRITE: A write to PWR.DOM_EN switches domains on or off, or is refused. -/
  | domEnWrite (path : Path) (value : Nat)
  /-- DOMAIN_DONE: Every domain switch has completed. -/
  | domainDone
  /-- GO_ACTIVE: PWR.CTL.GO_ACTIVE leaves IDLE or STANDBY. -/
  | goActive (path : Path)
  /-- GO_IDLE: PWR.CTL.GO_IDLE puts links DORMANT, DRAM in self-refresh and CHAN and ENG off. -/
  | goIdle (path : Path)
  /-- GO_STANDBY: PWR.CTL.GO_STANDBY stops the Wells and switches off all but AON and PCIE. -/
  | goStandby (path : Path)
  /-- STATE_DONE: A device state transition completes. -/
  | stateDone
  /-- POR: PORST_N low or a supply below its limit resets everything and restarts bring-up. -/
  | por
  /-- PERST_ASSERT: PERST# assertion resets class F, H and B fields and puts DRAM in self-refresh. -/
  | perstAssert
  /-- PERST_RELEASE: PERST# release resumes bring-up at step 5. -/
  | perstRelease
  /-- HOT_RESET: A PCIe hot reset clears every class H field and stops the running blocks. -/
  | hotReset
  /-- FLR: A function level reset clears every class H field with the link kept up. -/
  | flr
  /-- BRINGUP_STEP: A bring-up step completes and the next begins. -/
  | bringupStep (env : BringupEnv)
  /-- SAVE: NVR.CTL.SAVE requests a save of the persistent record. -/
  | save (path : Path)
  /-- NVR_SAVE: A requested save writes the other bank with the header last and reads it back. -/
  | nvrSave
  /-- NVR_SAVE_DONE: A save completes or fails after its retry. -/
  | nvrSaveDone (ok : Bool)
  /-- OPEN: SEC.DBG_CTL.OPEN after the key erases the key SRAM to open debug, or is refused. -/
  | open (path : Path)
  /-- KEY_ERASE_DONE: The key SRAM erase and read-back end, opening debug or setting ERASE_FAIL. -/
  | keyEraseDone (ok : Bool)
  /-- AVS_RETRY: An unacknowledged VDD_CORE setpoint is sent again every 1 ms. -/
  | avsRetry (ack : Bool)
  /-- AGING_MONITOR: Each second the Well reads the aging monitors and adjusts the VDD_CORE setpoint. -/
  | agingMonitor (reading : Nat) (ack : Bool)
  /-- THERMTRIP: A sensor above 135 °C drives THERMTRIP_N low until POR. -/
  | thermtrip (temp : Int)
  /-- FREEZE_ALL: ACC.CTL.FREEZE_ALL freezes every page at one common clock edge. -/
  | freezeAll (path : Path)
  /-- THAW_ALL: ACC.CTL.THAW_ALL clears every FREEZE, or is ignored while a check runs. -/
  | thawAll (path : Path)
  /-- CHECK: ACC.CTL.CHECK evaluates every conservation identity on the frozen values. -/
  | check (path : Path)
  /-- CHECK_DONE: The identity check ends with RESULT and DETAIL set. -/
  | checkDone
  /-- EVENT_RECORD: One queued event is written to the ring with the next EVSEQ, or dropped. -/
  | eventRecord
  /-- SPILL_COPY: The Well copies ring entries to the DRAM spill when the threshold is reached. -/
  | spillCopy
  /-- EVT_RPTR_WRITE: A write to EVT.RPTR consumes entries or is dropped as bad. -/
  | evtRptrWrite (path : Path) (value : Nat)
  /-- CDR_LOCK: The receive CDR of a lane locks, with block lock at S1, moving the lane from DETECT to S1_EXCH or, after a rate change or a wake, into training or relock on saved taps. -/
  | cdrLock (lane : Nat)
  /-- FEC_LOCK: A lane gains codeword lock at S2 to S4 after training or a wake, so that markers can then be found. -/
  | fecLock (lane : Nat)
  /-- CORRECTED_CODEWORD: A codeword with 1 to 15 symbol errors is corrected and counted in CORR_SYM, CORR_CW and FEC_MAX. -/
  | correctedCodeword (lane : Nat) (symbols : Nat)
  /-- WELL_SELFTEST_DONE: A Well's self-test ends within 20 ms, leaving Well B in STANDBY or a failing Well in FAILED. -/
  | wellSelftestDone (b : Nat) (ok : Bool)
  /-- COMPLETION_TIMEOUT: A device read to the host times out and its data counts as poisoned, advancing PCIE.CPL_TIMEOUT. -/
  | completionTimeout (n : Nat)
  /-- BOUNDARY_SCAN: A JTAG boundary-scan instruction takes the pins from their functions, stopping every link and corrupting any run. -/
  | boundaryScan
  deriving DecidableEq, Repr

end Sys2Proof
end

