-- ==== Sys2Proof/Decode.lean ====
section
/-! DEFINITION. The commands that words spell. The command table gives no row any bits (a command is an access, an event or a
completion, not a word), so no word spells a command. -/

namespace Sys2Proof

/-- The command that a word of some bits spells: none of the table's rows has a word. -/
def decodeTableWord (_nbits _w : Nat) : Option Instr := none

end Sys2Proof
end

