-- ==== Sys2Proof/Config.lean ====
section
/-! DEFINITION. What an implementation fixes and the spec leaves open: free values. Each is an opaque constant, so that
nothing in Lean can evaluate it and a statement about it holds whatever it is. -/

namespace Sys2Proof.Config

/-- The n-th value the spec leaves open where the machine goes on; `State.freeCtr` counts the uses, and the user of a
value takes it modulo the width it needs. -/
opaque freeNat : Nat → Nat

/-- The byte that a DRAM address never written since power-on reads as (R313: contents undefined); the first argument
counts the power-ons of DRAM. -/
opaque dramPowerOn : Nat → Nat → BitVec 8

/-- The byte that the Wells write at a place of region 7 (R314, R417: their tables have no stated contents); the first argument
counts the times they write it. -/
opaque sysData : Nat → Nat → BitVec 8

/-- The bytes delivered with a poison mark, by use and index (the spec gives poisoned data no value). -/
opaque badData : Nat → Nat → BitVec 8

/-- The 32-bit identity that the device sends in its S1 messages (R52 gives it no value). -/
opaque linkIdentity : Nat

/-- The pattern that stored poison puts on the check bytes of a word (R293: fixed in the silicon, seen only through the
outcomes of reads). -/
opaque poisonPattern : Nat → BitVec 8

/-- The tap at the odd distance 2 × n + 3, n below 11, from the centre of the 47-tap half-band decimation filter of zoom,
an 18-bit number in units of 2^-17 (R122 gives no coefficients; the other taps follow from the half-band shape and
the DC gain). -/
opaque halfBand : Nat → Int

/-- Bytes that the signing engine or the hash unit computes from a byte string, for a purpose number: SHA-384 digests,
ECDSA P-384 signatures, the fused certificate chain (spec names the algorithms; their bytes depend on fused secrets). -/
opaque crypto : Nat → List Nat → Nat

/-- The payload bits of a NaN result of the binary64 arithmetic unit. -/
opaque nanPayload : Nat → Nat → Nat

/-- What a sum or sample of a run in progress becomes when a boundary-scan instruction corrupts the run (R427), by use and
position. -/
opaque corrupt : Nat → Nat → Int

end Sys2Proof.Config
end

