-- ==== Sys2Proof/Machine/Fields.lean ====
section
/-! DEFINITION. The named fields of every register page: `R.PAGE_REGISTER_FIELD` is the field the spec writes
PAGE.REGISTER.FIELD. Written from the register and field tables of spec/02 to spec/15 (R4: offsets are relative to
the page base; R5: a _LO/_HI pair is one 64-bit quantity at its _LO offset). Instance pages take the instance, arrays
of registers take the index after it. -/

namespace Sys2Proof.Machine

/-- A field of a register: BAR0 offset of its register (of the _LO register for a pair), lowest bit, width. -/
structure Fld where
  off : Nat
  lo : Nat
  w : Nat
  deriving DecidableEq, Repr

namespace R

/-! ### HDR -/
def PG_ID_LAYOUT (p : Page) : Fld := ⟨p.base + 0x0, 0, 8⟩
def PG_ID_INSTANCE (p : Page) : Fld := ⟨p.base + 0x0, 8, 8⟩
def PG_ID_TYPE (p : Page) : Fld := ⟨p.base + 0x0, 16, 16⟩
def PG_CAP_COUNT (p : Page) : Fld := ⟨p.base + 0x4, 0, 8⟩
def PG_CAP_PRESENT (p : Page) : Fld := ⟨p.base + 0x4, 8, 1⟩
def PG_CAP_BLOCK (p : Page) : Fld := ⟨p.base + 0x4, 16, 16⟩
def PG_CTL_ENABLE (p : Page) : Fld := ⟨p.base + 0x8, 0, 1⟩
def PG_CTL_SOFT_RST (p : Page) : Fld := ⟨p.base + 0x8, 1, 1⟩
def PG_CTL_FREEZE (p : Page) : Fld := ⟨p.base + 0x8, 2, 1⟩
def PG_CTL_LOCK (p : Page) : Fld := ⟨p.base + 0x8, 3, 1⟩
def PG_STAT_READY (p : Page) : Fld := ⟨p.base + 0xc, 0, 1⟩
def PG_STAT_BUSY (p : Page) : Fld := ⟨p.base + 0xc, 1, 1⟩
def PG_STAT_ERR (p : Page) : Fld := ⟨p.base + 0xc, 2, 1⟩
def PG_STAT_BLOCKED (p : Page) : Fld := ⟨p.base + 0xc, 3, 1⟩
def PG_STAT_STATE (p : Page) : Fld := ⟨p.base + 0xc, 4, 4⟩
def PG_IRQ_RAW (p : Page) : Fld := ⟨p.base + 0x10, 0, 32⟩
def PG_IRQ_STAT (p : Page) : Fld := ⟨p.base + 0x14, 0, 32⟩
def PG_IRQ_EN (p : Page) : Fld := ⟨p.base + 0x18, 0, 32⟩
def PG_IRQ_VEC_VECTOR (p : Page) : Fld := ⟨p.base + 0x1c, 0, 11⟩
def PG_ERR_CODE_CODE (p : Page) : Fld := ⟨p.base + 0x20, 0, 8⟩
def PG_ERR_CODE_VALID (p : Page) : Fld := ⟨p.base + 0x20, 31, 1⟩
def PG_ERR_SEQ_FRAME (p : Page) : Fld := ⟨p.base + 0x24, 0, 32⟩
def PG_ERR_CNT_COUNT (p : Page) : Fld := ⟨p.base + 0x28, 0, 32⟩
def PG_SCRATCH (p : Page) : Fld := ⟨p.base + 0x2c, 0, 32⟩
def PG_SNAP_SEQ_FRAME (p : Page) : Fld := ⟨p.base + 0x30, 0, 48⟩
def PG_KEY (p : Page) : Fld := ⟨p.base + 0x3c, 0, 32⟩

/-! ### ARM -/
def ARM_CTL_ARM (b : Nat) : Fld := ⟨b + 0x0, 0, 1⟩
def ARM_CTL_CANCEL (b : Nat) : Fld := ⟨b + 0x0, 1, 1⟩
def ARM_CTL_COPY_BACK (b : Nat) : Fld := ⟨b + 0x0, 2, 1⟩
def ARM_STATUS_STATE (b : Nat) : Fld := ⟨b + 0x4, 0, 3⟩
def ARM_STATUS_LATE (b : Nat) : Fld := ⟨b + 0x4, 3, 1⟩
def ARM_STATUS_SHADOW_BLOCKED (b : Nat) : Fld := ⟨b + 0x4, 4, 1⟩
def ARM_STATUS_CANCEL_LATE (b : Nat) : Fld := ⟨b + 0x4, 5, 1⟩
def ARM_STATUS_ARM_IGNORED (b : Nat) : Fld := ⟨b + 0x4, 6, 1⟩
def ARM_STATUS_CODE (b : Nat) : Fld := ⟨b + 0x4, 8, 8⟩
def ARM_STATUS_APPLY_CNT (b : Nat) : Fld := ⟨b + 0x4, 16, 16⟩
def ARM_TGT (b : Nat) : Fld := ⟨b + 0x8, 0, 48⟩
def ARM_APPLIED (b : Nat) : Fld := ⟨b + 0x10, 0, 48⟩
def ARM_DETAIL_WHERE (b : Nat) : Fld := ⟨b + 0x18, 0, 16⟩
def ARM_DETAIL_TYPE (b : Nat) : Fld := ⟨b + 0x18, 16, 8⟩
def ARM_DETAIL_WINDOW (b : Nat) : Fld := ⟨b + 0x18, 24, 4⟩
def ARM_DETAIL_TABLE (b : Nat) : Fld := ⟨b + 0x18, 31, 1⟩

/-! ### ID -/
def ID_PART_DEVICE : Fld := ⟨0x40, 0, 16⟩
def ID_PART_ORD_CODE : Fld := ⟨0x40, 16, 4⟩
def ID_PART_STEPPING : Fld := ⟨0x40, 20, 8⟩
def ID_ENG_PHYS : Fld := ⟨0x44, 0, 7⟩
def ID_ENG_GROUPS : Fld := ⟨0x44, 8, 4⟩
def ID_ENG_LOGICAL : Fld := ⟨0x44, 16, 7⟩
def ID_SLK_LANES : Fld := ⟨0x48, 0, 7⟩
def ID_SLK_LINKS : Fld := ⟨0x48, 8, 7⟩
def ID_MEM_STACKS : Fld := ⟨0x4c, 0, 3⟩
def ID_MEM_MCS : Fld := ⟨0x4c, 4, 4⟩
def ID_MEM_CHANNELS : Fld := ⟨0x4c, 8, 7⟩
def ID_MEM_GIB : Fld := ⟨0x4c, 16, 8⟩
def ID_DMA_CHANNELS : Fld := ⟨0x50, 0, 6⟩
def ID_DMA_PSRAM_KIB : Fld := ⟨0x50, 16, 9⟩
def ID_SERIAL : Fld := ⟨0x54, 0, 64⟩

/-! ### ST -/
def ST_STATE_STEP : Fld := ⟨0x1040, 0, 4⟩
def ST_STATE_READY : Fld := ⟨0x1040, 4, 1⟩
def ST_STATE_DEV_STATE : Fld := ⟨0x1040, 8, 2⟩
def ST_STATE_FAIL_STEP : Fld := ⟨0x1040, 12, 4⟩
def ST_STATE_FAIL_CODE : Fld := ⟨0x1040, 16, 8⟩
def ST_RST_CAUSE_POR : Fld := ⟨0x1044, 0, 1⟩
def ST_RST_CAUSE_PERST : Fld := ⟨0x1044, 1, 1⟩
def ST_RST_CAUSE_HOT : Fld := ⟨0x1044, 2, 1⟩
def ST_RST_CAUSE_FLR : Fld := ⟨0x1044, 3, 1⟩
def ST_RST_CAUSE_WELL_WDT : Fld := ⟨0x1044, 4, 1⟩
def ST_BLOCKED_CNT_COUNT : Fld := ⟨0x1048, 0, 32⟩
def ST_UNMAPPED_CNT_COUNT : Fld := ⟨0x104c, 0, 32⟩
def ST_PARTIAL_CNT_COUNT : Fld := ⟨0x1050, 0, 32⟩
def ST_LAST_ACCESS_OFFSET : Fld := ⟨0x1054, 0, 26⟩
def ST_LAST_ACCESS_KIND : Fld := ⟨0x1054, 28, 2⟩
def ST_LAST_ACCESS_MSPI : Fld := ⟨0x1054, 30, 1⟩
def ST_LAST_ACCESS_WRITE : Fld := ⟨0x1054, 31, 1⟩

/-! ### PWR -/
def PWR_CTL_GO_ACTIVE : Fld := ⟨0x2040, 0, 1⟩
def PWR_CTL_GO_IDLE : Fld := ⟨0x2040, 1, 1⟩
def PWR_CTL_GO_STANDBY : Fld := ⟨0x2040, 2, 1⟩
def PWR_CFG_MEM_RET : Fld := ⟨0x2044, 0, 1⟩
def PWR_DOM_EN_EN : Fld := ⟨0x2048, 0, 20⟩
def PWR_DOM_STAT_ON : Fld := ⟨0x204c, 0, 20⟩
def PWR_DOM_STAT_SWITCHING : Fld := ⟨0x204c, 31, 1⟩
def PWR_STAT_STATE : Fld := ⟨0x2050, 0, 2⟩
def PWR_STAT_TRANSITION : Fld := ⟨0x2050, 2, 1⟩
def PWR_STAT_REFUSED : Fld := ⟨0x2050, 3, 1⟩
def PWR_STAT_ABSENT_REQ : Fld := ⟨0x2050, 4, 1⟩
def PWR_STAT_DOM_REFUSED : Fld := ⟨0x2050, 5, 1⟩
def PWR_STAT_DORM_LEFT_UP : Fld := ⟨0x2050, 6, 1⟩
def PWR_TRANSITIONS_COUNT : Fld := ⟨0x2054, 0, 32⟩
def PWR_SWITCHES_COUNT : Fld := ⟨0x2058, 0, 32⟩

/-! ### FUSE -/
def FUSE_STAT_LOADED : Fld := ⟨0x3040, 0, 1⟩
def FUSE_STAT_CRC_OK : Fld := ⟨0x3040, 1, 1⟩
def FUSE_STAT_FACT_SPARES : Fld := ⟨0x3040, 16, 12⟩
def FUSE_SEC_CFG_KEY_REVOKED : Fld := ⟨0x3044, 0, 4⟩
def FUSE_SEC_CFG_DBG_PERM_CLOSED : Fld := ⟨0x3044, 4, 1⟩
def FUSE_SEC_CFG_MIN_FW_VER : Fld := ⟨0x3044, 8, 8⟩

/-! ### TRN0 -/
def TRN0_CTL_HIST_SAVE : Fld := ⟨0x10040, 0, 1⟩
def TRN0_CTL_PSTEP_CANCEL : Fld := ⟨0x10040, 1, 1⟩
def TRN0_CFG_LOOP_BW : Fld := ⟨0x10044, 0, 2⟩
def TRN0_CFG_MODE : Fld := ⟨0x10044, 2, 2⟩
def TRN0_CFG_HOLD_AVG : Fld := ⟨0x10044, 8, 16⟩
def TRN0_STAT_STATE : Fld := ⟨0x10048, 0, 2⟩
def TRN0_STAT_ACTIVE : Fld := ⟨0x10048, 2, 2⟩
def TRN0_STAT_SWITCHING : Fld := ⟨0x10048, 4, 1⟩
def TRN0_STAT_DISAGREE : Fld := ⟨0x10048, 5, 1⟩
def TRN0_STAT_PSTEP_BUSY : Fld := ⟨0x10048, 6, 1⟩
def TRN0_STAT_HOLD_VALID : Fld := ⟨0x10048, 7, 1⟩
def TRN0_STAT_OSC_LOST : Fld := ⟨0x10048, 8, 1⟩
def TRN0_STAT_PSTEP_IGN : Fld := ⟨0x10048, 16, 1⟩
def TRN0_STAT_SWITCH_ABORT : Fld := ⟨0x10048, 17, 1⟩
def TRN0_QUAL_WIN : Fld := ⟨0x1004c, 0, 16⟩
def TRN0_QUAL_TIME : Fld := ⟨0x1004c, 16, 8⟩
def TRN0_DISAGREE_PPB : Fld := ⟨0x10050, 0, 16⟩
def TRN0_PSTEP_PS : Fld := ⟨0x10054, 0, 32⟩
def TRN0_PSTEP_REM_PS : Fld := ⟨0x10058, 0, 32⟩
def TRN0_PSLEW_PS_PER_S : Fld := ⟨0x1005c, 0, 20⟩
def TRN0_PHASE_ERR_PS : Fld := ⟨0x10060, 0, 32⟩
def TRN0_BUILDOUT_PS : Fld := ⟨0x10064, 0, 32⟩
def TRN0_HOLD_CODE_CODE : Fld := ⟨0x10068, 0, 24⟩
def TRN0_HIST_CODE : Fld := ⟨0x1006c, 0, 24⟩
def TRN0_HIST_VALID : Fld := ⟨0x1006c, 31, 1⟩
def TRN0_SWITCHES : Fld := ⟨0x10080, 0, 48⟩
def TRN0_HOLDOVERS : Fld := ⟨0x10088, 0, 48⟩
def TRN0_HOLD_SEC : Fld := ⟨0x10090, 0, 48⟩
def TRN0_DISAGREES : Fld := ⟨0x10098, 0, 48⟩

/-! ### TRN1 -/
def TRN1_REF_CFG_FREQ (k : Nat) : Fld := ⟨0x11040 + 0x20 * k, 0, 2⟩
def TRN1_REF_CFG_PPS_REQ (k : Nat) : Fld := ⟨0x11040 + 0x20 * k, 2, 1⟩
def TRN1_REF_CFG_DISABLE (k : Nat) : Fld := ⟨0x11040 + 0x20 * k, 3, 1⟩
def TRN1_REF_CFG_PRIO (k : Nat) : Fld := ⟨0x11040 + 0x20 * k, 4, 3⟩
def TRN1_REF_CFG_QL_OVR (k : Nat) : Fld := ⟨0x11040 + 0x20 * k, 8, 1⟩
def TRN1_REF_CFG_QL_VAL (k : Nat) : Fld := ⟨0x11040 + 0x20 * k, 9, 3⟩
def TRN1_REF_STAT_QL (k : Nat) : Fld := ⟨0x11044 + 0x20 * k, 0, 3⟩
def TRN1_REF_STAT_ACT (k : Nat) : Fld := ⟨0x11044 + 0x20 * k, 3, 1⟩
def TRN1_REF_STAT_PPS_OK (k : Nat) : Fld := ⟨0x11044 + 0x20 * k, 4, 1⟩
def TRN1_REF_STAT_QUALIFYING (k : Nat) : Fld := ⟨0x11044 + 0x20 * k, 5, 1⟩
def TRN1_REF_STAT_ELIGIBLE (k : Nat) : Fld := ⟨0x11044 + 0x20 * k, 6, 1⟩
def TRN1_REF_STAT_ACTIVE (k : Nat) : Fld := ⟨0x11044 + 0x20 * k, 7, 1⟩
def TRN1_REF_STAT_FREQ_DET (k : Nat) : Fld := ⟨0x11044 + 0x20 * k, 8, 2⟩
def TRN1_REF_STAT_QUAL_SEC (k : Nat) : Fld := ⟨0x11044 + 0x20 * k, 16, 8⟩
def TRN1_REF_FOFS_PPT (k : Nat) : Fld := ⟨0x11048 + 0x20 * k, 0, 32⟩
def TRN1_REF_LOSS_COUNT (k : Nat) : Fld := ⟨0x1104c + 0x20 * k, 0, 32⟩

/-! ### TRN2 -/
def TRN2_CTL_REALIGN : Fld := ⟨0x12040, 0, 1⟩
def TRN2_CTL_REALIGN_CANCEL : Fld := ⟨0x12040, 1, 1⟩
def TRN2_STAT_REALIGN_PEND : Fld := ⟨0x12044, 0, 1⟩
def TRN2_STAT_CFG_BLOCKED : Fld := ⟨0x12044, 1, 1⟩
def TRN2_CLKOUT_DIV (k : Nat) : Fld := ⟨0x12048 + 0x4 * k, 0, 12⟩
def TRN2_CLKOUT_EN (k : Nat) : Fld := ⟨0x12048 + 0x4 * k, 12, 1⟩
def TRN2_SYNC_PERIOD_FRAMES : Fld := ⟨0x12058, 0, 24⟩
def TRN2_PULSE_CFG_SYNC_EN : Fld := ⟨0x1205c, 0, 1⟩
def TRN2_PULSE_CFG_PPS_EN : Fld := ⟨0x1205c, 1, 1⟩
def TRN2_PULSE_CFG_INTEG_EN : Fld := ⟨0x1205c, 2, 1⟩
def TRN2_PULSE_CFG_SYNC_W : Fld := ⟨0x1205c, 4, 12⟩
def TRN2_PULSE_CFG_INTEG_W : Fld := ⟨0x1205c, 16, 12⟩
def TRN2_PPS_W_USEC : Fld := ⟨0x12060, 0, 20⟩
def TRN2_ALIGN_MOD_SECONDS : Fld := ⟨0x12064, 0, 16⟩
def TRN2_FT_PHASE_TICKS : Fld := ⟨0x12068, 0, 24⟩
def TRN2_REALIGNS_COUNT : Fld := ⟨0x1206c, 0, 32⟩

/-! ### TOD -/
def TOD_CTL_LOAD_PPS : Fld := ⟨0x14040, 0, 1⟩
def TOD_CTL_ALIGN : Fld := ⟨0x14040, 1, 1⟩
def TOD_CTL_CANCEL : Fld := ⟨0x14040, 2, 1⟩
def TOD_CFG_AUTO_ALIGN : Fld := ⟨0x14044, 0, 1⟩
def TOD_STAT_VALID : Fld := ⟨0x14048, 0, 1⟩
def TOD_STAT_PEND : Fld := ⟨0x14048, 1, 1⟩
def TOD_STAT_STEPPED : Fld := ⟨0x14048, 2, 1⟩
def TOD_STAT_NO_PPS : Fld := ⟨0x14048, 3, 1⟩
def TOD_NOW_NS_NS : Fld := ⟨0x1404c, 0, 30⟩
def TOD_CAP_NS_NS : Fld := ⟨0x14050, 0, 30⟩
def TOD_CAP_SEC_SEC : Fld := ⟨0x14054, 0, 48⟩
def TOD_SEC_LD_SEC : Fld := ⟨0x1405c, 0, 48⟩
def TOD_PPS_OFS_PS : Fld := ⟨0x14064, 0, 32⟩
def TOD_PPS_DELAY_PS : Fld := ⟨0x14068, 0, 32⟩
def TOD_STEPS_COUNT : Fld := ⟨0x1406c, 0, 32⟩
def TOD_CMP_TGT_C (k : Nat) : Fld := ⟨0x14070 + 0x10 * k, 0, 64⟩
def TOD_CMP_CTL_ARM (k : Nat) : Fld := ⟨0x14078 + 0x10 * k, 0, 1⟩
def TOD_CMP_CTL_FIRED (k : Nat) : Fld := ⟨0x14078 + 0x10 * k, 1, 1⟩

/-! ### TUNE -/
def TUNE_CFG_RANGE : Fld := ⟨0x15040, 0, 2⟩
def TUNE_CFG_SRC : Fld := ⟨0x15040, 4, 1⟩
def TUNE_CFG_SLOPE_NEG : Fld := ⟨0x15040, 5, 1⟩
def TUNE_STAT_ZERO : Fld := ⟨0x15044, 0, 1⟩
def TUNE_STAT_WRITTEN : Fld := ⟨0x15044, 1, 1⟩
def TUNE_STAT_FAULT : Fld := ⟨0x15044, 2, 1⟩
def TUNE_STAT_RANGING : Fld := ⟨0x15044, 3, 1⟩
def TUNE_STAT_CAUSE : Fld := ⟨0x15044, 4, 4⟩
def TUNE_STAT_FAULT_SEEN : Fld := ⟨0x15044, 8, 1⟩
def TUNE_CODE : Fld := ⟨0x15048, 0, 24⟩
def TUNE_OUT_CODE : Fld := ⟨0x1504c, 0, 24⟩
def TUNE_KV_PPB : Fld := ⟨0x15050, 0, 16⟩
def TUNE_FAULTS_COUNT : Fld := ⟨0x15054, 0, 32⟩

/-! ### SLK -/
def SLK_CTL_RETRY (i : Nat) : Fld := ⟨0x20000 + 0x1000 * i + 0x40, 0, 1⟩
def SLK_CTL_PRECODE_REQ (i : Nat) : Fld := ⟨0x20000 + 0x1000 * i + 0x40, 2, 1⟩
def SLK_CTL_FFE_OVR (i : Nat) : Fld := ⟨0x20000 + 0x1000 * i + 0x40, 3, 1⟩
def SLK_CTL_PRESET_SAVE (i : Nat) : Fld := ⟨0x20000 + 0x1000 * i + 0x40, 4, 1⟩
def SLK_CTL_PRESET_CLR (i : Nat) : Fld := ⟨0x20000 + 0x1000 * i + 0x40, 5, 1⟩
def SLK_STAT_LSTATE (i : Nat) : Fld := ⟨0x20000 + 0x1000 * i + 0x44, 0, 4⟩
def SLK_STAT_STEP (i : Nat) : Fld := ⟨0x20000 + 0x1000 * i + 0x44, 4, 3⟩
def SLK_STAT_PRECODE_ON (i : Nat) : Fld := ⟨0x20000 + 0x1000 * i + 0x44, 7, 1⟩
def SLK_STAT_SIG_DET (i : Nat) : Fld := ⟨0x20000 + 0x1000 * i + 0x44, 8, 1⟩
def SLK_STAT_CDR_LOCK (i : Nat) : Fld := ⟨0x20000 + 0x1000 * i + 0x44, 9, 1⟩
def SLK_STAT_FEC_LOCK (i : Nat) : Fld := ⟨0x20000 + 0x1000 * i + 0x44, 10, 1⟩
def SLK_STAT_MARKER_LOCK (i : Nat) : Fld := ⟨0x20000 + 0x1000 * i + 0x44, 11, 1⟩
def SLK_STAT_FAIL_CAUSE (i : Nat) : Fld := ⟨0x20000 + 0x1000 * i + 0x44, 12, 4⟩
def SLK_STAT_LINK_NUM (i : Nat) : Fld := ⟨0x20000 + 0x1000 * i + 0x44, 16, 6⟩
def SLK_STAT_IN_LINK (i : Nat) : Fld := ⟨0x20000 + 0x1000 * i + 0x44, 22, 1⟩
def SLK_TX_FFE_PRE (i : Nat) : Fld := ⟨0x20000 + 0x1000 * i + 0x48, 0, 5⟩
def SLK_TX_FFE_POST (i : Nat) : Fld := ⟨0x20000 + 0x1000 * i + 0x48, 8, 5⟩
def SLK_TX_FFE_MAIN (i : Nat) : Fld := ⟨0x20000 + 0x1000 * i + 0x48, 16, 7⟩
def SLK_PEER_FFE_PRE (i : Nat) : Fld := ⟨0x20000 + 0x1000 * i + 0x4c, 0, 5⟩
def SLK_PEER_FFE_POST (i : Nat) : Fld := ⟨0x20000 + 0x1000 * i + 0x4c, 8, 5⟩
def SLK_PEER_FFE_MAIN (i : Nat) : Fld := ⟨0x20000 + 0x1000 * i + 0x4c, 16, 7⟩
def SLK_PRESET_OWN_PRE (i : Nat) : Fld := ⟨0x20000 + 0x1000 * i + 0x50, 0, 5⟩
def SLK_PRESET_OWN_POST (i : Nat) : Fld := ⟨0x20000 + 0x1000 * i + 0x50, 8, 5⟩
def SLK_PRESET_PEER_PRE (i : Nat) : Fld := ⟨0x20000 + 0x1000 * i + 0x50, 16, 5⟩
def SLK_PRESET_PEER_POST (i : Nat) : Fld := ⟨0x20000 + 0x1000 * i + 0x50, 24, 5⟩
def SLK_PRESET_VALID (i : Nat) : Fld := ⟨0x20000 + 0x1000 * i + 0x50, 31, 1⟩
def SLK_CORR_SYM (i : Nat) : Fld := ⟨0x20000 + 0x1000 * i + 0x54, 0, 48⟩
def SLK_CORR_CW (i : Nat) : Fld := ⟨0x20000 + 0x1000 * i + 0x5c, 0, 48⟩
def SLK_UNCORR_CW (i : Nat) : Fld := ⟨0x20000 + 0x1000 * i + 0x64, 0, 48⟩
def SLK_FEC_MAX_MAX_SYM (i : Nat) : Fld := ⟨0x20000 + 0x1000 * i + 0x6c, 0, 4⟩
def SLK_UNCORR_THR_COUNT (i : Nat) : Fld := ⟨0x20000 + 0x1000 * i + 0x70, 0, 16⟩
def SLK_UNCORR_THR_WINDOW (i : Nat) : Fld := ⟨0x20000 + 0x1000 * i + 0x70, 16, 16⟩
def SLK_TRAIN_CNT_RETRAINS (i : Nat) : Fld := ⟨0x20000 + 0x1000 * i + 0x74, 0, 16⟩
def SLK_TRAIN_CNT_FAILS (i : Nat) : Fld := ⟨0x20000 + 0x1000 * i + 0x74, 16, 16⟩
def SLK_TRAIN_TIME_USEC (i : Nat) : Fld := ⟨0x20000 + 0x1000 * i + 0x78, 0, 24⟩
def SLK_PRBS_CTL_MODE (i : Nat) : Fld := ⟨0x20000 + 0x1000 * i + 0x7c, 0, 2⟩
def SLK_PRBS_CTL_CHECK (i : Nat) : Fld := ⟨0x20000 + 0x1000 * i + 0x7c, 2, 1⟩
def SLK_PRBS_ERR_ERRORS (i : Nat) : Fld := ⟨0x20000 + 0x1000 * i + 0x80, 0, 32⟩

/-! ### LNK -/
def LNK_CTL_DORMANT_REQ (i : Nat) : Fld := ⟨0x60000 + 0x1000 * i + 0x40, 0, 1⟩
def LNK_CTL_WAKE_REQ (i : Nat) : Fld := ⟨0x60000 + 0x1000 * i + 0x40, 1, 1⟩
def LNK_CTL_RETRAIN (i : Nat) : Fld := ⟨0x60000 + 0x1000 * i + 0x40, 2, 1⟩
def LNK_CTL_REGROW (i : Nat) : Fld := ⟨0x60000 + 0x1000 * i + 0x40, 3, 1⟩
def LNK_CFG_FIRST_LANE (i : Nat) : Fld := ⟨0x60000 + 0x1000 * i + 0x44, 0, 6⟩
def LNK_CFG_WIDTH (i : Nat) : Fld := ⟨0x60000 + 0x1000 * i + 0x44, 8, 3⟩
def LNK_CFG_MAX_STEP (i : Nat) : Fld := ⟨0x60000 + 0x1000 * i + 0x44, 12, 3⟩
def LNK_CFG_STEP_POLICY (i : Nat) : Fld := ⟨0x60000 + 0x1000 * i + 0x44, 16, 1⟩
def LNK_CFG_PRECODE_ALLOW (i : Nat) : Fld := ⟨0x60000 + 0x1000 * i + 0x44, 17, 1⟩
def LNK_CFG_FILL_GROUP (i : Nat) : Fld := ⟨0x60000 + 0x1000 * i + 0x44, 20, 8⟩
def LNK_STAT_STATE (i : Nat) : Fld := ⟨0x60000 + 0x1000 * i + 0x48, 0, 4⟩
def LNK_STAT_ACT_WIDTH (i : Nat) : Fld := ⟨0x60000 + 0x1000 * i + 0x48, 4, 3⟩
def LNK_STAT_ACT_STEP (i : Nat) : Fld := ⟨0x60000 + 0x1000 * i + 0x48, 8, 3⟩
def LNK_STAT_ACT_FIRST_LANE (i : Nat) : Fld := ⟨0x60000 + 0x1000 * i + 0x48, 12, 6⟩
def LNK_STAT_CFG_BLOCKED (i : Nat) : Fld := ⟨0x60000 + 0x1000 * i + 0x48, 24, 1⟩
def LNK_STAT_DORM_REFUSED (i : Nat) : Fld := ⟨0x60000 + 0x1000 * i + 0x48, 25, 1⟩
def LNK_STAT_REFC_SRC (i : Nat) : Fld := ⟨0x60000 + 0x1000 * i + 0x48, 26, 1⟩
def LNK_STAT_REGROW_IGN (i : Nat) : Fld := ⟨0x60000 + 0x1000 * i + 0x48, 27, 1⟩
def LNK_SKEW_MAX_SKEW (i : Nat) : Fld := ⟨0x60000 + 0x1000 * i + 0x4c, 0, 16⟩
def LNK_SKEW_LATEST_LANE (i : Nat) : Fld := ⟨0x60000 + 0x1000 * i + 0x4c, 16, 6⟩
def LNK_PEER_ID (i : Nat) : Fld := ⟨0x60000 + 0x1000 * i + 0x50, 0, 32⟩
def LNK_PEER_CAP_MAX_STEP (i : Nat) : Fld := ⟨0x60000 + 0x1000 * i + 0x54, 0, 3⟩
def LNK_PEER_CAP_PRECODE (i : Nat) : Fld := ⟨0x60000 + 0x1000 * i + 0x54, 3, 1⟩
def LNK_PEER_CAP_FILL_GROUP (i : Nat) : Fld := ⟨0x60000 + 0x1000 * i + 0x54, 8, 8⟩
def LNK_PEER_CAP_VERSION (i : Nat) : Fld := ⟨0x60000 + 0x1000 * i + 0x54, 16, 8⟩
def LNK_FILL_DEL (i : Nat) : Fld := ⟨0x60000 + 0x1000 * i + 0x58, 0, 32⟩
def LNK_FILL_INS (i : Nat) : Fld := ⟨0x60000 + 0x1000 * i + 0x5c, 0, 32⟩
def LNK_ELASTIC_FILL (i : Nat) : Fld := ⟨0x60000 + 0x1000 * i + 0x60, 0, 8⟩
def LNK_ELASTIC_MIN (i : Nat) : Fld := ⟨0x60000 + 0x1000 * i + 0x60, 8, 8⟩
def LNK_ELASTIC_MAX (i : Nat) : Fld := ⟨0x60000 + 0x1000 * i + 0x60, 16, 8⟩
def LNK_TILE_CNT_LAST (i : Nat) : Fld := ⟨0x60000 + 0x1000 * i + 0x64, 0, 32⟩
def LNK_REFC_QL_QL (i : Nat) : Fld := ⟨0x60000 + 0x1000 * i + 0x68, 0, 3⟩
def LNK_REFC_QL_VALID (i : Nat) : Fld := ⟨0x60000 + 0x1000 * i + 0x68, 3, 1⟩
def LNK_RX_TILES (i : Nat) : Fld := ⟨0x60000 + 0x1000 * i + 0x80, 0, 48⟩
def LNK_ACCEPTED (i : Nat) : Fld := ⟨0x60000 + 0x1000 * i + 0x88, 0, 48⟩
def LNK_DROP_HDR_CRC (i : Nat) : Fld := ⟨0x60000 + 0x1000 * i + 0x90, 0, 48⟩
def LNK_DROP_HDR_FIELD (i : Nat) : Fld := ⟨0x60000 + 0x1000 * i + 0x98, 0, 48⟩
def LNK_DROP_NOT_MAPPED (i : Nat) : Fld := ⟨0x60000 + 0x1000 * i + 0xa0, 0, 48⟩
def LNK_DROP_WINDOW (i : Nat) : Fld := ⟨0x60000 + 0x1000 * i + 0xa8, 0, 48⟩
def LNK_DROP_FEC (i : Nat) : Fld := ⟨0x60000 + 0x1000 * i + 0xb0, 0, 48⟩
def LNK_DROP_TRUNC (i : Nat) : Fld := ⟨0x60000 + 0x1000 * i + 0xb8, 0, 48⟩
def LNK_DROP_ELASTIC (i : Nat) : Fld := ⟨0x60000 + 0x1000 * i + 0xc0, 0, 48⟩
def LNK_DROP_GAP (i : Nat) : Fld := ⟨0x60000 + 0x1000 * i + 0xc8, 0, 48⟩
def LNK_DROP_RESET (i : Nat) : Fld := ⟨0x60000 + 0x1000 * i + 0xd0, 0, 48⟩
def LNK_TS_CC_SH_CC_BASE (i : Nat) : Fld := ⟨0x60000 + 0x1000 * i + 0x120, 0, 12⟩
def LNK_TS_CC_SH_CC_CNT (i : Nat) : Fld := ⟨0x60000 + 0x1000 * i + 0x120, 16, 13⟩
def LNK_TS_IG_SH_IG_BASE (i : Nat) : Fld := ⟨0x60000 + 0x1000 * i + 0x124, 0, 6⟩
def LNK_TS_IG_SH_IG_CNT (i : Nat) : Fld := ⟨0x60000 + 0x1000 * i + 0x124, 8, 7⟩
def LNK_TS_CC_CC_BASE (i : Nat) : Fld := ⟨0x60000 + 0x1000 * i + 0x128, 0, 12⟩
def LNK_TS_CC_CC_CNT (i : Nat) : Fld := ⟨0x60000 + 0x1000 * i + 0x128, 16, 13⟩
def LNK_TS_IG_IG_BASE (i : Nat) : Fld := ⟨0x60000 + 0x1000 * i + 0x12c, 0, 6⟩
def LNK_TS_IG_IG_CNT (i : Nat) : Fld := ⟨0x60000 + 0x1000 * i + 0x12c, 8, 7⟩

/-! ### ARR -/
def ARR_CTL_LOAD_SYNC : Fld := ⟨0xa0040, 0, 1⟩
def ARR_CTL_LOAD_NOW : Fld := ⟨0xa0040, 1, 1⟩
def ARR_CTL_LOAD_CANCEL : Fld := ⟨0xa0040, 2, 1⟩
def ARR_CFG_DEPTH_EXP : Fld := ⟨0xa0044, 0, 4⟩
def ARR_CFG_LAT : Fld := ⟨0xa0044, 8, 8⟩
def ARR_CFG_AHEAD : Fld := ⟨0xa0044, 16, 8⟩
def ARR_STAT_NOW_VALID : Fld := ⟨0xa0048, 0, 1⟩
def ARR_STAT_INIT_BUSY : Fld := ⟨0xa0048, 1, 1⟩
def ARR_STAT_INIT_DONE : Fld := ⟨0xa0048, 2, 1⟩
def ARR_STAT_CFG_BLOCKED : Fld := ⟨0xa0048, 3, 1⟩
def ARR_STAT_OVERRUN : Fld := ⟨0xa0048, 4, 1⟩
def ARR_STAT_LOAD_PEND : Fld := ⟨0xa0048, 5, 1⟩
def ARR_PAY_BASE : Fld := ⟨0xa004c, 12, 36⟩
def ARR_DIR_BASE : Fld := ⟨0xa0054, 12, 36⟩
def ARR_NOW : Fld := ⟨0xa005c, 0, 48⟩
def ARR_NOW_LD : Fld := ⟨0xa0064, 0, 48⟩
def ARR_OFFSET_MAX_O_MAX : Fld := ⟨0xa006c, 0, 17⟩
def ARR_OFFSET_MAX_NEG : Fld := ⟨0xa006c, 31, 1⟩
def ARR_LEAD_MIN : Fld := ⟨0xa0070, 0, 16⟩
def ARR_LEAD_MAX : Fld := ⟨0xa0070, 16, 16⟩
def ARR_IN : Fld := ⟨0xa0080, 0, 48⟩
def ARR_CONSUMED : Fld := ⟨0xa0088, 0, 48⟩
def ARR_INVAL_CRC : Fld := ⟨0xa0090, 0, 48⟩
def ARR_INVAL_POISON : Fld := ⟨0xa0098, 0, 48⟩
def ARR_INVAL_DUP : Fld := ⟨0xa00a0, 0, 48⟩
def ARR_INVAL_OVERRUN : Fld := ⟨0xa00a8, 0, 48⟩
def ARR_INVAL_UNUSED : Fld := ⟨0xa00b0, 0, 48⟩
def ARR_LOST_RESET : Fld := ⟨0xa00b8, 0, 48⟩
def ARR_RESIDENT : Fld := ⟨0xa00c0, 0, 48⟩
def ARR_MISSING_SLOTS : Fld := ⟨0xa00c8, 0, 48⟩
def ARR_REREAD_FAIL : Fld := ⟨0xa00d0, 0, 48⟩
def ARR_GEOM_SH_N : Fld := ⟨0xa0120, 0, 13⟩
def ARR_GEOM_SH_MODE : Fld := ⟨0xa0120, 13, 2⟩
def ARR_GEOM_SH_N_CC : Fld := ⟨0xa0120, 16, 13⟩
def ARR_GEOM_N : Fld := ⟨0xa0124, 0, 13⟩
def ARR_GEOM_MODE : Fld := ⟨0xa0124, 13, 2⟩
def ARR_GEOM_N_CC : Fld := ⟨0xa0124, 16, 13⟩

/-! ### DLY -/
def DLY_CFG_SH_MODEL_EN : Fld := ⟨0xa1040, 0, 1⟩
def DLY_CFG_SH_EXPIRE_INVAL : Fld := ⟨0xa1040, 1, 1⟩
def DLY_CFG_SH_UPD_EXP : Fld := ⟨0xa1040, 8, 4⟩
def DLY_CFG_MODEL_EN : Fld := ⟨0xa1044, 0, 1⟩
def DLY_CFG_EXPIRE_INVAL : Fld := ⟨0xa1044, 1, 1⟩
def DLY_CFG_UPD_EXP : Fld := ⟨0xa1044, 8, 4⟩
def DLY_ORIGIN_SH : Fld := ⟨0xa1048, 0, 48⟩
def DLY_ORIGIN : Fld := ⟨0xa1050, 0, 48⟩
def DLY_SEG_LEN_SH_FRAMES : Fld := ⟨0xa1058, 0, 21⟩
def DLY_SEG_LEN_FRAMES : Fld := ⟨0xa105c, 0, 21⟩
def DLY_SKY_REF_SH : Fld := ⟨0xa1060, 0, 64⟩
def DLY_SKY_REF : Fld := ⟨0xa1068, 0, 64⟩
def DLY_STAT_EXPIRED : Fld := ⟨0xa1070, 0, 1⟩
def DLY_STAT_CLAMPED : Fld := ⟨0xa1070, 1, 1⟩
def DLY_CLAMP_CNT : Fld := ⟨0xa1074, 0, 48⟩
def DLY_EXPIRED_FRAMES : Fld := ⟨0xa107c, 0, 48⟩
def DLY_PROBE_IN_INPUT : Fld := ⟨0xa1084, 0, 12⟩
def DLY_PROBE_DINT : Fld := ⟨0xa1088, 0, 32⟩
def DLY_PROBE_DFRAC : Fld := ⟨0xa108c, 0, 24⟩
def DLY_PROBE_PHASE : Fld := ⟨0xa1090, 0, 32⟩

/-! ### CHN0 -/
def CHN0_CFG_SH_K : Fld := ⟨0xb0040, 0, 4⟩
def CHN0_CFG_SH_M_ZOOM : Fld := ⟨0xb0040, 4, 3⟩
def CHN0_CFG_SH_OS_RATIO : Fld := ⟨0xb0040, 7, 1⟩
def CHN0_CFG_SH_TAPS : Fld := ⟨0xb0040, 8, 5⟩
def CHN0_CFG_SH_EQ_EN : Fld := ⟨0xb0040, 13, 1⟩
def CHN0_CFG_SH_FDLY_EN : Fld := ⟨0xb0040, 14, 1⟩
def CHN0_CFG_SH_FRINGE_EN : Fld := ⟨0xb0040, 15, 1⟩
def CHN0_CFG_SH_COEF_BANK : Fld := ⟨0xb0040, 16, 1⟩
def CHN0_CFG_SH_GAIN_BANK : Fld := ⟨0xb0040, 17, 1⟩
def CHN0_CFG_SH_PHASE_EN : Fld := ⟨0xb0040, 18, 1⟩
def CHN0_CFG_SH_CHUNK_EXP : Fld := ⟨0xb0040, 20, 3⟩
def CHN0_CFG_K : Fld := ⟨0xb0044, 0, 4⟩
def CHN0_CFG_M_ZOOM : Fld := ⟨0xb0044, 4, 3⟩
def CHN0_CFG_OS_RATIO : Fld := ⟨0xb0044, 7, 1⟩
def CHN0_CFG_TAPS : Fld := ⟨0xb0044, 8, 5⟩
def CHN0_CFG_EQ_EN : Fld := ⟨0xb0044, 13, 1⟩
def CHN0_CFG_FDLY_EN : Fld := ⟨0xb0044, 14, 1⟩
def CHN0_CFG_FRINGE_EN : Fld := ⟨0xb0044, 15, 1⟩
def CHN0_CFG_COEF_BANK : Fld := ⟨0xb0044, 16, 1⟩
def CHN0_CFG_GAIN_BANK : Fld := ⟨0xb0044, 17, 1⟩
def CHN0_CFG_PHASE_EN : Fld := ⟨0xb0044, 18, 1⟩
def CHN0_CFG_CHUNK_EXP : Fld := ⟨0xb0044, 20, 3⟩
def CHN0_SCALE_SH_FFT_SHIFT : Fld := ⟨0xb0048, 0, 12⟩
def CHN0_SCALE_SH_PFB_SHIFT : Fld := ⟨0xb0048, 16, 5⟩
def CHN0_SCALE_SH_RQ_SHIFT : Fld := ⟨0xb0048, 24, 5⟩
def CHN0_SCALE_FFT_SHIFT : Fld := ⟨0xb004c, 0, 12⟩
def CHN0_SCALE_PFB_SHIFT : Fld := ⟨0xb004c, 16, 5⟩
def CHN0_SCALE_RQ_SHIFT : Fld := ⟨0xb004c, 24, 5⟩
def CHN0_ZOOM_SH : Fld := ⟨0xb0050, 0, 32⟩
def CHN0_ZOOM : Fld := ⟨0xb0054, 0, 32⟩
def CHN0_GAIN_BASE0 : Fld := ⟨0xb0058, 12, 36⟩
def CHN0_GAIN_BASE1 : Fld := ⟨0xb0060, 12, 36⟩

/-! ### CHN1 -/
def CHN1_STAT_RUNNING : Fld := ⟨0xb1040, 0, 1⟩
def CHN1_STAT_BEHIND : Fld := ⟨0xb1040, 1, 1⟩
def CHN1_STAT_CFG_BLOCKED : Fld := ⟨0xb1040, 2, 1⟩
def CHN1_STAT_GAIN_POISON : Fld := ⟨0xb1040, 3, 1⟩
def CHN1_STAT_COEF_ACT : Fld := ⟨0xb1040, 4, 1⟩
def CHN1_STAT_GAIN_ACT : Fld := ⟨0xb1040, 5, 1⟩
def CHN1_HIST_H : Fld := ⟨0xb1044, 0, 21⟩
def CHN1_OFFSET_LIM_O_CH : Fld := ⟨0xb1048, 0, 17⟩
def CHN1_OFFSET_LIM_NEG : Fld := ⟨0xb1048, 31, 1⟩
def CHN1_LAG_CUR : Fld := ⟨0xb104c, 0, 8⟩
def CHN1_LAG_MAX : Fld := ⟨0xb104c, 8, 8⟩
def CHN1_CHUNKS : Fld := ⟨0xb1050, 0, 48⟩
def CHN1_HB_SAT : Fld := ⟨0xb1058, 0, 48⟩
def CHN1_PFB_SAT : Fld := ⟨0xb1060, 0, 48⟩
def CHN1_FFT_SAT : Fld := ⟨0xb1068, 0, 48⟩
def CHN1_GAIN_SAT : Fld := ⟨0xb1070, 0, 48⟩
def CHN1_REQ_SAT : Fld := ⟨0xb1078, 0, 48⟩

/-! ### MERE -/
def MERE_CTL_PLAN_EVAL : Fld := ⟨0xc0040, 0, 1⟩
def MERE_STAT_RUNNING : Fld := ⟨0xc0044, 0, 1⟩
def MERE_STAT_HALF : Fld := ⟨0xc0044, 1, 1⟩
def MERE_STAT_LATE : Fld := ⟨0xc0044, 2, 1⟩
def MERE_STAT_SKIPPED : Fld := ⟨0xc0044, 3, 1⟩
def MERE_STAT_BW_WARN : Fld := ⟨0xc0044, 4, 1⟩
def MERE_STAT_PLAN_SRC : Fld := ⟨0xc0044, 5, 1⟩
def MERE_LAG_CUR : Fld := ⟨0xc0048, 0, 16⟩
def MERE_LAG_MAX : Fld := ⟨0xc0048, 16, 16⟩
def MERE_SLACK : Fld := ⟨0xc004c, 0, 32⟩
def MERE_PLAN_MEM_MIB : Fld := ⟨0xc0050, 0, 32⟩
def MERE_PLAN_BW_GBPS : Fld := ⟨0xc0054, 0, 16⟩
def MERE_CEILING_GBPS : Fld := ⟨0xc0058, 0, 16⟩
def MERE_OPEN_COUNT : Fld := ⟨0xc005c, 0, 17⟩
def MERE_OPEN_MAX_COUNT : Fld := ⟨0xc0060, 0, 17⟩
def MERE_PRODUCED : Fld := ⟨0xc0080, 0, 48⟩
def MERE_WRITTEN : Fld := ⟨0xc0088, 0, 48⟩
def MERE_DISC_HELD : Fld := ⟨0xc0090, 0, 48⟩
def MERE_LOST_OPEN : Fld := ⟨0xc0098, 0, 48⟩
def MERE_CONSUMED : Fld := ⟨0xc00a0, 0, 48⟩
def MERE_DISC_SKIP : Fld := ⟨0xc00a8, 0, 48⟩
def MERE_DISC_STOP : Fld := ⟨0xc00b0, 0, 48⟩
def MERE_LOST_RESET : Fld := ⟨0xc00b8, 0, 48⟩
def MERE_RESIDENT : Fld := ⟨0xc00c0, 0, 48⟩
def MERE_READ_STALE : Fld := ⟨0xc00c8, 0, 48⟩
def MERE_READ_CRC : Fld := ⟨0xc00d0, 0, 48⟩
def MERE_READ_POISON : Fld := ⟨0xc00d8, 0, 48⟩
def MERE_PASSES_LATE : Fld := ⟨0xc00e0, 0, 48⟩
def MERE_PASSES_SKIPPED : Fld := ⟨0xc00e8, 0, 48⟩
def MERE_SPAN_BASE0_SH : Fld := ⟨0xc0120, 12, 36⟩
def MERE_SPAN_BASE1_SH : Fld := ⟨0xc0128, 12, 36⟩
def MERE_DIR_BASE_SH : Fld := ⟨0xc0130, 12, 36⟩
def MERE_SPAN_BASE0 : Fld := ⟨0xc0138, 12, 36⟩
def MERE_SPAN_BASE1 : Fld := ⟨0xc0140, 12, 36⟩
def MERE_DIR_BASE : Fld := ⟨0xc0148, 12, 36⟩

/-! ### ENG -/
def ENG_CTL_SELFTEST (i : Nat) : Fld := ⟨0x100000 + 0x1000 * i + 0x40, 0, 1⟩
def ENG_STAT_STATE (i : Nat) : Fld := ⟨0x100000 + 0x1000 * i + 0x44, 0, 4⟩
def ENG_STAT_ST_PASS (i : Nat) : Fld := ⟨0x100000 + 0x1000 * i + 0x44, 4, 1⟩
def ENG_STAT_ST_FAIL (i : Nat) : Fld := ⟨0x100000 + 0x1000 * i + 0x44, 5, 1⟩
def ENG_STAT_ST_REFUSED (i : Nat) : Fld := ⟨0x100000 + 0x1000 * i + 0x44, 6, 1⟩
def ENG_STAT_ST_ABORTED (i : Nat) : Fld := ⟨0x100000 + 0x1000 * i + 0x44, 7, 1⟩
def ENG_STAT_INJ_DONE (i : Nat) : Fld := ⟨0x100000 + 0x1000 * i + 0x44, 8, 1⟩
def ENG_STAT_BUF_FULL (i : Nat) : Fld := ⟨0x100000 + 0x1000 * i + 0x44, 9, 1⟩
def ENG_ROLE_LOGICAL (i : Nat) : Fld := ⟨0x100000 + 0x1000 * i + 0x48, 0, 6⟩
def ENG_ROLE_ASSIGNED (i : Nat) : Fld := ⟨0x100000 + 0x1000 * i + 0x48, 6, 1⟩
def ENG_ROLE_MODE (i : Nat) : Fld := ⟨0x100000 + 0x1000 * i + 0x48, 7, 1⟩
def ENG_ROLE_SLOT (i : Nat) : Fld := ⟨0x100000 + 0x1000 * i + 0x48, 8, 4⟩
def ENG_ROLE_GROUP (i : Nat) : Fld := ⟨0x100000 + 0x1000 * i + 0x48, 12, 3⟩
def ENG_CUR_PASS (i : Nat) : Fld := ⟨0x100000 + 0x1000 * i + 0x4c, 0, 32⟩
def ENG_CUR_CH_CH (i : Nat) : Fld := ⟨0x100000 + 0x1000 * i + 0x50, 0, 24⟩
def ENG_CUR_CH_SUBPASS (i : Nat) : Fld := ⟨0x100000 + 0x1000 * i + 0x50, 24, 4⟩
def ENG_CUR_STEP_ROUND (i : Nat) : Fld := ⟨0x100000 + 0x1000 * i + 0x54, 0, 8⟩
def ENG_CUR_STEP_STEP (i : Nat) : Fld := ⟨0x100000 + 0x1000 * i + 0x54, 8, 17⟩
def ENG_DRAIN_CRC (i : Nat) : Fld := ⟨0x100000 + 0x1000 * i + 0x58, 0, 32⟩
def ENG_DRAIN_REC_NREC (i : Nat) : Fld := ⟨0x100000 + 0x1000 * i + 0x5c, 0, 6⟩
def ENG_ST_CNT_RUNS (i : Nat) : Fld := ⟨0x100000 + 0x1000 * i + 0x60, 0, 16⟩
def ENG_ST_CNT_FAILS (i : Nat) : Fld := ⟨0x100000 + 0x1000 * i + 0x60, 16, 16⟩
def ENG_INJECT_ARM (i : Nat) : Fld := ⟨0x100000 + 0x1000 * i + 0x64, 0, 1⟩
def ENG_INJECT_AFTER_CRC (i : Nat) : Fld := ⟨0x100000 + 0x1000 * i + 0x64, 1, 1⟩
def ENG_INJECT_IM (i : Nat) : Fld := ⟨0x100000 + 0x1000 * i + 0x64, 2, 1⟩
def ENG_INJECT_BIT (i : Nat) : Fld := ⟨0x100000 + 0x1000 * i + 0x64, 3, 5⟩
def ENG_INJECT_SLOT (i : Nat) : Fld := ⟨0x100000 + 0x1000 * i + 0x64, 8, 5⟩
def ENG_INJECT_ROW (i : Nat) : Fld := ⟨0x100000 + 0x1000 * i + 0x64, 13, 7⟩
def ENG_INJECT_COL (i : Nat) : Fld := ⟨0x100000 + 0x1000 * i + 0x64, 20, 6⟩
def ENG_CYC_MAC (i : Nat) : Fld := ⟨0x100000 + 0x1000 * i + 0x80, 0, 48⟩
def ENG_CYC_DRAIN (i : Nat) : Fld := ⟨0x100000 + 0x1000 * i + 0x88, 0, 48⟩
def ENG_CYC_CREDIT (i : Nat) : Fld := ⟨0x100000 + 0x1000 * i + 0x90, 0, 48⟩
def ENG_CYC_STARVE (i : Nat) : Fld := ⟨0x100000 + 0x1000 * i + 0x98, 0, 48⟩
def ENG_DRAINS (i : Nat) : Fld := ⟨0x100000 + 0x1000 * i + 0xa0, 0, 48⟩

/-! ### GSV -/
def GSV_CTL_SLOT (i : Nat) : Fld := ⟨0x150000 + 0x1000 * i + 0x40, 0, 4⟩
def GSV_CTL_FAIL (i : Nat) : Fld := ⟨0x150000 + 0x1000 * i + 0x40, 4, 1⟩
def GSV_CTL_UNLOCK (i : Nat) : Fld := ⟨0x150000 + 0x1000 * i + 0x40, 5, 1⟩
def GSV_CTL_RETEST (i : Nat) : Fld := ⟨0x150000 + 0x1000 * i + 0x40, 6, 1⟩
def GSV_CFG_REPLAY_EN (i : Nat) : Fld := ⟨0x150000 + 0x1000 * i + 0x44, 0, 1⟩
def GSV_CFG_AUTO_RETURN (i : Nat) : Fld := ⟨0x150000 + 0x1000 * i + 0x44, 1, 1⟩
def GSV_TIMING_TOKEN_DL (i : Nat) : Fld := ⟨0x150000 + 0x1000 * i + 0x48, 0, 16⟩
def GSV_TIMING_STEP_DL (i : Nat) : Fld := ⟨0x150000 + 0x1000 * i + 0x48, 16, 16⟩
def GSV_HOLDOFF_SECONDS (i : Nat) : Fld := ⟨0x150000 + 0x1000 * i + 0x4c, 0, 16⟩
def GSV_HOLDOFF_PASSES (i : Nat) : Fld := ⟨0x150000 + 0x1000 * i + 0x4c, 16, 8⟩
def GSV_STAT_FALLOW_FOR (i : Nat) : Fld := ⟨0x150000 + 0x1000 * i + 0x50, 0, 4⟩
def GSV_STAT_SPARE_AVAIL (i : Nat) : Fld := ⟨0x150000 + 0x1000 * i + 0x50, 4, 1⟩
def GSV_STAT_DEGRADED (i : Nat) : Fld := ⟨0x150000 + 0x1000 * i + 0x50, 5, 1⟩
def GSV_STAT_REPLAYING (i : Nat) : Fld := ⟨0x150000 + 0x1000 * i + 0x50, 6, 1⟩
def GSV_STAT_ORPHAN (i : Nat) : Fld := ⟨0x150000 + 0x1000 * i + 0x50, 7, 1⟩
def GSV_STAT_SIGN (i : Nat) : Fld := ⟨0x150000 + 0x1000 * i + 0x50, 8, 1⟩
def GSV_STAT_CMD_BAD (i : Nat) : Fld := ⟨0x150000 + 0x1000 * i + 0x50, 9, 1⟩
def GSV_STAT_WORKING (i : Nat) : Fld := ⟨0x150000 + 0x1000 * i + 0x50, 16, 4⟩
def GSV_MAP_BEARER0 (i : Nat) : Fld := ⟨0x150000 + 0x1000 * i + 0x54, 0, 4⟩
def GSV_MAP_BEARER1 (i : Nat) : Fld := ⟨0x150000 + 0x1000 * i + 0x54, 4, 4⟩
def GSV_MAP_BEARER2 (i : Nat) : Fld := ⟨0x150000 + 0x1000 * i + 0x54, 8, 4⟩
def GSV_MAP_BEARER3 (i : Nat) : Fld := ⟨0x150000 + 0x1000 * i + 0x54, 12, 4⟩
def GSV_MAP_BEARER4 (i : Nat) : Fld := ⟨0x150000 + 0x1000 * i + 0x54, 16, 4⟩
def GSV_MAP_BEARER5 (i : Nat) : Fld := ⟨0x150000 + 0x1000 * i + 0x54, 20, 4⟩
def GSV_MAP_BEARER6 (i : Nat) : Fld := ⟨0x150000 + 0x1000 * i + 0x54, 24, 4⟩
def GSV_MAP_BEARER7 (i : Nat) : Fld := ⟨0x150000 + 0x1000 * i + 0x54, 28, 4⟩
def GSV_HEALTH_LAST_CAUSE (i : Nat) (k : Nat) : Fld := ⟨0x150000 + 0x1000 * i + 0x60 + 0x4 * k, 0, 4⟩
def GSV_HEALTH_PASS_RUN (i : Nat) (k : Nat) : Fld := ⟨0x150000 + 0x1000 * i + 0x60 + 0x4 * k, 4, 8⟩
def GSV_HEALTH_REVERTS (i : Nat) (k : Nat) : Fld := ⟨0x150000 + 0x1000 * i + 0x60 + 0x4 * k, 12, 2⟩
def GSV_HEALTH_FAILED (i : Nat) (k : Nat) : Fld := ⟨0x150000 + 0x1000 * i + 0x60 + 0x4 * k, 15, 1⟩
def GSV_HIST_FAILS (i : Nat) (k : Nat) : Fld := ⟨0x150000 + 0x1000 * i + 0x84 + 0x4 * k, 0, 16⟩
def GSV_HIST_LOCKOUTS (i : Nat) (k : Nat) : Fld := ⟨0x150000 + 0x1000 * i + 0x84 + 0x4 * k, 16, 8⟩
def GSV_HIST_LOCKED_OUT (i : Nat) (k : Nat) : Fld := ⟨0x150000 + 0x1000 * i + 0x84 + 0x4 * k, 24, 1⟩
def GSV_SIGNS (i : Nat) : Fld := ⟨0x150000 + 0x1000 * i + 0xc0, 0, 48⟩
def GSV_TAKEOVERS (i : Nat) : Fld := ⟨0x150000 + 0x1000 * i + 0xc8, 0, 48⟩
def GSV_REPLAYED_CP (i : Nat) : Fld := ⟨0x150000 + 0x1000 * i + 0xd0, 0, 48⟩
def GSV_ZEROED_CP (i : Nat) : Fld := ⟨0x150000 + 0x1000 * i + 0xd8, 0, 48⟩
def GSV_RETURNS (i : Nat) : Fld := ⟨0x150000 + 0x1000 * i + 0xe0, 0, 48⟩
def GSV_REPLAY_CYC (i : Nat) : Fld := ⟨0x150000 + 0x1000 * i + 0xe8, 0, 48⟩

/-! ### XS -/
def XS_CTL_EVAL : Fld := ⟨0x160040, 0, 1⟩
def XS_STAT_RUN : Fld := ⟨0x160044, 0, 1⟩
def XS_STAT_PASS_ACTIVE : Fld := ⟨0x160044, 1, 1⟩
def XS_STAT_SWITCHING : Fld := ⟨0x160044, 2, 1⟩
def XS_STAT_STALLED : Fld := ⟨0x160044, 3, 1⟩
def XS_STAT_STARVED : Fld := ⟨0x160044, 4, 1⟩
def XS_CFG_SH_E_X : Fld := ⟨0x160048, 0, 7⟩
def XS_CFG_SH_E_B : Fld := ⟨0x160048, 8, 7⟩
def XS_CFG_SH_RUN : Fld := ⟨0x160048, 16, 1⟩
def XS_CFG_E_X : Fld := ⟨0x16004c, 0, 7⟩
def XS_CFG_E_B : Fld := ⟨0x16004c, 8, 7⟩
def XS_CFG_RUN : Fld := ⟨0x16004c, 16, 1⟩
def XS_SPAN_SH_F_SPAN : Fld := ⟨0x160050, 0, 17⟩
def XS_SPAN_F_SPAN : Fld := ⟨0x160054, 0, 17⟩
def XS_N_X_SH_N_X : Fld := ⟨0x160058, 0, 13⟩
def XS_N_X : Fld := ⟨0x16005c, 0, 13⟩
def XS_SHAPE_SH_S_EXP : Fld := ⟨0x160060, 0, 3⟩
def XS_SHAPE_SH_CTX : Fld := ⟨0x160060, 8, 5⟩
def XS_SHAPE_SH_N_R : Fld := ⟨0x160060, 16, 8⟩
def XS_SHAPE_SH_D : Fld := ⟨0x160060, 24, 5⟩
def XS_SHAPE_S_EXP : Fld := ⟨0x160064, 0, 3⟩
def XS_SHAPE_CTX : Fld := ⟨0x160064, 8, 5⟩
def XS_SHAPE_N_R : Fld := ⟨0x160064, 16, 8⟩
def XS_SHAPE_D : Fld := ⟨0x160064, 24, 5⟩
def XS_BLK_SH_N_BLK : Fld := ⟨0x160068, 0, 12⟩
def XS_BLK_SH_W : Fld := ⟨0x160068, 16, 5⟩
def XS_BLK_SH_U : Fld := ⟨0x160068, 24, 5⟩
def XS_BLK_N_BLK : Fld := ⟨0x16006c, 0, 12⟩
def XS_BLK_W : Fld := ⟨0x16006c, 16, 5⟩
def XS_BLK_U : Fld := ⟨0x16006c, 24, 5⟩
def XS_COST_SH_C16 : Fld := ⟨0x160070, 0, 20⟩
def XS_COST_C16 : Fld := ⟨0x160074, 0, 20⟩
def XS_PLAN_CYC_SH_CYC : Fld := ⟨0x160078, 0, 32⟩
def XS_PLAN_CYC_CYC : Fld := ⟨0x16007c, 0, 32⟩
def XS_BUDGET_CYC_SH_CYC : Fld := ⟨0x160080, 0, 32⟩
def XS_BUDGET_CYC_CYC : Fld := ⟨0x160084, 0, 32⟩
def XS_PASS_SEQ : Fld := ⟨0x160088, 0, 32⟩
def XS_INT_SEQ : Fld := ⟨0x16008c, 0, 32⟩
def XS_CUR_CH : Fld := ⟨0x160090, 0, 24⟩
def XS_CUR_SUBPASS : Fld := ⟨0x160090, 24, 4⟩
def XS_CUR_RND_ROUND : Fld := ⟨0x160094, 0, 8⟩
def XS_RUN_START : Fld := ⟨0x160098, 0, 48⟩
def XS_PASSES : Fld := ⟨0x1600c0, 0, 48⟩
def XS_SWEEPS : Fld := ⟨0x1600c8, 0, 48⟩
def XS_SWITCH_STALL : Fld := ⟨0x1600d0, 0, 48⟩
def XS_STARVE : Fld := ⟨0x1600d8, 0, 48⟩

/-! ### BM -/
def BM_STAT_B_RUN : Fld := ⟨0x161040, 0, 1⟩
def BM_STAT_VWAITING : Fld := ⟨0x161040, 1, 1⟩
def BM_STAT_WL_BUSY : Fld := ⟨0x161040, 2, 1⟩
def BM_STAT_WT_POISON : Fld := ⟨0x161040, 3, 1⟩
def BM_STAT_VOVERWRITE : Fld := ⟨0x161040, 4, 1⟩
def BM_STAT_CFG_BLOCKED : Fld := ⟨0x161040, 5, 1⟩
def BM_STAT_VHALF : Fld := ⟨0x161040, 6, 1⟩
def BM_CFG_SH_BEAMS : Fld := ⟨0x161044, 0, 11⟩
def BM_CFG_SH_VOLT_EN : Fld := ⟨0x161044, 12, 1⟩
def BM_CFG_SH_POW : Fld := ⟨0x161044, 13, 2⟩
def BM_CFG_SH_GROUP : Fld := ⟨0x161044, 16, 2⟩
def BM_CFG_SH_VREL_MODE : Fld := ⟨0x161044, 18, 1⟩
def BM_CFG_SH_WT_BANK : Fld := ⟨0x161044, 19, 1⟩
def BM_CFG_BEAMS : Fld := ⟨0x161048, 0, 11⟩
def BM_CFG_VOLT_EN : Fld := ⟨0x161048, 12, 1⟩
def BM_CFG_POW : Fld := ⟨0x161048, 13, 2⟩
def BM_CFG_GROUP : Fld := ⟨0x161048, 16, 2⟩
def BM_CFG_VREL_MODE : Fld := ⟨0x161048, 18, 1⟩
def BM_CFG_WT_BANK : Fld := ⟨0x161048, 19, 1⟩
def BM_N_B_SH_N_B : Fld := ⟨0x16104c, 0, 13⟩
def BM_N_B : Fld := ⟨0x161050, 0, 13⟩
def BM_CH_BASE_SH_BASE : Fld := ⟨0x161054, 0, 24⟩
def BM_CH_BASE_BASE : Fld := ⟨0x161058, 0, 24⟩
def BM_CH_CNT_SH_C_B : Fld := ⟨0x16105c, 0, 24⟩
def BM_CH_CNT_C_B : Fld := ⟨0x161060, 0, 24⟩
def BM_PW_BIN_SH_TILES : Fld := ⟨0x161064, 0, 16⟩
def BM_PW_BIN_TILES : Fld := ⟨0x161068, 0, 16⟩
def BM_BWT_BASE0 : Fld := ⟨0x16106c, 12, 36⟩
def BM_BWT_BASE1 : Fld := ⟨0x161074, 12, 36⟩
def BM_VBASE0_SH : Fld := ⟨0x16107c, 12, 36⟩
def BM_VBASE1_SH : Fld := ⟨0x161084, 12, 36⟩
def BM_VBASE0 : Fld := ⟨0x16108c, 12, 36⟩
def BM_VBASE1 : Fld := ⟨0x161094, 12, 36⟩
def BM_PBANK0_SH : Fld := ⟨0x16109c, 12, 36⟩
def BM_PBANK1_SH : Fld := ⟨0x1610a4, 12, 36⟩
def BM_PBANK0 : Fld := ⟨0x1610ac, 12, 36⟩
def BM_PBANK1 : Fld := ⟨0x1610b4, 12, 36⟩
def BM_VREL_PASS : Fld := ⟨0x1610bc, 0, 32⟩
def BM_VDONE_PASS : Fld := ⟨0x1610c0, 0, 32⟩
def BM_UNITS_N_UNITS : Fld := ⟨0x1610c4, 0, 10⟩
def BM_UNITS_U_E : Fld := ⟨0x1610c4, 16, 5⟩
def BM_UNITS_C_B_CYC : Fld := ⟨0x1610c4, 24, 6⟩
def BM_WL_CYC : Fld := ⟨0x1610c8, 0, 16⟩
def BM_BSAMP : Fld := ⟨0x1610d0, 0, 48⟩
def BM_BVALID : Fld := ⟨0x1610d8, 0, 48⟩
def BM_BINVAL_MASK : Fld := ⟨0x1610e0, 0, 48⟩
def BM_BINVAL_FAIL : Fld := ⟨0x1610e8, 0, 48⟩
def BM_BINVAL_WT : Fld := ⟨0x1610f0, 0, 48⟩
def BM_VSAT : Fld := ⟨0x1610f8, 0, 48⟩
def BM_VWAIT_CYC : Fld := ⟨0x161100, 0, 48⟩
def BM_WL_WAIT_CYC : Fld := ⟨0x161108, 0, 48⟩
def BM_VOVERWRITE : Fld := ⟨0x161110, 0, 48⟩
def BM_WT_BAD : Fld := ⟨0x161118, 0, 48⟩
def BM_PW_NONFINITE : Fld := ⟨0x161120, 0, 48⟩

/-! ### BAS -/
def BAS_CTL_RING_RESET : Fld := ⟨0x180040, 0, 1⟩
def BAS_STAT_ACC_BANK : Fld := ⟨0x180044, 0, 1⟩
def BAS_STAT_FINISHING : Fld := ⟨0x180044, 1, 1⟩
def BAS_STAT_RING_FULL : Fld := ⟨0x180044, 2, 1⟩
def BAS_STAT_FIN_WAIT : Fld := ⟨0x180044, 3, 1⟩
def BAS_STAT_RPTR_BAD : Fld := ⟨0x180044, 4, 1⟩
def BAS_STAT_CFG_BLOCKED : Fld := ⟨0x180044, 5, 1⟩
def BAS_STAT_REJECT : Fld := ⟨0x180044, 6, 1⟩
def BAS_STAT_VIS32_RISK : Fld := ⟨0x180044, 7, 1⟩
def BAS_STAT_BOUND_RISK : Fld := ⟨0x180044, 8, 1⟩
def BAS_INT_CTL_SH_FMT : Fld := ⟨0x180048, 0, 2⟩
def BAS_INT_CTL_SH_AUTO_SPLIT : Fld := ⟨0x180048, 2, 1⟩
def BAS_INT_CTL_SH_CAL_EN : Fld := ⟨0x180048, 3, 1⟩
def BAS_INT_CTL_FMT : Fld := ⟨0x18004c, 0, 2⟩
def BAS_INT_CTL_AUTO_SPLIT : Fld := ⟨0x18004c, 2, 1⟩
def BAS_INT_CTL_CAL_EN : Fld := ⟨0x18004c, 3, 1⟩
def BAS_P_INT_SH_PASSES : Fld := ⟨0x180050, 0, 24⟩
def BAS_P_INT_PASSES : Fld := ⟨0x180054, 0, 24⟩
def BAS_BANK_BASE0_SH : Fld := ⟨0x180058, 12, 36⟩
def BAS_BANK_BASE1_SH : Fld := ⟨0x180060, 12, 36⟩
def BAS_BANK_BASE0 : Fld := ⟨0x180068, 12, 36⟩
def BAS_BANK_BASE1 : Fld := ⟨0x180070, 12, 36⟩
def BAS_RING_BASE : Fld := ⟨0x180078, 12, 36⟩
def BAS_RING_SIZE : Fld := ⟨0x180080, 12, 36⟩
def BAS_WPTR : Fld := ⟨0x180088, 0, 48⟩
def BAS_RPTR : Fld := ⟨0x180090, 0, 48⟩
def BAS_CUR_INT : Fld := ⟨0x180098, 0, 32⟩
def BAS_FIN_CH : Fld := ⟨0x18009c, 0, 24⟩
def BAS_FIN_ACTIVE : Fld := ⟨0x18009c, 31, 1⟩
def BAS_FIN_INT : Fld := ⟨0x1800a0, 0, 32⟩
def BAS_CH_CYC_CYC : Fld := ⟨0x1800a4, 0, 24⟩
def BAS_CH_CYC_MAX_CYC : Fld := ⟨0x1800a8, 0, 24⟩
def BAS_PENDING_COUNT : Fld := ⟨0x1800ac, 0, 7⟩
def BAS_PKT_SEQ : Fld := ⟨0x1800b0, 0, 32⟩
def BAS_P_INT_EFF_PASSES : Fld := ⟨0x1800b4, 0, 24⟩
def BAS_CR_ISSUED : Fld := ⟨0x1800c0, 0, 48⟩
def BAS_CR_RETURNED : Fld := ⟨0x1800c8, 0, 48⟩
def BAS_CR_OUT : Fld := ⟨0x1800d0, 0, 48⟩
def BAS_CR_LOST_RESET : Fld := ⟨0x1800d8, 0, 48⟩
def BAS_COMMITTED : Fld := ⟨0x1800e0, 0, 48⟩
def BAS_REJ_CRC : Fld := ⟨0x1800e8, 0, 48⟩
def BAS_REJ_DIAG : Fld := ⟨0x1800f0, 0, 48⟩
def BAS_REJ_DUP : Fld := ⟨0x1800f8, 0, 48⟩
def BAS_REJ_FAILED : Fld := ⟨0x180100, 0, 48⟩
def BAS_LOST_CB : Fld := ⟨0x180108, 0, 48⟩
def BAS_IN_CB : Fld := ⟨0x180110, 0, 48⟩
def BAS_REPLAY_BUFS : Fld := ⟨0x180118, 0, 48⟩
def BAS_BLOCKS_ZEROED : Fld := ⟨0x180120, 0, 48⟩
def BAS_SAT_PRODUCTS : Fld := ⟨0x180128, 0, 48⟩
def BAS_INTEGRATIONS : Fld := ⟨0x180130, 0, 48⟩
def BAS_INT_LOST : Fld := ⟨0x180138, 0, 48⟩
def BAS_PACKETS : Fld := ⟨0x180140, 0, 48⟩
def BAS_PKT_BYTES : Fld := ⟨0x180148, 0, 48⟩
def BAS_BP_CYC : Fld := ⟨0x180150, 0, 48⟩
def BAS_FIN_WAIT_CYC : Fld := ⟨0x180158, 0, 48⟩

/-! ### PK -/
def PK_CFG_SH_K : Fld := ⟨0x181040, 0, 5⟩
def PK_CFG_SH_SRC : Fld := ⟨0x181040, 8, 2⟩
def PK_CFG_K : Fld := ⟨0x181044, 0, 5⟩
def PK_CFG_SRC : Fld := ⟨0x181044, 8, 2⟩
def PK_THRESH_SH_VALUE : Fld := ⟨0x181048, 0, 32⟩
def PK_THRESH_VALUE : Fld := ⟨0x18104c, 0, 32⟩
def PK_LAST_INT : Fld := ⟨0x181050, 0, 32⟩
def PK_LAST_TOP : Fld := ⟨0x181054, 0, 32⟩
def PK_CANDIDATES : Fld := ⟨0x181060, 0, 48⟩
def PK_EXCLUDED : Fld := ⟨0x181068, 0, 48⟩
def PK_PACKETS : Fld := ⟨0x181070, 0, 48⟩

/-! ### MC -/
def MC_CTL_CH (i : Nat) : Fld := ⟨0x1c0000 + 0x1000 * i + 0x40, 0, 3⟩
def MC_CTL_RETRAIN (i : Nat) : Fld := ⟨0x1c0000 + 0x1000 * i + 0x40, 3, 1⟩
def MC_CTL_RETIRE (i : Nat) : Fld := ⟨0x1c0000 + 0x1000 * i + 0x40, 4, 1⟩
def MC_STAT_ACTIVE (i : Nat) : Fld := ⟨0x1c0000 + 0x1000 * i + 0x44, 0, 8⟩
def MC_STAT_RETIRED (i : Nat) : Fld := ⟨0x1c0000 + 0x1000 * i + 0x44, 8, 8⟩
def MC_STAT_OFFLINE (i : Nat) : Fld := ⟨0x1c0000 + 0x1000 * i + 0x44, 16, 8⟩
def MC_STAT_SELF_REFRESH (i : Nat) : Fld := ⟨0x1c0000 + 0x1000 * i + 0x44, 24, 1⟩
def MC_STAT_INJ_DONE (i : Nat) : Fld := ⟨0x1c0000 + 0x1000 * i + 0x44, 25, 1⟩
def MC_TEMP (i : Nat) : Fld := ⟨0x1c0000 + 0x1000 * i + 0x48, 0, 8⟩
def MC_TEMP_REF_MULT (i : Nat) : Fld := ⟨0x1c0000 + 0x1000 * i + 0x48, 8, 2⟩
def MC_TEMP_HOT (i : Nat) : Fld := ⟨0x1c0000 + 0x1000 * i + 0x48, 10, 1⟩
def MC_INJECT_ARM (i : Nat) : Fld := ⟨0x1c0000 + 0x1000 * i + 0x4c, 0, 1⟩
def MC_INJECT_DOUBLE (i : Nat) : Fld := ⟨0x1c0000 + 0x1000 * i + 0x4c, 1, 1⟩
def MC_INJECT_SYMBOL (i : Nat) : Fld := ⟨0x1c0000 + 0x1000 * i + 0x4c, 2, 6⟩
def MC_INJECT_CH_I (i : Nat) : Fld := ⟨0x1c0000 + 0x1000 * i + 0x4c, 8, 3⟩
def MC_INJECT_PATTERN (i : Nat) : Fld := ⟨0x1c0000 + 0x1000 * i + 0x4c, 16, 8⟩
def MC_LOG_STAT_COUNT (i : Nat) : Fld := ⟨0x1c0000 + 0x1000 * i + 0x50, 0, 5⟩
def MC_LOG_STAT_OVERFLOW (i : Nat) : Fld := ⟨0x1c0000 + 0x1000 * i + 0x50, 8, 1⟩
def MC_LOG_A_TYPE (i : Nat) : Fld := ⟨0x1c0000 + 0x1000 * i + 0x54, 0, 4⟩
def MC_LOG_A_CH (i : Nat) : Fld := ⟨0x1c0000 + 0x1000 * i + 0x54, 4, 3⟩
def MC_LOG_A_BANK (i : Nat) : Fld := ⟨0x1c0000 + 0x1000 * i + 0x54, 8, 4⟩
def MC_LOG_A_MASTER (i : Nat) : Fld := ⟨0x1c0000 + 0x1000 * i + 0x54, 12, 4⟩
def MC_LOG_A_SYMBOL (i : Nat) : Fld := ⟨0x1c0000 + 0x1000 * i + 0x54, 16, 6⟩
def MC_LOG_B_ROW (i : Nat) : Fld := ⟨0x1c0000 + 0x1000 * i + 0x58, 0, 16⟩
def MC_LOG_B_WORD (i : Nat) : Fld := ⟨0x1c0000 + 0x1000 * i + 0x58, 16, 6⟩
def MC_LOG_C_FRAME (i : Nat) : Fld := ⟨0x1c0000 + 0x1000 * i + 0x5c, 0, 32⟩
def MC_LOG_POP_POP (i : Nat) : Fld := ⟨0x1c0000 + 0x1000 * i + 0x60, 0, 1⟩
def MC_CE (i : Nat) : Fld := ⟨0x1c0000 + 0x1000 * i + 0x80, 0, 48⟩
def MC_UE (i : Nat) : Fld := ⟨0x1c0000 + 0x1000 * i + 0x88, 0, 48⟩
def MC_POISON_OUT (i : Nat) : Fld := ⟨0x1c0000 + 0x1000 * i + 0x90, 0, 48⟩
def MC_ERR_RESP (i : Nat) : Fld := ⟨0x1c0000 + 0x1000 * i + 0x98, 0, 48⟩
def MC_CMD_RETRY (i : Nat) : Fld := ⟨0x1c0000 + 0x1000 * i + 0xa0, 0, 48⟩
def MC_DEAD_ACC (i : Nat) : Fld := ⟨0x1c0000 + 0x1000 * i + 0xa8, 0, 48⟩
def MC_RMW (i : Nat) : Fld := ⟨0x1c0000 + 0x1000 * i + 0xb0, 0, 48⟩
def MC_HAZ_WAIT (i : Nat) : Fld := ⟨0x1c0000 + 0x1000 * i + 0xb8, 0, 48⟩
def MC_RETRAINS (i : Nat) : Fld := ⟨0x1c0000 + 0x1000 * i + 0xc0, 0, 48⟩

/-! ### MAP -/
def MAP_CTL_REMAP : Fld := ⟨0x1c8040, 0, 1⟩
def MAP_CTL_FILL : Fld := ⟨0x1c8040, 1, 1⟩
def MAP_CTL_FILL_RGN : Fld := ⟨0x1c8040, 4, 3⟩
def MAP_CFG_RT_EN : Fld := ⟨0x1c8044, 1, 1⟩
def MAP_CFG_RT_INTERVAL : Fld := ⟨0x1c8044, 8, 8⟩
def MAP_STAT_ACT_CH : Fld := ⟨0x1c8048, 0, 7⟩
def MAP_STAT_MAP_CH : Fld := ⟨0x1c8048, 8, 7⟩
def MAP_STAT_REMAP_NEEDED : Fld := ⟨0x1c8048, 15, 1⟩
def MAP_STAT_FILL_BUSY : Fld := ⟨0x1c8048, 16, 1⟩
def MAP_STAT_REMAP_BUSY : Fld := ⟨0x1c8048, 17, 1⟩
def MAP_STAT_REF_MULT : Fld := ⟨0x1c8048, 18, 2⟩
def MAP_STAT_CFG_BLOCKED : Fld := ⟨0x1c8048, 20, 1⟩
def MAP_STAT_HWFILL_DONE : Fld := ⟨0x1c8048, 21, 1⟩
def MAP_RETIRED : Fld := ⟨0x1c804c, 0, 64⟩
def MAP_FILL_PROG_MIB : Fld := ⟨0x1c8054, 0, 21⟩
def MAP_HWFILL_EN : Fld := ⟨0x1c8058, 0, 1⟩
def MAP_RGN_BASE_BASE (k : Nat) : Fld := ⟨0x1c8080 + 0x10 * k, 26, 14⟩
def MAP_RGN_SLICE_CBASE (k : Nat) : Fld := ⟨0x1c8088 + 0x10 * k, 0, 12⟩
def MAP_RGN_SLICE_CSIZE (k : Nat) : Fld := ⟨0x1c8088 + 0x10 * k, 16, 12⟩
def MAP_RGN_CTL_ORDER (k : Nat) : Fld := ⟨0x1c808c + 0x10 * k, 0, 2⟩
def MAP_RGN_CTL_ENABLE (k : Nat) : Fld := ⟨0x1c808c + 0x10 * k, 2, 1⟩
def MAP_RGN_CTL_SCRUB (k : Nat) : Fld := ⟨0x1c808c + 0x10 * k, 3, 1⟩
def MAP_RGN_CTL_CHAN (k : Nat) : Fld := ⟨0x1c808c + 0x10 * k, 8, 6⟩
def MAP_RGN_CTL_FILLED (k : Nat) : Fld := ⟨0x1c808c + 0x10 * k, 16, 1⟩
def MAP_RGN_SIZE_SIZE (k : Nat) : Fld := ⟨0x1c8100 + 0x8 * k, 0, 40⟩

/-! ### SCR -/
def SCR_CTL_START : Fld := ⟨0x1c9040, 0, 1⟩
def SCR_CFG_PERIOD_MIN : Fld := ⟨0x1c9044, 0, 16⟩
def SCR_STAT_ACTIVE : Fld := ⟨0x1c9048, 0, 1⟩
def SCR_STAT_TRACK_EVICTED : Fld := ⟨0x1c9048, 1, 1⟩
def SCR_STAT_SPARE_Q : Fld := ⟨0x1c9048, 8, 5⟩
def SCR_STAT_SPARE_Q_OVF : Fld := ⟨0x1c9048, 13, 1⟩
def SCR_PROG_PERMILLE : Fld := ⟨0x1c904c, 0, 10⟩
def SCR_BIST_DONE : Fld := ⟨0x1c9050, 0, 1⟩
def SCR_BIST_PASS : Fld := ⟨0x1c9050, 1, 1⟩
def SCR_BIST_ECC_FAIL : Fld := ⟨0x1c9050, 2, 8⟩
def SCR_BIST_CRC_FAIL : Fld := ⟨0x1c9050, 16, 11⟩
def SCR_PASSES : Fld := ⟨0x1c9080, 0, 48⟩
def SCR_SCRUB_CE : Fld := ⟨0x1c9088, 0, 48⟩
def SCR_SCRUB_UE : Fld := ⟨0x1c9090, 0, 48⟩
def SCR_REWRITES : Fld := ⟨0x1c9098, 0, 48⟩
def SCR_HARD_WORDS : Fld := ⟨0x1c90a0, 0, 48⟩
def SCR_SPARES_APPLIED : Fld := ⟨0x1c90a8, 0, 48⟩
def SCR_SPARE_EXHAUSTED : Fld := ⟨0x1c90b0, 0, 48⟩
def SCR_TRACK_EVICT : Fld := ⟨0x1c90b8, 0, 48⟩
def SCR_WB_DROPPED : Fld := ⟨0x1c90c0, 0, 48⟩
def SCR_TRK_LOC_CH (k : Nat) : Fld := ⟨0x1c9200 + 0x8 * k, 0, 6⟩
def SCR_TRK_LOC_BANK (k : Nat) : Fld := ⟨0x1c9200 + 0x8 * k, 6, 4⟩
def SCR_TRK_LOC_ROW (k : Nat) : Fld := ⟨0x1c9200 + 0x8 * k, 10, 16⟩
def SCR_TRK_LOC_WORD (k : Nat) : Fld := ⟨0x1c9200 + 0x8 * k, 26, 6⟩
def SCR_TRK_STATE_COUNT (k : Nat) : Fld := ⟨0x1c9204 + 0x8 * k, 0, 3⟩
def SCR_TRK_STATE_REWRITES (k : Nat) : Fld := ⟨0x1c9204 + 0x8 * k, 4, 2⟩
def SCR_TRK_STATE_VALID (k : Nat) : Fld := ⟨0x1c9204 + 0x8 * k, 7, 1⟩

/-! ### DMA -/
def DMA_CTL_STOP_ALL : Fld := ⟨0x200040, 0, 1⟩
def DMA_CFG_AGE_LIMIT : Fld := ⟨0x200044, 0, 8⟩
def DMA_CFG_POLL : Fld := ⟨0x200044, 8, 8⟩
def DMA_RUN_MAP : Fld := ⟨0x200048, 0, 32⟩
def DMA_ERR_MAP : Fld := ⟨0x20004c, 0, 32⟩
def DMA_BUF_USED_KIB : Fld := ⟨0x200050, 0, 10⟩
def DMA_RD_BYTES : Fld := ⟨0x200080, 0, 48⟩
def DMA_WR_BYTES : Fld := ⟨0x200088, 0, 48⟩
def DMA_INFLIGHT : Fld := ⟨0x200090, 0, 48⟩
def DMA_LOST_RESET : Fld := ⟨0x200098, 0, 48⟩
def DMA_HOST_BURSTS : Fld := ⟨0x2000a0, 0, 48⟩
def DMA_INT_BURSTS : Fld := ⟨0x2000a8, 0, 48⟩
def DMA_OVERLAP_MOVES : Fld := ⟨0x2000b0, 0, 48⟩

/-! ### DMACH -/
def DMACH_CTL_START (i : Nat) : Fld := ⟨0x201000 + 0x1000 * i + 0x40, 0, 1⟩
def DMACH_CTL_STOP (i : Nat) : Fld := ⟨0x201000 + 0x1000 * i + 0x40, 1, 1⟩
def DMACH_CTL_CLEAR (i : Nat) : Fld := ⟨0x201000 + 0x1000 * i + 0x40, 2, 1⟩
def DMACH_CFG_PRIO (i : Nat) : Fld := ⟨0x201000 + 0x1000 * i + 0x44, 0, 2⟩
def DMACH_CFG_PROG_SPACE (i : Nat) : Fld := ⟨0x201000 + 0x1000 * i + 0x44, 4, 2⟩
def DMACH_CFG_RELAXED (i : Nat) : Fld := ⟨0x201000 + 0x1000 * i + 0x44, 8, 1⟩
def DMACH_CFG_STOP_ON_POISON (i : Nat) : Fld := ⟨0x201000 + 0x1000 * i + 0x44, 9, 1⟩
def DMACH_CFG_RING0_HOST (i : Nat) : Fld := ⟨0x201000 + 0x1000 * i + 0x44, 12, 1⟩
def DMACH_CFG_RING1_HOST (i : Nat) : Fld := ⟨0x201000 + 0x1000 * i + 0x44, 13, 1⟩
def DMACH_STAT_STATE (i : Nat) : Fld := ⟨0x201000 + 0x1000 * i + 0x48, 0, 4⟩
def DMACH_STAT_ERR_CODE (i : Nat) : Fld := ⟨0x201000 + 0x1000 * i + 0x48, 8, 8⟩
def DMACH_STAT_LATE_ERR (i : Nat) : Fld := ⟨0x201000 + 0x1000 * i + 0x48, 16, 1⟩
def DMACH_STAT_POISON_SEEN (i : Nat) : Fld := ⟨0x201000 + 0x1000 * i + 0x48, 17, 1⟩
def DMACH_STAT_CFG_BLOCKED (i : Nat) : Fld := ⟨0x201000 + 0x1000 * i + 0x48, 18, 1⟩
def DMACH_STAT_CMD_IGN (i : Nat) : Fld := ⟨0x201000 + 0x1000 * i + 0x48, 19, 1⟩
def DMACH_STAT_OVERLAP (i : Nat) : Fld := ⟨0x201000 + 0x1000 * i + 0x48, 20, 1⟩
def DMACH_PROG_ADDR (i : Nat) : Fld := ⟨0x201000 + 0x1000 * i + 0x4c, 0, 64⟩
def DMACH_PC (i : Nat) : Fld := ⟨0x201000 + 0x1000 * i + 0x54, 0, 64⟩
def DMACH_SP (i : Nat) : Fld := ⟨0x201000 + 0x1000 * i + 0x5c, 0, 48⟩
def DMACH_DP (i : Nat) : Fld := ⟨0x201000 + 0x1000 * i + 0x64, 0, 48⟩
def DMACH_RING0_BASE (i : Nat) : Fld := ⟨0x201000 + 0x1000 * i + 0x6c, 6, 58⟩
def DMACH_RING0_SIZE (i : Nat) : Fld := ⟨0x201000 + 0x1000 * i + 0x74, 6, 42⟩
def DMACH_RING1_BASE (i : Nat) : Fld := ⟨0x201000 + 0x1000 * i + 0x7c, 6, 58⟩
def DMACH_RING1_SIZE (i : Nat) : Fld := ⟨0x201000 + 0x1000 * i + 0x84, 6, 42⟩
def DMACH_CRC (i : Nat) : Fld := ⟨0x201000 + 0x1000 * i + 0x8c, 0, 32⟩
def DMACH_LOOP_DEPTH (i : Nat) : Fld := ⟨0x201000 + 0x1000 * i + 0x90, 0, 3⟩
def DMACH_LOOP_CNT (i : Nat) (k : Nat) : Fld := ⟨0x201000 + 0x1000 * i + 0x94 + 0x4 * k, 0, 32⟩
def DMACH_REMAIN (i : Nat) : Fld := ⟨0x201000 + 0x1000 * i + 0xa4, 0, 32⟩
def DMACH_LATE_PC (i : Nat) : Fld := ⟨0x201000 + 0x1000 * i + 0xa8, 0, 64⟩
def DMACH_LATE_ADDR (i : Nat) : Fld := ⟨0x201000 + 0x1000 * i + 0xb0, 0, 64⟩
def DMACH_LATE_INFO_SPACE (i : Nat) : Fld := ⟨0x201000 + 0x1000 * i + 0xb8, 0, 3⟩
def DMACH_LATE_INFO_CAUSE (i : Nat) : Fld := ⟨0x201000 + 0x1000 * i + 0xb8, 4, 4⟩
def DMACH_DOORBELL_COUNT (i : Nat) : Fld := ⟨0x201000 + 0x1000 * i + 0xbc, 0, 32⟩
def DMACH_BYTES (i : Nat) : Fld := ⟨0x201000 + 0x1000 * i + 0x100, 0, 48⟩
def DMACH_INSTR (i : Nat) : Fld := ⟨0x201000 + 0x1000 * i + 0x108, 0, 48⟩
def DMACH_SIGNALS (i : Nat) : Fld := ⟨0x201000 + 0x1000 * i + 0x110, 0, 48⟩
def DMACH_WAIT_CYC (i : Nat) : Fld := ⟨0x201000 + 0x1000 * i + 0x118, 0, 48⟩
def DMACH_POISON_BYTES (i : Nat) : Fld := ⟨0x201000 + 0x1000 * i + 0x120, 0, 48⟩

/-! ### MX -/
def MX_CFG_AGE_LIMIT : Fld := ⟨0x240040, 0, 16⟩
def MX_STAT_MSPI_HUNG : Fld := ⟨0x240044, 0, 1⟩
def MX_STAT_DEC_ERR : Fld := ⟨0x240044, 1, 1⟩
def MX_STAT_PARK_LAST : Fld := ⟨0x240044, 2, 1⟩
def MX_DEC_ADDR : Fld := ⟨0x240048, 0, 64⟩
def MX_DEC_INFO_MASTER : Fld := ⟨0x240050, 0, 4⟩
def MX_DEC_INFO_WRITE : Fld := ⟨0x240050, 4, 1⟩
def MX_DEC_INFO_PATH : Fld := ⟨0x240050, 5, 2⟩
def MX_DEC_PCIE : Fld := ⟨0x240080, 0, 48⟩
def MX_DEC_MSPI : Fld := ⟨0x240088, 0, 48⟩
def MX_DEC_INT : Fld := ⟨0x240090, 0, 48⟩
def MX_MRST_BURSTS : Fld := ⟨0x240098, 0, 48⟩
def MX_MSPI_RST : Fld := ⟨0x2400a0, 0, 48⟩
def MX_REQ (k : Nat) : Fld := ⟨0x240100 + 0x20 * k, 0, 48⟩
def MX_RSP (k : Nat) : Fld := ⟨0x240108 + 0x20 * k, 0, 48⟩
def MX_OUT (k : Nat) : Fld := ⟨0x240110 + 0x20 * k, 0, 48⟩
def MX_LOST_RESET (k : Nat) : Fld := ⟨0x240118 + 0x20 * k, 0, 48⟩

/-! ### WELL -/
def WELL_CTL_RESTART (i : Nat) : Fld := ⟨0x280000 + 0x1000 * i + 0x40, 0, 1⟩
def WELL_CTL_TEST (i : Nat) : Fld := ⟨0x280000 + 0x1000 * i + 0x40, 1, 1⟩
def WELL_STAT_STATE (i : Nat) : Fld := ⟨0x280000 + 0x1000 * i + 0x44, 0, 3⟩
def WELL_STAT_CAUSE (i : Nat) : Fld := ⟨0x280000 + 0x1000 * i + 0x44, 4, 4⟩
def WELL_WDT_MS (i : Nat) : Fld := ⟨0x280000 + 0x1000 * i + 0x48, 0, 16⟩
def WELL_HANDOVERS_COUNT (i : Nat) : Fld := ⟨0x280000 + 0x1000 * i + 0x4c, 0, 32⟩
def WELL_FAILS_COUNT (i : Nat) : Fld := ⟨0x280000 + 0x1000 * i + 0x50, 0, 32⟩
def WELL_WDT_EXP_COUNT (i : Nat) : Fld := ⟨0x280000 + 0x1000 * i + 0x54, 0, 32⟩

/-! ### MBX -/
def MBX_CMD_OPCODE : Fld := ⟨0x282040, 0, 16⟩
def MBX_CMD_TAG : Fld := ⟨0x282040, 24, 8⟩
def MBX_CTL_GO : Fld := ⟨0x282044, 0, 1⟩
def MBX_STAT_BUSY : Fld := ⟨0x282048, 0, 1⟩
def MBX_STAT_DONE : Fld := ⟨0x282048, 1, 1⟩
def MBX_STAT_GO_IGN : Fld := ⟨0x282048, 2, 1⟩
def MBX_STAT_WELL : Fld := ⟨0x282048, 3, 1⟩
def MBX_STAT_NO_WELL : Fld := ⟨0x282048, 4, 1⟩
def MBX_STAT_STATUS : Fld := ⟨0x282048, 8, 8⟩
def MBX_STAT_TAG : Fld := ⟨0x282048, 24, 8⟩
def MBX_ARG (k : Nat) : Fld := ⟨0x282060 + 0x4 * k, 0, 32⟩
def MBX_RSP (k : Nat) : Fld := ⟨0x282080 + 0x4 * k, 0, 32⟩

/-! ### ACC -/
def ACC_CTL_FREEZE_ALL : Fld := ⟨0x2c0040, 0, 1⟩
def ACC_CTL_THAW_ALL : Fld := ⟨0x2c0040, 1, 1⟩
def ACC_CTL_CHECK : Fld := ⟨0x2c0040, 2, 1⟩
def ACC_STAT_FROZEN : Fld := ⟨0x2c0044, 0, 1⟩
def ACC_STAT_CHECK_BUSY : Fld := ⟨0x2c0044, 1, 1⟩
def ACC_STAT_CHECK_DONE : Fld := ⟨0x2c0044, 2, 1⟩
def ACC_STAT_CMD_IGN : Fld := ⟨0x2c0044, 3, 1⟩
def ACC_STAT_BROKEN : Fld := ⟨0x2c0044, 4, 1⟩
def ACC_SNAP_FRAME_FRAME : Fld := ⟨0x2c0048, 0, 48⟩
def ACC_RESULT_FAILED : Fld := ⟨0x2c0050, 0, 12⟩
def ACC_DETAIL_IDENT : Fld := ⟨0x2c0054, 0, 4⟩
def ACC_DETAIL_INSTANCE : Fld := ⟨0x2c0054, 8, 13⟩
def ACC_SNAPS_COUNT : Fld := ⟨0x2c0058, 0, 32⟩
def ACC_CHECK_FAILS_COUNT : Fld := ⟨0x2c005c, 0, 32⟩

/-! ### EVT -/
def EVT_CFG_IRQ_THR : Fld := ⟨0x300040, 0, 12⟩
def EVT_CFG_SPILL_EN : Fld := ⟨0x300040, 16, 1⟩
def EVT_SPILL_THR_ENTRIES : Fld := ⟨0x300044, 0, 12⟩
def EVT_STAT_DROPPED : Fld := ⟨0x300048, 0, 1⟩
def EVT_STAT_SPILL_FULL : Fld := ⟨0x300048, 1, 1⟩
def EVT_STAT_SPILLING : Fld := ⟨0x300048, 2, 1⟩
def EVT_STAT_RPTR_BAD : Fld := ⟨0x300048, 3, 1⟩
def EVT_WPTR_SEQ : Fld := ⟨0x30004c, 0, 32⟩
def EVT_RPTR_SEQ : Fld := ⟨0x300050, 0, 32⟩
def EVT_SPILL_HEAD_SEQ : Fld := ⟨0x300054, 0, 32⟩
def EVT_GEN : Fld := ⟨0x300080, 0, 48⟩
def EVT_RECORDED : Fld := ⟨0x300088, 0, 48⟩
def EVT_DROPPED : Fld := ⟨0x300090, 0, 48⟩
def EVT_CONSUMED : Fld := ⟨0x300098, 0, 48⟩
def EVT_LOST_RESET : Fld := ⟨0x3000a0, 0, 48⟩
def EVT_LOST_REMAP : Fld := ⟨0x3000a8, 0, 48⟩
def EVT_RESIDENT : Fld := ⟨0x3000b0, 0, 48⟩

/-! ### SEC -/
def SEC_DBG_CTL_OPEN : Fld := ⟨0x340040, 0, 1⟩
def SEC_DBG_STAT_OPENED : Fld := ⟨0x340044, 0, 1⟩
def SEC_DBG_STAT_ERASING : Fld := ⟨0x340044, 1, 1⟩
def SEC_DBG_STAT_REFUSED : Fld := ⟨0x340044, 2, 1⟩
def SEC_DBG_STAT_ERASE_FAIL : Fld := ⟨0x340044, 3, 1⟩
def SEC_BOOT_SLOT : Fld := ⟨0x340048, 0, 1⟩
def SEC_BOOT_SLOT0_OK : Fld := ⟨0x340048, 1, 1⟩
def SEC_BOOT_SLOT1_OK : Fld := ⟨0x340048, 2, 1⟩
def SEC_BOOT_KEY_INDEX : Fld := ⟨0x340048, 4, 2⟩
def SEC_BOOT_KEYSRAM_LOADED : Fld := ⟨0x340048, 8, 1⟩
def SEC_FW_VER_VERSION : Fld := ⟨0x34004c, 0, 32⟩
def SEC_AUTH_FAILS_COUNT : Fld := ⟨0x340050, 0, 32⟩

/-! ### NVR -/
def NVR_CTL_SAVE : Fld := ⟨0x380040, 0, 1⟩
def NVR_STAT_BANK : Fld := ⟨0x380044, 0, 1⟩
def NVR_STAT_DEFAULTS : Fld := ⟨0x380044, 1, 1⟩
def NVR_STAT_BUSY : Fld := ⟨0x380044, 2, 1⟩
def NVR_STAT_DIRTY : Fld := ⟨0x380044, 3, 1⟩
def NVR_STAT_WRITE_FAIL : Fld := ⟨0x380044, 4, 1⟩
def NVR_STAT_BANK0_OK : Fld := ⟨0x380044, 5, 1⟩
def NVR_STAT_BANK1_OK : Fld := ⟨0x380044, 6, 1⟩
def NVR_SEQ : Fld := ⟨0x380048, 0, 32⟩
def NVR_SIZE_BYTES : Fld := ⟨0x38004c, 0, 16⟩
def NVR_WRITES : Fld := ⟨0x380050, 0, 32⟩
def NVR_FAILS : Fld := ⟨0x380054, 0, 32⟩

/-! ### PCIE -/
def PCIE_LINK_SPEED : Fld := ⟨0x3c0040, 0, 3⟩
def PCIE_LINK_WIDTH : Fld := ⟨0x3c0040, 4, 5⟩
def PCIE_LINK_FLIT : Fld := ⟨0x3c0040, 9, 1⟩
def PCIE_LINK_REVERSED : Fld := ⟨0x3c0040, 10, 1⟩
def PCIE_LINK_L0P : Fld := ⟨0x3c0040, 11, 1⟩
def PCIE_WIN_BASE_BASE : Fld := ⟨0x3c0044, 30, 10⟩
def PCIE_SUBSYS_SVID : Fld := ⟨0x3c004c, 0, 16⟩
def PCIE_SUBSYS_SSID : Fld := ⟨0x3c004c, 16, 16⟩
def PCIE_EVT_EP_RX : Fld := ⟨0x3c0050, 0, 1⟩
def PCIE_EVT_CPL_TIMEOUT : Fld := ⟨0x3c0050, 1, 1⟩
def PCIE_EVT_BME_DROP : Fld := ⟨0x3c0050, 2, 1⟩
def PCIE_EVT_WIN_DROP : Fld := ⟨0x3c0050, 3, 1⟩
def PCIE_EP_TX : Fld := ⟨0x3c0080, 0, 48⟩
def PCIE_EP_RX : Fld := ⟨0x3c0088, 0, 48⟩
def PCIE_CPL_TIMEOUT : Fld := ⟨0x3c0090, 0, 48⟩
def PCIE_BME_DROP : Fld := ⟨0x3c0098, 0, 48⟩
def PCIE_WIN_DROP : Fld := ⟨0x3c00a0, 0, 48⟩
def PCIE_LINK_DOWN : Fld := ⟨0x3c00a8, 0, 48⟩

end R

end Sys2Proof.Machine
end

