-- ==== Sys2Proof/Machine/RegTable.lean ====
section
/-! DEFINITION. The register tables of spec/02 to spec/15 as data: for every page, each register's offset, whether it
is a _LO/_HI pair (R5), its reset class (R12), whether it is a counter latched by FREEZE (R377), and its fields with
their access codes (R8) and reset values. The reserved bits of a register are the bits no field covers (R7). -/

namespace Sys2Proof.Machine

/-- One row of a field table. -/
structure FieldDesc where
  lo : Nat
  w : Nat
  acc : Acc
  rst : Nat
  deriving DecidableEq, Repr

/-- One row of a register table; `off` is relative to the page base. -/
structure RegDesc where
  off : Nat
  pair : Bool
  cls : RCls
  cnt : Bool
  fields : List FieldDesc
  deriving DecidableEq, Repr

/-- The common page header of R374 and R375. (part 0) -/
def hdrRegs0 : List RegDesc := [
  ⟨0x0, false, .N, false, [⟨0, 8, .ro, 0⟩, ⟨8, 8, .ro, 0⟩, ⟨16, 16, .ro, 0⟩]⟩,
  ⟨0x4, false, .N, false, [⟨0, 8, .ro, 0⟩, ⟨8, 1, .ro, 0⟩, ⟨16, 16, .ro, 0⟩]⟩,
  ⟨0x8, false, .H, false, [⟨0, 1, .rw, 0⟩, ⟨1, 1, .sc, 0⟩, ⟨2, 1, .rw, 0⟩, ⟨3, 1, .w1s, 0⟩]⟩,
  ⟨0xc, false, .H, false, [⟨0, 1, .ro, 0⟩, ⟨1, 1, .ro, 0⟩, ⟨2, 1, .ro, 0⟩, ⟨3, 1, .ro, 0⟩, ⟨4, 4, .ro, 0⟩]⟩,
  ⟨0x10, false, .B, false, [⟨0, 32, .ro, 0⟩]⟩,
  ⟨0x14, false, .B, false, [⟨0, 32, .w1c, 0⟩]⟩,
  ⟨0x18, false, .H, false, [⟨0, 32, .rw, 0⟩]⟩,
  ⟨0x1c, false, .H, false, [⟨0, 11, .rw, 0⟩]⟩,
  ⟨0x20, false, .B, false, [⟨0, 8, .ro, 0⟩, ⟨31, 1, .w1c, 0⟩]⟩,
  ⟨0x24, false, .B, false, [⟨0, 32, .ro, 0⟩]⟩,
  ⟨0x28, false, .B, true, [⟨0, 32, .ro, 0⟩]⟩,
  ⟨0x2c, false, .B, false, [⟨0, 32, .rw, 0⟩]⟩]

/-- The common page header of R374 and R375. (part 1) -/
def hdrRegs1 : List RegDesc := [
  ⟨0x30, true, .H, false, [⟨0, 48, .ro, 0⟩]⟩,
  ⟨0x3c, false, .H, false, [⟨0, 32, .wo, 0⟩]⟩]

/-- The common page header of R374 and R375. -/
def hdrRegs : List RegDesc :=
  hdrRegs0 ++
  hdrRegs1

/-- The arm group of R26; offsets relative to the arm group base. -/
def armRegs : List RegDesc := [
  ⟨0x0, false, .H, false, [⟨0, 1, .wo, 0⟩, ⟨1, 1, .wo, 0⟩, ⟨2, 1, .wo, 0⟩]⟩,
  ⟨0x4, false, .H, false, [⟨0, 3, .ro, 0⟩, ⟨3, 1, .ro, 0⟩, ⟨4, 1, .ro, 0⟩, ⟨5, 1, .ro, 0⟩, ⟨6, 1, .ro, 0⟩, ⟨8, 8, .ro, 0⟩, ⟨16, 16, .ro, 0⟩]⟩,
  ⟨0x8, true, .H, false, [⟨0, 48, .rw, 0⟩]⟩,
  ⟨0x10, true, .H, false, [⟨0, 48, .ro, 0⟩]⟩,
  ⟨0x18, false, .H, false, [⟨0, 16, .ro, 0⟩, ⟨16, 8, .ro, 0⟩, ⟨24, 4, .ro, 0⟩, ⟨31, 1, .ro, 0⟩]⟩]

/-- The ID registers table. -/
def idRegs : List RegDesc := [
  ⟨0x40, false, .N, false, [⟨0, 16, .ro, 0x6472⟩, ⟨16, 4, .ro, 1⟩, ⟨20, 8, .ro, 0⟩]⟩,
  ⟨0x44, false, .N, false, [⟨0, 7, .ro, 0x48⟩, ⟨8, 4, .ro, 8⟩, ⟨16, 7, .ro, 0x40⟩]⟩,
  ⟨0x48, false, .N, false, [⟨0, 7, .ro, 0x40⟩, ⟨8, 7, .ro, 0x40⟩]⟩,
  ⟨0x4c, false, .N, false, [⟨0, 3, .ro, 4⟩, ⟨4, 4, .ro, 8⟩, ⟨8, 7, .ro, 0x40⟩, ⟨16, 8, .ro, 0x80⟩]⟩,
  ⟨0x50, false, .N, false, [⟨0, 6, .ro, 0x20⟩, ⟨16, 9, .ro, 0x100⟩]⟩,
  ⟨0x54, true, .N, false, [⟨0, 64, .ro, 0⟩]⟩]

/-- The ST registers table. -/
def stRegs : List RegDesc := [
  ⟨0x40, false, .P, false, [⟨0, 4, .ro, 1⟩, ⟨4, 1, .ro, 0⟩, ⟨8, 2, .ro, 0⟩, ⟨12, 4, .ro, 0⟩, ⟨16, 8, .ro, 0⟩]⟩,
  ⟨0x44, false, .P, false, [⟨0, 1, .w1c, 1⟩, ⟨1, 1, .w1c, 0⟩, ⟨2, 1, .w1c, 0⟩, ⟨3, 1, .w1c, 0⟩, ⟨4, 1, .w1c, 0⟩]⟩,
  ⟨0x48, false, .P, true, [⟨0, 32, .ro, 0⟩]⟩,
  ⟨0x4c, false, .P, true, [⟨0, 32, .ro, 0⟩]⟩,
  ⟨0x50, false, .P, true, [⟨0, 32, .ro, 0⟩]⟩,
  ⟨0x54, false, .P, false, [⟨0, 26, .ro, 0⟩, ⟨28, 2, .ro, 0⟩, ⟨30, 1, .ro, 0⟩, ⟨31, 1, .ro, 0⟩]⟩]

/-- The PWR registers table. -/
def pwrRegs : List RegDesc := [
  ⟨0x40, false, .P, false, [⟨0, 1, .sc, 0⟩, ⟨1, 1, .sc, 0⟩, ⟨2, 1, .sc, 0⟩]⟩,
  ⟨0x44, false, .P, false, [⟨0, 1, .rw, 1⟩]⟩,
  ⟨0x48, false, .P, false, [⟨0, 20, .rw, 0xfffff⟩]⟩,
  ⟨0x4c, false, .P, false, [⟨0, 20, .ro, 1⟩, ⟨31, 1, .ro, 0⟩]⟩,
  ⟨0x50, false, .P, false, [⟨0, 2, .ro, 0⟩, ⟨2, 1, .ro, 0⟩, ⟨3, 1, .w1c, 0⟩, ⟨4, 1, .w1c, 0⟩, ⟨5, 1, .w1c, 0⟩, ⟨6, 1, .w1c, 0⟩]⟩,
  ⟨0x54, false, .P, true, [⟨0, 32, .ro, 0⟩]⟩,
  ⟨0x58, false, .P, true, [⟨0, 32, .ro, 0⟩]⟩]

/-- The FUSE registers table. -/
def fuseRegs : List RegDesc := [
  ⟨0x40, false, .N, false, [⟨0, 1, .ro, 0⟩, ⟨1, 1, .ro, 0⟩, ⟨16, 12, .ro, 0⟩]⟩,
  ⟨0x44, false, .N, false, [⟨0, 4, .ro, 0⟩, ⟨4, 1, .ro, 0⟩, ⟨8, 8, .ro, 0⟩]⟩]

/-- The TRN0 registers table. (part 0) -/
def trn0Regs0 : List RegDesc := [
  ⟨0x40, false, .P, false, [⟨0, 1, .sc, 0⟩, ⟨1, 1, .sc, 0⟩]⟩,
  ⟨0x44, false, .K, false, [⟨0, 2, .rw, 1⟩, ⟨2, 2, .rw, 0⟩, ⟨8, 16, .rw, 0x3c⟩]⟩,
  ⟨0x48, false, .P, false, [⟨0, 2, .ro, 0⟩, ⟨2, 2, .ro, 3⟩, ⟨4, 1, .ro, 0⟩, ⟨5, 1, .ro, 0⟩, ⟨6, 1, .ro, 0⟩, ⟨7, 1, .ro, 0⟩, ⟨8, 1, .ro, 0⟩, ⟨16, 1, .w1c, 0⟩, ⟨17, 1, .w1c, 0⟩]⟩,
  ⟨0x4c, false, .K, false, [⟨0, 16, .rw, 0x7d0⟩, ⟨16, 8, .rw, 0xa⟩]⟩,
  ⟨0x50, false, .K, false, [⟨0, 16, .rw, 0x64⟩]⟩,
  ⟨0x54, false, .P, false, [⟨0, 32, .wo, 0⟩]⟩,
  ⟨0x58, false, .P, false, [⟨0, 32, .ro, 0⟩]⟩,
  ⟨0x5c, false, .K, false, [⟨0, 20, .rw, 0x2710⟩]⟩,
  ⟨0x60, false, .P, false, [⟨0, 32, .ro, 0⟩]⟩,
  ⟨0x64, false, .P, false, [⟨0, 32, .ro, 0⟩]⟩,
  ⟨0x68, false, .P, false, [⟨0, 24, .ro, 0⟩]⟩,
  ⟨0x6c, false, .K, false, [⟨0, 24, .ro, 0⟩, ⟨31, 1, .ro, 0⟩]⟩]

/-- The TRN0 registers table. (part 1) -/
def trn0Regs1 : List RegDesc := [
  ⟨0x80, true, .P, true, [⟨0, 48, .ro, 0⟩]⟩,
  ⟨0x88, true, .P, true, [⟨0, 48, .ro, 0⟩]⟩,
  ⟨0x90, true, .P, true, [⟨0, 48, .ro, 0⟩]⟩,
  ⟨0x98, true, .P, true, [⟨0, 48, .ro, 0⟩]⟩]

/-- The TRN0 registers table. -/
def trn0Regs : List RegDesc :=
  trn0Regs0 ++
  trn0Regs1

/-- The TRN1 registers table. -/
def trn1Regs : List RegDesc :=
  (List.range 3).map (fun k => ⟨0x40 + 0x20 * k, false, .K, false, [⟨0, 2, .rw, 0⟩, ⟨2, 1, .rw, 0⟩, ⟨3, 1, .rw, 0⟩, ⟨4, 3, .rw, 0⟩, ⟨8, 1, .rw, 0⟩, ⟨9, 3, .rw, 0⟩]⟩) ++
  (List.range 3).map (fun k => ⟨0x44 + 0x20 * k, false, .P, false, [⟨0, 3, .ro, 0⟩, ⟨3, 1, .ro, 0⟩, ⟨4, 1, .ro, 0⟩, ⟨5, 1, .ro, 0⟩, ⟨6, 1, .ro, 0⟩, ⟨7, 1, .ro, 0⟩, ⟨8, 2, .ro, 0⟩, ⟨16, 8, .ro, 0⟩]⟩) ++
  (List.range 3).map (fun k => ⟨0x48 + 0x20 * k, false, .P, false, [⟨0, 32, .ro, 0⟩]⟩) ++
  (List.range 3).map (fun k => ⟨0x4c + 0x20 * k, false, .P, true, [⟨0, 32, .ro, 0⟩]⟩)

/-- The TRN2 registers table. (part 0) -/
def trn2Regs0 : List RegDesc := [
  ⟨0x40, false, .P, false, [⟨0, 1, .sc, 0⟩, ⟨1, 1, .sc, 0⟩]⟩,
  ⟨0x44, false, .P, false, [⟨0, 1, .ro, 0⟩, ⟨1, 1, .w1c, 0⟩]⟩,
  ⟨0x58, false, .K, false, [⟨0, 24, .rw, 0x5f5e1⟩]⟩,
  ⟨0x5c, false, .K, false, [⟨0, 1, .rw, 0⟩, ⟨1, 1, .rw, 0⟩, ⟨2, 1, .rw, 0⟩, ⟨4, 12, .rw, 0x190⟩, ⟨16, 12, .rw, 0x190⟩]⟩,
  ⟨0x60, false, .K, false, [⟨0, 20, .rw, 0x186a0⟩]⟩,
  ⟨0x64, false, .K, false, [⟨0, 16, .rw, 4⟩]⟩,
  ⟨0x68, false, .P, false, [⟨0, 24, .ro, 0⟩]⟩,
  ⟨0x6c, false, .P, true, [⟨0, 32, .ro, 0⟩]⟩]

/-- The TRN2 registers table. -/
def trn2Regs : List RegDesc :=
  trn2Regs0 ++
  (List.range 4).map (fun k => ⟨0x48 + 0x4 * k, false, .K, false, [⟨0, 12, .rw, 0x30⟩, ⟨12, 1, .rw, 0⟩]⟩)

/-- The TOD registers table. (part 0) -/
def todRegs0 : List RegDesc := [
  ⟨0x40, false, .P, false, [⟨0, 1, .sc, 0⟩, ⟨1, 1, .sc, 0⟩, ⟨2, 1, .sc, 0⟩]⟩,
  ⟨0x44, false, .K, false, [⟨0, 1, .rw, 0⟩]⟩,
  ⟨0x48, false, .P, false, [⟨0, 1, .ro, 0⟩, ⟨1, 1, .ro, 0⟩, ⟨2, 1, .w1c, 0⟩, ⟨3, 1, .w1c, 0⟩]⟩,
  ⟨0x4c, false, .P, false, [⟨0, 30, .ro, 0⟩]⟩,
  ⟨0x50, false, .P, false, [⟨0, 30, .ro, 0⟩]⟩,
  ⟨0x54, true, .P, false, [⟨0, 48, .ro, 0⟩]⟩,
  ⟨0x5c, true, .P, false, [⟨0, 48, .rw, 0⟩]⟩,
  ⟨0x64, false, .P, false, [⟨0, 32, .ro, 0⟩]⟩,
  ⟨0x68, false, .K, false, [⟨0, 32, .rw, 0⟩]⟩,
  ⟨0x6c, false, .P, true, [⟨0, 32, .ro, 0⟩]⟩]

/-- The TOD registers table. -/
def todRegs : List RegDesc :=
  todRegs0 ++
  (List.range 2).map (fun k => ⟨0x70 + 0x10 * k, true, .P, false, [⟨0, 64, .rw, 0⟩]⟩) ++
  (List.range 2).map (fun k => ⟨0x78 + 0x10 * k, false, .P, false, [⟨0, 1, .rw, 0⟩, ⟨1, 1, .w1c, 0⟩]⟩)

/-- The TUNE registers table. -/
def tuneRegs : List RegDesc := [
  ⟨0x40, false, .K, false, [⟨0, 2, .rw, 0⟩, ⟨4, 1, .rw, 0⟩, ⟨5, 1, .rw, 0⟩]⟩,
  ⟨0x44, false, .P, false, [⟨0, 1, .ro, 1⟩, ⟨1, 1, .ro, 0⟩, ⟨2, 1, .ro, 0⟩, ⟨3, 1, .ro, 0⟩, ⟨4, 4, .ro, 0⟩, ⟨8, 1, .w1c, 0⟩]⟩,
  ⟨0x48, false, .P, false, [⟨0, 24, .rw, 0⟩]⟩,
  ⟨0x4c, false, .P, false, [⟨0, 24, .ro, 0⟩]⟩,
  ⟨0x50, false, .K, false, [⟨0, 16, .rw, 0x3e8⟩]⟩,
  ⟨0x54, false, .P, true, [⟨0, 32, .ro, 0⟩]⟩]

/-- The SLK registers table. (part 0) -/
def slkRegs0 : List RegDesc := [
  ⟨0x40, false, .H, false, [⟨0, 1, .sc, 0⟩, ⟨2, 1, .rw, 0⟩, ⟨3, 1, .rw, 0⟩, ⟨4, 1, .sc, 0⟩, ⟨5, 1, .sc, 0⟩]⟩,
  ⟨0x44, false, .H, false, [⟨0, 4, .ro, 0⟩, ⟨4, 3, .ro, 0⟩, ⟨7, 1, .ro, 0⟩, ⟨8, 1, .ro, 0⟩, ⟨9, 1, .ro, 0⟩, ⟨10, 1, .ro, 0⟩, ⟨11, 1, .ro, 0⟩, ⟨12, 4, .ro, 0⟩, ⟨16, 6, .ro, 0⟩, ⟨22, 1, .ro, 0⟩]⟩,
  ⟨0x48, false, .H, false, [⟨0, 5, .rw, 0⟩, ⟨8, 5, .rw, 0⟩, ⟨16, 7, .ro, 0x40⟩]⟩,
  ⟨0x4c, false, .H, false, [⟨0, 5, .ro, 0⟩, ⟨8, 5, .ro, 0⟩, ⟨16, 7, .ro, 0⟩]⟩,
  ⟨0x50, false, .K, false, [⟨0, 5, .rw, 0⟩, ⟨8, 5, .rw, 0⟩, ⟨16, 5, .rw, 0⟩, ⟨24, 5, .rw, 0⟩, ⟨31, 1, .rw, 0⟩]⟩,
  ⟨0x54, true, .P, true, [⟨0, 48, .ro, 0⟩]⟩,
  ⟨0x5c, true, .P, true, [⟨0, 48, .ro, 0⟩]⟩,
  ⟨0x64, true, .P, true, [⟨0, 48, .ro, 0⟩]⟩,
  ⟨0x6c, false, .H, false, [⟨0, 4, .rc, 0⟩]⟩,
  ⟨0x70, false, .H, false, [⟨0, 16, .rw, 0x10⟩, ⟨16, 16, .rw, 1⟩]⟩,
  ⟨0x74, false, .P, true, [⟨0, 16, .ro, 0⟩, ⟨16, 16, .ro, 0⟩]⟩,
  ⟨0x78, false, .H, false, [⟨0, 24, .ro, 0⟩]⟩]

/-- The SLK registers table. (part 1) -/
def slkRegs1 : List RegDesc := [
  ⟨0x7c, false, .H, false, [⟨0, 2, .rw, 0⟩, ⟨2, 1, .rw, 0⟩]⟩,
  ⟨0x80, false, .H, false, [⟨0, 32, .rc, 0⟩]⟩]

/-- The SLK registers table. -/
def slkRegs : List RegDesc :=
  slkRegs0 ++
  slkRegs1

/-- The LNK registers table. (part 0) -/
def lnkRegs0 : List RegDesc := [
  ⟨0x40, false, .H, false, [⟨0, 1, .sc, 0⟩, ⟨1, 1, .sc, 0⟩, ⟨2, 1, .sc, 0⟩, ⟨3, 1, .sc, 0⟩]⟩,
  ⟨0x44, false, .F, false, [⟨0, 6, .rw, 0⟩, ⟨8, 3, .rw, 4⟩, ⟨12, 3, .rw, 4⟩, ⟨16, 1, .rw, 0⟩, ⟨17, 1, .rw, 0⟩, ⟨20, 8, .rw, 0x60⟩]⟩,
  ⟨0x48, false, .H, false, [⟨0, 4, .ro, 0⟩, ⟨4, 3, .ro, 0⟩, ⟨8, 3, .ro, 0⟩, ⟨12, 6, .ro, 0⟩, ⟨24, 1, .w1c, 0⟩, ⟨25, 1, .w1c, 0⟩, ⟨26, 1, .ro, 0⟩, ⟨27, 1, .w1c, 0⟩]⟩,
  ⟨0x4c, false, .H, false, [⟨0, 16, .ro, 0⟩, ⟨16, 6, .ro, 0⟩]⟩,
  ⟨0x50, false, .H, false, [⟨0, 32, .ro, 0⟩]⟩,
  ⟨0x54, false, .H, false, [⟨0, 3, .ro, 0⟩, ⟨3, 1, .ro, 0⟩, ⟨8, 8, .ro, 0⟩, ⟨16, 8, .ro, 0⟩]⟩,
  ⟨0x58, false, .P, true, [⟨0, 32, .ro, 0⟩]⟩,
  ⟨0x5c, false, .P, true, [⟨0, 32, .ro, 0⟩]⟩,
  ⟨0x60, false, .H, false, [⟨0, 8, .ro, 0⟩, ⟨8, 8, .rc, 0⟩, ⟨16, 8, .rc, 0⟩]⟩,
  ⟨0x64, false, .H, false, [⟨0, 32, .ro, 0⟩]⟩,
  ⟨0x68, false, .H, false, [⟨0, 3, .ro, 0⟩, ⟨3, 1, .ro, 0⟩]⟩,
  ⟨0x80, true, .P, true, [⟨0, 48, .ro, 0⟩]⟩]

/-- The LNK registers table. (part 1) -/
def lnkRegs1 : List RegDesc := [
  ⟨0x88, true, .P, true, [⟨0, 48, .ro, 0⟩]⟩,
  ⟨0x90, true, .P, true, [⟨0, 48, .ro, 0⟩]⟩,
  ⟨0x98, true, .P, true, [⟨0, 48, .ro, 0⟩]⟩,
  ⟨0xa0, true, .P, true, [⟨0, 48, .ro, 0⟩]⟩,
  ⟨0xa8, true, .P, true, [⟨0, 48, .ro, 0⟩]⟩,
  ⟨0xb0, true, .P, true, [⟨0, 48, .ro, 0⟩]⟩,
  ⟨0xb8, true, .P, true, [⟨0, 48, .ro, 0⟩]⟩,
  ⟨0xc0, true, .P, true, [⟨0, 48, .ro, 0⟩]⟩,
  ⟨0xc8, true, .P, true, [⟨0, 48, .ro, 0⟩]⟩,
  ⟨0xd0, true, .P, true, [⟨0, 48, .ro, 0⟩]⟩,
  ⟨0x120, false, .H, false, [⟨0, 12, .rw, 0⟩, ⟨16, 13, .rw, 0⟩]⟩,
  ⟨0x124, false, .H, false, [⟨0, 6, .rw, 0⟩, ⟨8, 7, .rw, 0⟩]⟩]

/-- The LNK registers table. (part 2) -/
def lnkRegs2 : List RegDesc := [
  ⟨0x128, false, .H, false, [⟨0, 12, .ro, 0⟩, ⟨16, 13, .ro, 0⟩]⟩,
  ⟨0x12c, false, .H, false, [⟨0, 6, .ro, 0⟩, ⟨8, 7, .ro, 0⟩]⟩]

/-- The LNK registers table. -/
def lnkRegs : List RegDesc :=
  lnkRegs0 ++
  lnkRegs1 ++
  lnkRegs2

/-- The ARR registers table. (part 0) -/
def arrRegs0 : List RegDesc := [
  ⟨0x40, false, .H, false, [⟨0, 1, .sc, 0⟩, ⟨1, 1, .sc, 0⟩, ⟨2, 1, .sc, 0⟩]⟩,
  ⟨0x44, false, .F, false, [⟨0, 4, .rw, 0xa⟩, ⟨8, 8, .rw, 0x10⟩, ⟨16, 8, .rw, 0x20⟩]⟩,
  ⟨0x48, false, .H, false, [⟨0, 1, .ro, 0⟩, ⟨1, 1, .ro, 0⟩, ⟨2, 1, .ro, 0⟩, ⟨3, 1, .w1c, 0⟩, ⟨4, 1, .w1c, 0⟩, ⟨5, 1, .ro, 0⟩]⟩,
  ⟨0x4c, true, .F, false, [⟨12, 36, .rw, 0⟩]⟩,
  ⟨0x54, true, .F, false, [⟨12, 36, .rw, 0⟩]⟩,
  ⟨0x5c, true, .H, false, [⟨0, 48, .ro, 0⟩]⟩,
  ⟨0x64, true, .H, false, [⟨0, 48, .rw, 0⟩]⟩,
  ⟨0x6c, false, .H, false, [⟨0, 17, .ro, 0x3bef⟩, ⟨31, 1, .ro, 0⟩]⟩,
  ⟨0x70, false, .H, false, [⟨0, 16, .rc, 0⟩, ⟨16, 16, .rc, 0⟩]⟩,
  ⟨0x80, true, .P, true, [⟨0, 48, .ro, 0⟩]⟩,
  ⟨0x88, true, .P, true, [⟨0, 48, .ro, 0⟩]⟩,
  ⟨0x90, true, .P, true, [⟨0, 48, .ro, 0⟩]⟩]

/-- The ARR registers table. (part 1) -/
def arrRegs1 : List RegDesc := [
  ⟨0x98, true, .P, true, [⟨0, 48, .ro, 0⟩]⟩,
  ⟨0xa0, true, .P, true, [⟨0, 48, .ro, 0⟩]⟩,
  ⟨0xa8, true, .P, true, [⟨0, 48, .ro, 0⟩]⟩,
  ⟨0xb0, true, .P, true, [⟨0, 48, .ro, 0⟩]⟩,
  ⟨0xb8, true, .P, true, [⟨0, 48, .ro, 0⟩]⟩,
  ⟨0xc0, true, .H, true, [⟨0, 48, .ro, 0⟩]⟩,
  ⟨0xc8, true, .P, true, [⟨0, 48, .ro, 0⟩]⟩,
  ⟨0xd0, true, .P, true, [⟨0, 48, .ro, 0⟩]⟩,
  ⟨0x120, false, .H, false, [⟨0, 13, .rw, 0⟩, ⟨13, 2, .rw, 0⟩, ⟨16, 13, .rw, 0⟩]⟩,
  ⟨0x124, false, .H, false, [⟨0, 13, .ro, 0⟩, ⟨13, 2, .ro, 0⟩, ⟨16, 13, .ro, 0⟩]⟩]

/-- The ARR registers table. -/
def arrRegs : List RegDesc :=
  arrRegs0 ++
  arrRegs1

/-- The DLY registers table. (part 0) -/
def dlyRegs0 : List RegDesc := [
  ⟨0x40, false, .H, false, [⟨0, 1, .rw, 0⟩, ⟨1, 1, .rw, 0⟩, ⟨8, 4, .rw, 6⟩]⟩,
  ⟨0x44, false, .H, false, [⟨0, 1, .ro, 0⟩, ⟨1, 1, .ro, 0⟩, ⟨8, 4, .ro, 6⟩]⟩,
  ⟨0x48, true, .H, false, [⟨0, 48, .rw, 0⟩]⟩,
  ⟨0x50, true, .H, false, [⟨0, 48, .ro, 0⟩]⟩,
  ⟨0x58, false, .H, false, [⟨0, 21, .rw, 0x10000⟩]⟩,
  ⟨0x5c, false, .H, false, [⟨0, 21, .ro, 0x10000⟩]⟩,
  ⟨0x60, true, .H, false, [⟨0, 64, .rw, 0⟩]⟩,
  ⟨0x68, true, .H, false, [⟨0, 64, .ro, 0⟩]⟩,
  ⟨0x70, false, .H, false, [⟨0, 1, .ro, 0⟩, ⟨1, 1, .w1c, 0⟩]⟩,
  ⟨0x74, true, .P, true, [⟨0, 48, .ro, 0⟩]⟩,
  ⟨0x7c, true, .P, true, [⟨0, 48, .ro, 0⟩]⟩,
  ⟨0x84, false, .H, false, [⟨0, 12, .rw, 0⟩]⟩]

/-- The DLY registers table. (part 1) -/
def dlyRegs1 : List RegDesc := [
  ⟨0x88, false, .H, false, [⟨0, 32, .ro, 0⟩]⟩,
  ⟨0x8c, false, .H, false, [⟨0, 24, .ro, 0⟩]⟩,
  ⟨0x90, false, .H, false, [⟨0, 32, .ro, 0⟩]⟩]

/-- The DLY registers table. -/
def dlyRegs : List RegDesc :=
  dlyRegs0 ++
  dlyRegs1

/-- The CHN0 registers table. -/
def chn0Regs : List RegDesc := [
  ⟨0x40, false, .H, false, [⟨0, 4, .rw, 2⟩, ⟨4, 3, .rw, 0⟩, ⟨7, 1, .rw, 0⟩, ⟨8, 5, .rw, 8⟩, ⟨13, 1, .rw, 0⟩, ⟨14, 1, .rw, 0⟩, ⟨15, 1, .rw, 0⟩, ⟨16, 1, .rw, 0⟩, ⟨17, 1, .rw, 0⟩, ⟨18, 1, .rw, 0⟩, ⟨20, 3, .rw, 3⟩]⟩,
  ⟨0x44, false, .H, false, [⟨0, 4, .ro, 2⟩, ⟨4, 3, .ro, 0⟩, ⟨7, 1, .ro, 0⟩, ⟨8, 5, .ro, 8⟩, ⟨13, 1, .ro, 0⟩, ⟨14, 1, .ro, 0⟩, ⟨15, 1, .ro, 0⟩, ⟨16, 1, .ro, 0⟩, ⟨17, 1, .ro, 0⟩, ⟨18, 1, .ro, 0⟩, ⟨20, 3, .ro, 3⟩]⟩,
  ⟨0x48, false, .H, false, [⟨0, 12, .rw, 0xfff⟩, ⟨16, 5, .rw, 0x11⟩, ⟨24, 5, .rw, 7⟩]⟩,
  ⟨0x4c, false, .H, false, [⟨0, 12, .ro, 0xfff⟩, ⟨16, 5, .ro, 0x11⟩, ⟨24, 5, .ro, 7⟩]⟩,
  ⟨0x50, false, .H, false, [⟨0, 32, .rw, 0⟩]⟩,
  ⟨0x54, false, .H, false, [⟨0, 32, .ro, 0⟩]⟩,
  ⟨0x58, true, .F, false, [⟨12, 36, .rw, 0⟩]⟩,
  ⟨0x60, true, .F, false, [⟨12, 36, .rw, 0⟩]⟩]

/-- The CHN1 registers table. -/
def chn1Regs : List RegDesc := [
  ⟨0x40, false, .H, false, [⟨0, 1, .ro, 0⟩, ⟨1, 1, .w1c, 0⟩, ⟨2, 1, .w1c, 0⟩, ⟨3, 1, .w1c, 0⟩, ⟨4, 1, .ro, 0⟩, ⟨5, 1, .ro, 0⟩]⟩,
  ⟨0x44, false, .H, false, [⟨0, 21, .ro, 0x1c⟩]⟩,
  ⟨0x48, false, .H, false, [⟨0, 17, .ro, 0x3bd3⟩, ⟨31, 1, .ro, 0⟩]⟩,
  ⟨0x4c, false, .H, false, [⟨0, 8, .ro, 0⟩, ⟨8, 8, .rc, 0⟩]⟩,
  ⟨0x50, true, .P, true, [⟨0, 48, .ro, 0⟩]⟩,
  ⟨0x58, true, .P, true, [⟨0, 48, .ro, 0⟩]⟩,
  ⟨0x60, true, .P, true, [⟨0, 48, .ro, 0⟩]⟩,
  ⟨0x68, true, .P, true, [⟨0, 48, .ro, 0⟩]⟩,
  ⟨0x70, true, .P, true, [⟨0, 48, .ro, 0⟩]⟩,
  ⟨0x78, true, .P, true, [⟨0, 48, .ro, 0⟩]⟩]

/-- The MERE registers table. (part 0) -/
def mereRegs0 : List RegDesc := [
  ⟨0x40, false, .H, false, [⟨0, 1, .sc, 0⟩]⟩,
  ⟨0x44, false, .H, false, [⟨0, 1, .ro, 0⟩, ⟨1, 1, .ro, 0⟩, ⟨2, 1, .w1c, 0⟩, ⟨3, 1, .w1c, 0⟩, ⟨4, 1, .ro, 0⟩, ⟨5, 1, .ro, 0⟩]⟩,
  ⟨0x48, false, .H, false, [⟨0, 16, .ro, 0⟩, ⟨16, 16, .rc, 0⟩]⟩,
  ⟨0x4c, false, .H, false, [⟨0, 32, .ro, 0⟩]⟩,
  ⟨0x50, false, .H, false, [⟨0, 32, .ro, 0⟩]⟩,
  ⟨0x54, false, .H, false, [⟨0, 16, .ro, 0⟩]⟩,
  ⟨0x58, false, .H, false, [⟨0, 16, .ro, 0⟩]⟩,
  ⟨0x5c, false, .H, true, [⟨0, 17, .ro, 0⟩]⟩,
  ⟨0x60, false, .H, false, [⟨0, 17, .rc, 0⟩]⟩,
  ⟨0x80, true, .P, true, [⟨0, 48, .ro, 0⟩]⟩,
  ⟨0x88, true, .P, true, [⟨0, 48, .ro, 0⟩]⟩,
  ⟨0x90, true, .P, true, [⟨0, 48, .ro, 0⟩]⟩]

/-- The MERE registers table. (part 1) -/
def mereRegs1 : List RegDesc := [
  ⟨0x98, true, .P, true, [⟨0, 48, .ro, 0⟩]⟩,
  ⟨0xa0, true, .P, true, [⟨0, 48, .ro, 0⟩]⟩,
  ⟨0xa8, true, .P, true, [⟨0, 48, .ro, 0⟩]⟩,
  ⟨0xb0, true, .P, true, [⟨0, 48, .ro, 0⟩]⟩,
  ⟨0xb8, true, .P, true, [⟨0, 48, .ro, 0⟩]⟩,
  ⟨0xc0, true, .H, true, [⟨0, 48, .ro, 0⟩]⟩,
  ⟨0xc8, true, .P, true, [⟨0, 48, .ro, 0⟩]⟩,
  ⟨0xd0, true, .P, true, [⟨0, 48, .ro, 0⟩]⟩,
  ⟨0xd8, true, .P, true, [⟨0, 48, .ro, 0⟩]⟩,
  ⟨0xe0, true, .P, true, [⟨0, 48, .ro, 0⟩]⟩,
  ⟨0xe8, true, .P, true, [⟨0, 48, .ro, 0⟩]⟩,
  ⟨0x120, true, .H, false, [⟨12, 36, .rw, 0⟩]⟩]

/-- The MERE registers table. (part 2) -/
def mereRegs2 : List RegDesc := [
  ⟨0x128, true, .H, false, [⟨12, 36, .rw, 0⟩]⟩,
  ⟨0x130, true, .H, false, [⟨12, 36, .rw, 0⟩]⟩,
  ⟨0x138, true, .H, false, [⟨12, 36, .ro, 0⟩]⟩,
  ⟨0x140, true, .H, false, [⟨12, 36, .ro, 0⟩]⟩,
  ⟨0x148, true, .H, false, [⟨12, 36, .ro, 0⟩]⟩]

/-- The MERE registers table. -/
def mereRegs : List RegDesc :=
  mereRegs0 ++
  mereRegs1 ++
  mereRegs2

/-- The ENG registers table. (part 0) -/
def engRegs0 : List RegDesc := [
  ⟨0x40, false, .B, false, [⟨0, 1, .sc, 0⟩]⟩,
  ⟨0x44, false, .B, false, [⟨0, 4, .ro, 0⟩, ⟨4, 1, .ro, 0⟩, ⟨5, 1, .ro, 0⟩, ⟨6, 1, .w1c, 0⟩, ⟨7, 1, .w1c, 0⟩, ⟨8, 1, .w1c, 0⟩, ⟨9, 1, .ro, 0⟩]⟩,
  ⟨0x48, false, .H, false, [⟨0, 6, .ro, 0⟩, ⟨6, 1, .ro, 0⟩, ⟨7, 1, .ro, 0⟩, ⟨8, 4, .ro, 0⟩, ⟨12, 3, .ro, 0⟩]⟩,
  ⟨0x4c, false, .B, false, [⟨0, 32, .ro, 0⟩]⟩,
  ⟨0x50, false, .B, false, [⟨0, 24, .ro, 0⟩, ⟨24, 4, .ro, 0⟩]⟩,
  ⟨0x54, false, .B, false, [⟨0, 8, .ro, 0⟩, ⟨8, 17, .ro, 0⟩]⟩,
  ⟨0x58, false, .B, false, [⟨0, 32, .ro, 0⟩]⟩,
  ⟨0x5c, false, .B, false, [⟨0, 6, .ro, 0⟩]⟩,
  ⟨0x60, false, .P, true, [⟨0, 16, .ro, 0⟩, ⟨16, 16, .ro, 0⟩]⟩,
  ⟨0x64, false, .B, false, [⟨0, 1, .rwl, 0⟩, ⟨1, 1, .rwl, 0⟩, ⟨2, 1, .rwl, 0⟩, ⟨3, 5, .rwl, 0⟩, ⟨8, 5, .rwl, 0⟩, ⟨13, 7, .rwl, 0⟩, ⟨20, 6, .rwl, 0⟩]⟩,
  ⟨0x80, true, .P, true, [⟨0, 48, .ro, 0⟩]⟩,
  ⟨0x88, true, .P, true, [⟨0, 48, .ro, 0⟩]⟩]

/-- The ENG registers table. (part 1) -/
def engRegs1 : List RegDesc := [
  ⟨0x90, true, .P, true, [⟨0, 48, .ro, 0⟩]⟩,
  ⟨0x98, true, .P, true, [⟨0, 48, .ro, 0⟩]⟩,
  ⟨0xa0, true, .P, true, [⟨0, 48, .ro, 0⟩]⟩]

/-- The ENG registers table. -/
def engRegs : List RegDesc :=
  engRegs0 ++
  engRegs1

/-- The GSV registers table. (part 0) -/
def gsvRegs0 : List RegDesc := [
  ⟨0x40, false, .H, false, [⟨0, 4, .rw, 0⟩, ⟨4, 1, .sc, 0⟩, ⟨5, 1, .sc, 0⟩, ⟨6, 1, .sc, 0⟩]⟩,
  ⟨0x44, false, .H, false, [⟨0, 1, .rw, 1⟩, ⟨1, 1, .rw, 1⟩]⟩,
  ⟨0x48, false, .H, false, [⟨0, 16, .rw, 0x800⟩, ⟨16, 16, .rw, 0x1000⟩]⟩,
  ⟨0x4c, false, .H, false, [⟨0, 16, .rw, 0x258⟩, ⟨16, 8, .rw, 0x10⟩]⟩,
  ⟨0x50, false, .H, false, [⟨0, 4, .ro, 0xf⟩, ⟨4, 1, .ro, 1⟩, ⟨5, 1, .ro, 0⟩, ⟨6, 1, .ro, 0⟩, ⟨7, 1, .ro, 0⟩, ⟨8, 1, .w1c, 0⟩, ⟨9, 1, .w1c, 0⟩, ⟨16, 4, .ro, 9⟩]⟩,
  ⟨0x54, false, .H, false, [⟨0, 4, .ro, 0⟩, ⟨4, 4, .ro, 1⟩, ⟨8, 4, .ro, 2⟩, ⟨12, 4, .ro, 3⟩, ⟨16, 4, .ro, 4⟩, ⟨20, 4, .ro, 5⟩, ⟨24, 4, .ro, 6⟩, ⟨28, 4, .ro, 7⟩]⟩,
  ⟨0xc0, true, .P, true, [⟨0, 48, .ro, 0⟩]⟩,
  ⟨0xc8, true, .P, true, [⟨0, 48, .ro, 0⟩]⟩,
  ⟨0xd0, true, .P, true, [⟨0, 48, .ro, 0⟩]⟩,
  ⟨0xd8, true, .P, true, [⟨0, 48, .ro, 0⟩]⟩,
  ⟨0xe0, true, .P, true, [⟨0, 48, .ro, 0⟩]⟩,
  ⟨0xe8, true, .P, true, [⟨0, 48, .ro, 0⟩]⟩]

/-- The GSV registers table. -/
def gsvRegs : List RegDesc :=
  gsvRegs0 ++
  (List.range 9).map (fun k => ⟨0x60 + 0x4 * k, false, .H, false, [⟨0, 4, .ro, 0⟩, ⟨4, 8, .ro, 0⟩, ⟨12, 2, .ro, 0⟩, ⟨15, 1, .ro, 0⟩]⟩) ++
  (List.range 9).map (fun k => ⟨0x84 + 0x4 * k, false, .K, false, [⟨0, 16, .ro, 0⟩, ⟨16, 8, .ro, 0⟩, ⟨24, 1, .ro, 0⟩]⟩)

/-- The XS registers table. (part 0) -/
def xsRegs0 : List RegDesc := [
  ⟨0x40, false, .H, false, [⟨0, 1, .sc, 0⟩]⟩,
  ⟨0x44, false, .H, false, [⟨0, 1, .ro, 0⟩, ⟨1, 1, .ro, 0⟩, ⟨2, 1, .ro, 0⟩, ⟨3, 1, .w1c, 0⟩, ⟨4, 1, .w1c, 0⟩]⟩,
  ⟨0x48, false, .H, false, [⟨0, 7, .rw, 0⟩, ⟨8, 7, .rw, 0⟩, ⟨16, 1, .rw, 0⟩]⟩,
  ⟨0x4c, false, .H, false, [⟨0, 7, .ro, 0⟩, ⟨8, 7, .ro, 0⟩, ⟨16, 1, .ro, 0⟩]⟩,
  ⟨0x50, false, .H, false, [⟨0, 17, .rw, 0x1000⟩]⟩,
  ⟨0x54, false, .H, false, [⟨0, 17, .ro, 0x1000⟩]⟩,
  ⟨0x58, false, .H, false, [⟨0, 13, .rw, 0⟩]⟩,
  ⟨0x5c, false, .H, false, [⟨0, 13, .ro, 0⟩]⟩,
  ⟨0x60, false, .H, false, [⟨0, 3, .ro, 0⟩, ⟨8, 5, .ro, 0⟩, ⟨16, 8, .ro, 0⟩, ⟨24, 5, .ro, 0⟩]⟩,
  ⟨0x64, false, .H, false, [⟨0, 3, .ro, 0⟩, ⟨8, 5, .ro, 0⟩, ⟨16, 8, .ro, 0⟩, ⟨24, 5, .ro, 0⟩]⟩,
  ⟨0x68, false, .H, false, [⟨0, 12, .ro, 0⟩, ⟨16, 5, .ro, 0⟩, ⟨24, 5, .ro, 0⟩]⟩,
  ⟨0x6c, false, .H, false, [⟨0, 12, .ro, 0⟩, ⟨16, 5, .ro, 0⟩, ⟨24, 5, .ro, 0⟩]⟩]

/-- The XS registers table. (part 1) -/
def xsRegs1 : List RegDesc := [
  ⟨0x70, false, .H, false, [⟨0, 20, .ro, 0⟩]⟩,
  ⟨0x74, false, .H, false, [⟨0, 20, .ro, 0⟩]⟩,
  ⟨0x78, false, .H, false, [⟨0, 32, .ro, 0⟩]⟩,
  ⟨0x7c, false, .H, false, [⟨0, 32, .ro, 0⟩]⟩,
  ⟨0x80, false, .H, false, [⟨0, 32, .ro, 0⟩]⟩,
  ⟨0x84, false, .H, false, [⟨0, 32, .ro, 0⟩]⟩,
  ⟨0x88, false, .H, false, [⟨0, 32, .ro, 0⟩]⟩,
  ⟨0x8c, false, .H, false, [⟨0, 32, .ro, 0⟩]⟩,
  ⟨0x90, false, .H, false, [⟨0, 24, .ro, 0⟩, ⟨24, 4, .ro, 0⟩]⟩,
  ⟨0x94, false, .H, false, [⟨0, 8, .ro, 0⟩]⟩,
  ⟨0x98, true, .H, false, [⟨0, 48, .ro, 0⟩]⟩,
  ⟨0xc0, true, .P, true, [⟨0, 48, .ro, 0⟩]⟩]

/-- The XS registers table. (part 2) -/
def xsRegs2 : List RegDesc := [
  ⟨0xc8, true, .P, true, [⟨0, 48, .ro, 0⟩]⟩,
  ⟨0xd0, true, .P, true, [⟨0, 48, .ro, 0⟩]⟩,
  ⟨0xd8, true, .P, true, [⟨0, 48, .ro, 0⟩]⟩]

/-- The XS registers table. -/
def xsRegs : List RegDesc :=
  xsRegs0 ++
  xsRegs1 ++
  xsRegs2

/-- The BM registers table. (part 0) -/
def bmRegs0 : List RegDesc := [
  ⟨0x40, false, .H, false, [⟨0, 1, .ro, 0⟩, ⟨1, 1, .ro, 0⟩, ⟨2, 1, .ro, 0⟩, ⟨3, 1, .w1c, 0⟩, ⟨4, 1, .w1c, 0⟩, ⟨5, 1, .w1c, 0⟩, ⟨6, 1, .ro, 0⟩]⟩,
  ⟨0x44, false, .H, false, [⟨0, 11, .rw, 0⟩, ⟨12, 1, .rw, 0⟩, ⟨13, 2, .rw, 0⟩, ⟨16, 2, .rw, 1⟩, ⟨18, 1, .rw, 0⟩, ⟨19, 1, .rw, 0⟩]⟩,
  ⟨0x48, false, .H, false, [⟨0, 11, .ro, 0⟩, ⟨12, 1, .ro, 0⟩, ⟨13, 2, .ro, 0⟩, ⟨16, 2, .ro, 1⟩, ⟨18, 1, .ro, 0⟩, ⟨19, 1, .ro, 0⟩]⟩,
  ⟨0x4c, false, .H, false, [⟨0, 13, .rw, 0⟩]⟩,
  ⟨0x50, false, .H, false, [⟨0, 13, .ro, 0⟩]⟩,
  ⟨0x54, false, .H, false, [⟨0, 24, .rw, 0⟩]⟩,
  ⟨0x58, false, .H, false, [⟨0, 24, .ro, 0⟩]⟩,
  ⟨0x5c, false, .H, false, [⟨0, 24, .rw, 0⟩]⟩,
  ⟨0x60, false, .H, false, [⟨0, 24, .ro, 0⟩]⟩,
  ⟨0x64, false, .H, false, [⟨0, 16, .rw, 8⟩]⟩,
  ⟨0x68, false, .H, false, [⟨0, 16, .ro, 8⟩]⟩,
  ⟨0x6c, true, .F, false, [⟨12, 36, .rw, 0⟩]⟩]

/-- The BM registers table. (part 1) -/
def bmRegs1 : List RegDesc := [
  ⟨0x74, true, .F, false, [⟨12, 36, .rw, 0⟩]⟩,
  ⟨0x7c, true, .H, false, [⟨12, 36, .rw, 0⟩]⟩,
  ⟨0x84, true, .H, false, [⟨12, 36, .rw, 0⟩]⟩,
  ⟨0x8c, true, .H, false, [⟨12, 36, .ro, 0⟩]⟩,
  ⟨0x94, true, .H, false, [⟨12, 36, .ro, 0⟩]⟩,
  ⟨0x9c, true, .H, false, [⟨12, 36, .rw, 0⟩]⟩,
  ⟨0xa4, true, .H, false, [⟨12, 36, .rw, 0⟩]⟩,
  ⟨0xac, true, .H, false, [⟨12, 36, .ro, 0⟩]⟩,
  ⟨0xb4, true, .H, false, [⟨12, 36, .ro, 0⟩]⟩,
  ⟨0xbc, false, .H, false, [⟨0, 32, .rw, 0⟩]⟩,
  ⟨0xc0, false, .H, false, [⟨0, 32, .ro, 0⟩]⟩,
  ⟨0xc4, false, .H, false, [⟨0, 10, .ro, 0⟩, ⟨16, 5, .ro, 0⟩, ⟨24, 6, .ro, 0⟩]⟩]

/-- The BM registers table. (part 2) -/
def bmRegs2 : List RegDesc := [
  ⟨0xc8, false, .H, false, [⟨0, 16, .ro, 0⟩]⟩,
  ⟨0xd0, true, .P, true, [⟨0, 48, .ro, 0⟩]⟩,
  ⟨0xd8, true, .P, true, [⟨0, 48, .ro, 0⟩]⟩,
  ⟨0xe0, true, .P, true, [⟨0, 48, .ro, 0⟩]⟩,
  ⟨0xe8, true, .P, true, [⟨0, 48, .ro, 0⟩]⟩,
  ⟨0xf0, true, .P, true, [⟨0, 48, .ro, 0⟩]⟩,
  ⟨0xf8, true, .P, true, [⟨0, 48, .ro, 0⟩]⟩,
  ⟨0x100, true, .P, true, [⟨0, 48, .ro, 0⟩]⟩,
  ⟨0x108, true, .P, true, [⟨0, 48, .ro, 0⟩]⟩,
  ⟨0x110, true, .P, true, [⟨0, 48, .ro, 0⟩]⟩,
  ⟨0x118, true, .P, true, [⟨0, 48, .ro, 0⟩]⟩,
  ⟨0x120, true, .P, true, [⟨0, 48, .ro, 0⟩]⟩]

/-- The BM registers table. -/
def bmRegs : List RegDesc :=
  bmRegs0 ++
  bmRegs1 ++
  bmRegs2

/-- The BAS registers table. (part 0) -/
def basRegs0 : List RegDesc := [
  ⟨0x40, false, .H, false, [⟨0, 1, .sc, 0⟩]⟩,
  ⟨0x44, false, .H, false, [⟨0, 1, .ro, 0⟩, ⟨1, 1, .ro, 0⟩, ⟨2, 1, .ro, 0⟩, ⟨3, 1, .ro, 0⟩, ⟨4, 1, .w1c, 0⟩, ⟨5, 1, .w1c, 0⟩, ⟨6, 1, .w1c, 0⟩, ⟨7, 1, .ro, 0⟩, ⟨8, 1, .ro, 0⟩]⟩,
  ⟨0x48, false, .H, false, [⟨0, 2, .rw, 0⟩, ⟨2, 1, .rw, 0⟩, ⟨3, 1, .rw, 0⟩]⟩,
  ⟨0x4c, false, .H, false, [⟨0, 2, .ro, 0⟩, ⟨2, 1, .ro, 0⟩, ⟨3, 1, .ro, 0⟩]⟩,
  ⟨0x50, false, .H, false, [⟨0, 24, .rw, 1⟩]⟩,
  ⟨0x54, false, .H, false, [⟨0, 24, .ro, 1⟩]⟩,
  ⟨0x58, true, .H, false, [⟨12, 36, .rw, 0⟩]⟩,
  ⟨0x60, true, .H, false, [⟨12, 36, .rw, 0⟩]⟩,
  ⟨0x68, true, .H, false, [⟨12, 36, .ro, 0⟩]⟩,
  ⟨0x70, true, .H, false, [⟨12, 36, .ro, 0⟩]⟩,
  ⟨0x78, true, .F, false, [⟨12, 36, .rw, 0⟩]⟩,
  ⟨0x80, true, .F, false, [⟨12, 36, .rw, 0⟩]⟩]

/-- The BAS registers table. (part 1) -/
def basRegs1 : List RegDesc := [
  ⟨0x88, true, .H, false, [⟨0, 48, .ro, 0⟩]⟩,
  ⟨0x90, true, .H, false, [⟨0, 48, .rw, 0⟩]⟩,
  ⟨0x98, false, .H, false, [⟨0, 32, .ro, 0⟩]⟩,
  ⟨0x9c, false, .H, false, [⟨0, 24, .ro, 0⟩, ⟨31, 1, .ro, 0⟩]⟩,
  ⟨0xa0, false, .H, false, [⟨0, 32, .ro, 0⟩]⟩,
  ⟨0xa4, false, .H, false, [⟨0, 24, .ro, 0⟩]⟩,
  ⟨0xa8, false, .H, false, [⟨0, 24, .rc, 0⟩]⟩,
  ⟨0xac, false, .H, false, [⟨0, 7, .ro, 0⟩]⟩,
  ⟨0xb0, false, .H, false, [⟨0, 32, .ro, 0⟩]⟩,
  ⟨0xb4, false, .H, false, [⟨0, 24, .ro, 1⟩]⟩,
  ⟨0xc0, true, .P, true, [⟨0, 48, .ro, 0⟩]⟩,
  ⟨0xc8, true, .P, true, [⟨0, 48, .ro, 0⟩]⟩]

/-- The BAS registers table. (part 2) -/
def basRegs2 : List RegDesc := [
  ⟨0xd0, true, .H, true, [⟨0, 48, .ro, 0⟩]⟩,
  ⟨0xd8, true, .P, true, [⟨0, 48, .ro, 0⟩]⟩,
  ⟨0xe0, true, .P, true, [⟨0, 48, .ro, 0⟩]⟩,
  ⟨0xe8, true, .P, true, [⟨0, 48, .ro, 0⟩]⟩,
  ⟨0xf0, true, .P, true, [⟨0, 48, .ro, 0⟩]⟩,
  ⟨0xf8, true, .P, true, [⟨0, 48, .ro, 0⟩]⟩,
  ⟨0x100, true, .P, true, [⟨0, 48, .ro, 0⟩]⟩,
  ⟨0x108, true, .P, true, [⟨0, 48, .ro, 0⟩]⟩,
  ⟨0x110, true, .H, true, [⟨0, 48, .ro, 0⟩]⟩,
  ⟨0x118, true, .P, true, [⟨0, 48, .ro, 0⟩]⟩,
  ⟨0x120, true, .P, true, [⟨0, 48, .ro, 0⟩]⟩,
  ⟨0x128, true, .P, true, [⟨0, 48, .ro, 0⟩]⟩]

/-- The BAS registers table. (part 3) -/
def basRegs3 : List RegDesc := [
  ⟨0x130, true, .P, true, [⟨0, 48, .ro, 0⟩]⟩,
  ⟨0x138, true, .P, true, [⟨0, 48, .ro, 0⟩]⟩,
  ⟨0x140, true, .P, true, [⟨0, 48, .ro, 0⟩]⟩,
  ⟨0x148, true, .P, true, [⟨0, 48, .ro, 0⟩]⟩,
  ⟨0x150, true, .P, true, [⟨0, 48, .ro, 0⟩]⟩,
  ⟨0x158, true, .P, true, [⟨0, 48, .ro, 0⟩]⟩]

/-- The BAS registers table. -/
def basRegs : List RegDesc :=
  basRegs0 ++
  basRegs1 ++
  basRegs2 ++
  basRegs3

/-- The PK registers table. -/
def pkRegs : List RegDesc := [
  ⟨0x40, false, .H, false, [⟨0, 5, .rw, 8⟩, ⟨8, 2, .rw, 0⟩]⟩,
  ⟨0x44, false, .H, false, [⟨0, 5, .ro, 8⟩, ⟨8, 2, .ro, 0⟩]⟩,
  ⟨0x48, false, .H, false, [⟨0, 32, .rw, 0⟩]⟩,
  ⟨0x4c, false, .H, false, [⟨0, 32, .ro, 0⟩]⟩,
  ⟨0x50, false, .H, false, [⟨0, 32, .ro, 0⟩]⟩,
  ⟨0x54, false, .H, false, [⟨0, 32, .ro, 0⟩]⟩,
  ⟨0x60, true, .P, true, [⟨0, 48, .ro, 0⟩]⟩,
  ⟨0x68, true, .P, true, [⟨0, 48, .ro, 0⟩]⟩,
  ⟨0x70, true, .P, true, [⟨0, 48, .ro, 0⟩]⟩]

/-- The MC registers table. (part 0) -/
def mcRegs0 : List RegDesc := [
  ⟨0x40, false, .H, false, [⟨0, 3, .rw, 0⟩, ⟨3, 1, .sc, 0⟩, ⟨4, 1, .sc, 0⟩]⟩,
  ⟨0x44, false, .P, false, [⟨0, 8, .ro, 0⟩, ⟨8, 8, .ro, 0⟩, ⟨16, 8, .ro, 0⟩, ⟨24, 1, .ro, 0⟩, ⟨25, 1, .w1c, 0⟩]⟩,
  ⟨0x48, false, .H, false, [⟨0, 8, .ro, 0⟩, ⟨8, 2, .ro, 0⟩, ⟨10, 1, .ro, 0⟩]⟩,
  ⟨0x4c, false, .B, false, [⟨0, 1, .rwl, 0⟩, ⟨1, 1, .rwl, 0⟩, ⟨2, 6, .rwl, 0⟩, ⟨8, 3, .rwl, 0⟩, ⟨16, 8, .rwl, 0⟩]⟩,
  ⟨0x50, false, .H, false, [⟨0, 5, .ro, 0⟩, ⟨8, 1, .w1c, 0⟩]⟩,
  ⟨0x54, false, .H, false, [⟨0, 4, .ro, 0⟩, ⟨4, 3, .ro, 0⟩, ⟨8, 4, .ro, 0⟩, ⟨12, 4, .ro, 0⟩, ⟨16, 6, .ro, 0⟩]⟩,
  ⟨0x58, false, .H, false, [⟨0, 16, .ro, 0⟩, ⟨16, 6, .ro, 0⟩]⟩,
  ⟨0x5c, false, .H, false, [⟨0, 32, .ro, 0⟩]⟩,
  ⟨0x60, false, .H, false, [⟨0, 1, .wo, 0⟩]⟩,
  ⟨0x80, true, .P, true, [⟨0, 48, .ro, 0⟩]⟩,
  ⟨0x88, true, .P, true, [⟨0, 48, .ro, 0⟩]⟩,
  ⟨0x90, true, .P, true, [⟨0, 48, .ro, 0⟩]⟩]

/-- The MC registers table. (part 1) -/
def mcRegs1 : List RegDesc := [
  ⟨0x98, true, .P, true, [⟨0, 48, .ro, 0⟩]⟩,
  ⟨0xa0, true, .P, true, [⟨0, 48, .ro, 0⟩]⟩,
  ⟨0xa8, true, .P, true, [⟨0, 48, .ro, 0⟩]⟩,
  ⟨0xb0, true, .P, true, [⟨0, 48, .ro, 0⟩]⟩,
  ⟨0xb8, true, .P, true, [⟨0, 48, .ro, 0⟩]⟩,
  ⟨0xc0, true, .P, true, [⟨0, 48, .ro, 0⟩]⟩]

/-- The MC registers table. -/
def mcRegs : List RegDesc :=
  mcRegs0 ++
  mcRegs1

/-- The MAP registers table. (part 0) -/
def mapRegs0 : List RegDesc := [
  ⟨0x40, false, .H, false, [⟨0, 1, .sc, 0⟩, ⟨1, 1, .sc, 0⟩, ⟨4, 3, .rw, 0⟩]⟩,
  ⟨0x44, false, .F, false, [⟨1, 1, .rw, 1⟩, ⟨8, 8, .rw, 0xa⟩]⟩,
  ⟨0x48, false, .P, true, [⟨0, 7, .ro, 0⟩, ⟨8, 7, .ro, 0⟩, ⟨15, 1, .ro, 0⟩, ⟨16, 1, .ro, 0⟩, ⟨17, 1, .ro, 0⟩, ⟨18, 2, .ro, 0⟩, ⟨20, 1, .w1c, 0⟩, ⟨21, 1, .ro, 0⟩]⟩,
  ⟨0x4c, true, .P, false, [⟨0, 64, .ro, 0⟩]⟩,
  ⟨0x54, false, .H, false, [⟨0, 21, .ro, 0⟩]⟩,
  ⟨0x58, false, .K, false, [⟨0, 1, .rw, 0⟩]⟩]

/-- The registers of region 7 (R284): read-only, of class N. -/
def mapRegs1 : List RegDesc := [
  ⟨0xf0, true, .N, false, [⟨26, 14, .ro, 0⟩]⟩,
  ⟨0xf8, false, .N, false, [⟨0, 12, .ro, 0⟩, ⟨16, 12, .ro, 64⟩]⟩,
  ⟨0xfc, false, .N, false, [⟨0, 2, .ro, 0⟩, ⟨2, 1, .ro, 1⟩, ⟨3, 1, .ro, 1⟩, ⟨8, 6, .ro, 0⟩, ⟨16, 1, .ro, 0⟩]⟩]

/-- The MAP registers table. -/
def mapRegs : List RegDesc :=
  mapRegs0 ++
  (List.range 7).map (fun k => ⟨0x80 + 0x10 * k, true, .P, false, [⟨26, 14, .rw, 0⟩]⟩) ++
  (List.range 7).map (fun k => ⟨0x88 + 0x10 * k, false, .P, false, [⟨0, 12, .rw, 0⟩, ⟨16, 12, .rw, 0⟩]⟩) ++
  (List.range 7).map (fun k => ⟨0x8c + 0x10 * k, false, .P, false, [⟨0, 2, .rw, 0⟩, ⟨2, 1, .rw, 0⟩, ⟨3, 1, .rw, 0⟩, ⟨8, 6, .rw, 0⟩, ⟨16, 1, .ro, 0⟩]⟩) ++
  (List.range 8).map (fun k => ⟨0x100 + 0x8 * k, true, .P, false, [⟨0, 40, .ro, 0⟩]⟩) ++
  mapRegs1

/-- The SCR registers table. (part 0) -/
def scrRegs0 : List RegDesc := [
  ⟨0x40, false, .H, false, [⟨0, 1, .sc, 0⟩]⟩,
  ⟨0x44, false, .F, false, [⟨0, 16, .rw, 0x5a0⟩]⟩,
  ⟨0x48, false, .H, false, [⟨0, 1, .ro, 0⟩, ⟨1, 1, .w1c, 0⟩, ⟨8, 5, .ro, 0⟩, ⟨13, 1, .w1c, 0⟩]⟩,
  ⟨0x4c, false, .H, false, [⟨0, 10, .ro, 0⟩]⟩,
  ⟨0x50, false, .P, false, [⟨0, 1, .ro, 0⟩, ⟨1, 1, .ro, 0⟩, ⟨2, 8, .ro, 0⟩, ⟨16, 11, .ro, 0⟩]⟩,
  ⟨0x80, true, .P, true, [⟨0, 48, .ro, 0⟩]⟩,
  ⟨0x88, true, .P, true, [⟨0, 48, .ro, 0⟩]⟩,
  ⟨0x90, true, .P, true, [⟨0, 48, .ro, 0⟩]⟩,
  ⟨0x98, true, .P, true, [⟨0, 48, .ro, 0⟩]⟩,
  ⟨0xa0, true, .P, true, [⟨0, 48, .ro, 0⟩]⟩,
  ⟨0xa8, true, .P, true, [⟨0, 48, .ro, 0⟩]⟩,
  ⟨0xb0, true, .P, true, [⟨0, 48, .ro, 0⟩]⟩]

/-- The SCR registers table. (part 1) -/
def scrRegs1 : List RegDesc := [
  ⟨0xb8, true, .P, true, [⟨0, 48, .ro, 0⟩]⟩,
  ⟨0xc0, true, .P, true, [⟨0, 48, .ro, 0⟩]⟩]

/-- The SCR registers table. -/
def scrRegs : List RegDesc :=
  scrRegs0 ++
  scrRegs1 ++
  (List.range 64).map (fun k => ⟨0x200 + 0x8 * k, false, .H, false, [⟨0, 6, .ro, 0⟩, ⟨6, 4, .ro, 0⟩, ⟨10, 16, .ro, 0⟩, ⟨26, 6, .ro, 0⟩]⟩) ++
  (List.range 64).map (fun k => ⟨0x204 + 0x8 * k, false, .H, true, [⟨0, 3, .ro, 0⟩, ⟨4, 2, .ro, 0⟩, ⟨7, 1, .ro, 0⟩]⟩)

/-- The DMA registers table. -/
def dmaRegs : List RegDesc := [
  ⟨0x40, false, .H, false, [⟨0, 1, .sc, 0⟩]⟩,
  ⟨0x44, false, .H, false, [⟨0, 8, .rw, 0x40⟩, ⟨8, 8, .rw, 0x10⟩]⟩,
  ⟨0x48, false, .H, false, [⟨0, 32, .ro, 0⟩]⟩,
  ⟨0x4c, false, .H, false, [⟨0, 32, .ro, 0⟩]⟩,
  ⟨0x50, false, .H, false, [⟨0, 10, .ro, 0⟩]⟩,
  ⟨0x80, true, .P, true, [⟨0, 48, .ro, 0⟩]⟩,
  ⟨0x88, true, .P, true, [⟨0, 48, .ro, 0⟩]⟩,
  ⟨0x90, true, .H, true, [⟨0, 48, .ro, 0⟩]⟩,
  ⟨0x98, true, .P, true, [⟨0, 48, .ro, 0⟩]⟩,
  ⟨0xa0, true, .P, true, [⟨0, 48, .ro, 0⟩]⟩,
  ⟨0xa8, true, .P, true, [⟨0, 48, .ro, 0⟩]⟩,
  ⟨0xb0, true, .P, true, [⟨0, 48, .ro, 0⟩]⟩]

/-- The DMACH registers table. (part 0) -/
def dmachRegs0 : List RegDesc := [
  ⟨0x40, false, .B, false, [⟨0, 1, .sc, 0⟩, ⟨1, 1, .sc, 0⟩, ⟨2, 1, .sc, 0⟩]⟩,
  ⟨0x44, false, .H, false, [⟨0, 2, .rw, 1⟩, ⟨4, 2, .rw, 2⟩, ⟨8, 1, .rw, 0⟩, ⟨9, 1, .rw, 0⟩, ⟨12, 1, .rw, 0⟩, ⟨13, 1, .rw, 0⟩]⟩,
  ⟨0x48, false, .B, false, [⟨0, 4, .ro, 0⟩, ⟨8, 8, .ro, 0⟩, ⟨16, 1, .w1c, 0⟩, ⟨17, 1, .w1c, 0⟩, ⟨18, 1, .w1c, 0⟩, ⟨19, 1, .w1c, 0⟩, ⟨20, 1, .ro, 0⟩]⟩,
  ⟨0x4c, true, .H, false, [⟨0, 64, .rw, 0⟩]⟩,
  ⟨0x54, true, .B, false, [⟨0, 64, .ro, 0⟩]⟩,
  ⟨0x5c, true, .H, false, [⟨0, 48, .rw, 0⟩]⟩,
  ⟨0x64, true, .H, false, [⟨0, 48, .rw, 0⟩]⟩,
  ⟨0x6c, true, .H, false, [⟨6, 58, .rw, 0⟩]⟩,
  ⟨0x74, true, .H, false, [⟨6, 42, .rw, 0⟩]⟩,
  ⟨0x7c, true, .H, false, [⟨6, 58, .rw, 0⟩]⟩,
  ⟨0x84, true, .H, false, [⟨6, 42, .rw, 0⟩]⟩,
  ⟨0x8c, false, .B, false, [⟨0, 32, .ro, 0⟩]⟩]

/-- The DMACH registers table. (part 1) -/
def dmachRegs1 : List RegDesc := [
  ⟨0x90, false, .B, false, [⟨0, 3, .ro, 0⟩]⟩,
  ⟨0xa4, false, .B, false, [⟨0, 32, .ro, 0⟩]⟩,
  ⟨0xa8, true, .B, false, [⟨0, 64, .ro, 0⟩]⟩,
  ⟨0xb0, true, .B, false, [⟨0, 64, .ro, 0⟩]⟩,
  ⟨0xb8, false, .B, false, [⟨0, 3, .ro, 0⟩, ⟨4, 4, .ro, 0⟩]⟩,
  ⟨0xbc, false, .H, true, [⟨0, 32, .rw, 0⟩]⟩,
  ⟨0x100, true, .P, true, [⟨0, 48, .ro, 0⟩]⟩,
  ⟨0x108, true, .P, true, [⟨0, 48, .ro, 0⟩]⟩,
  ⟨0x110, true, .P, true, [⟨0, 48, .ro, 0⟩]⟩,
  ⟨0x118, true, .P, true, [⟨0, 48, .ro, 0⟩]⟩,
  ⟨0x120, true, .P, true, [⟨0, 48, .ro, 0⟩]⟩]

/-- The DMACH registers table. -/
def dmachRegs : List RegDesc :=
  dmachRegs0 ++
  dmachRegs1 ++
  (List.range 4).map (fun k => ⟨0x94 + 0x4 * k, false, .B, false, [⟨0, 32, .ro, 0⟩]⟩)

/-- The MX registers table. (part 0) -/
def mxRegs0 : List RegDesc := [
  ⟨0x40, false, .H, false, [⟨0, 16, .rw, 0x1000⟩]⟩,
  ⟨0x44, false, .H, false, [⟨0, 1, .ro, 0⟩, ⟨1, 1, .w1c, 0⟩, ⟨2, 1, .ro, 0⟩]⟩,
  ⟨0x48, true, .H, false, [⟨0, 64, .ro, 0⟩]⟩,
  ⟨0x50, false, .H, false, [⟨0, 4, .ro, 0⟩, ⟨4, 1, .ro, 0⟩, ⟨5, 2, .ro, 0⟩]⟩,
  ⟨0x80, true, .P, true, [⟨0, 48, .ro, 0⟩]⟩,
  ⟨0x88, true, .P, true, [⟨0, 48, .ro, 0⟩]⟩,
  ⟨0x90, true, .P, true, [⟨0, 48, .ro, 0⟩]⟩,
  ⟨0x98, true, .P, true, [⟨0, 48, .ro, 0⟩]⟩,
  ⟨0xa0, true, .P, true, [⟨0, 48, .ro, 0⟩]⟩]

/-- The MX registers table. -/
def mxRegs : List RegDesc :=
  mxRegs0 ++
  (List.range 12).map (fun k => ⟨0x100 + 0x20 * k, true, .P, true, [⟨0, 48, .ro, 0⟩]⟩) ++
  (List.range 12).map (fun k => ⟨0x108 + 0x20 * k, true, .P, true, [⟨0, 48, .ro, 0⟩]⟩) ++
  (List.range 12).map (fun k => ⟨0x110 + 0x20 * k, true, .H, true, [⟨0, 48, .ro, 0⟩]⟩) ++
  (List.range 12).map (fun k => ⟨0x118 + 0x20 * k, true, .P, true, [⟨0, 48, .ro, 0⟩]⟩)

/-- The WELL registers table. -/
def wellRegs : List RegDesc := [
  ⟨0x40, false, .B, false, [⟨0, 1, .sc, 0⟩, ⟨1, 1, .sc, 0⟩]⟩,
  ⟨0x44, false, .B, false, [⟨0, 3, .ro, 0⟩, ⟨4, 4, .ro, 0⟩]⟩,
  ⟨0x48, false, .F, false, [⟨0, 16, .rw, 0x64⟩]⟩,
  ⟨0x4c, false, .P, true, [⟨0, 32, .ro, 0⟩]⟩,
  ⟨0x50, false, .P, true, [⟨0, 32, .ro, 0⟩]⟩,
  ⟨0x54, false, .P, true, [⟨0, 32, .ro, 0⟩]⟩]

/-- The MBX registers table. (part 0) -/
def mbxRegs0 : List RegDesc := [
  ⟨0x40, false, .B, false, [⟨0, 16, .rw, 0⟩, ⟨24, 8, .rw, 0⟩]⟩,
  ⟨0x44, false, .B, false, [⟨0, 1, .sc, 0⟩]⟩,
  ⟨0x48, false, .B, false, [⟨0, 1, .ro, 0⟩, ⟨1, 1, .w1c, 0⟩, ⟨2, 1, .w1c, 0⟩, ⟨3, 1, .ro, 0⟩, ⟨4, 1, .ro, 0⟩, ⟨8, 8, .ro, 0⟩, ⟨24, 8, .ro, 0⟩]⟩]

/-- The MBX registers table. -/
def mbxRegs : List RegDesc :=
  mbxRegs0 ++
  (List.range 8).map (fun k => ⟨0x60 + 0x4 * k, false, .B, false, [⟨0, 32, .rw, 0⟩]⟩) ++
  (List.range 8).map (fun k => ⟨0x80 + 0x4 * k, false, .B, false, [⟨0, 32, .ro, 0⟩]⟩)

/-- The ACC registers table. -/
def accRegs : List RegDesc := [
  ⟨0x40, false, .H, false, [⟨0, 1, .sc, 0⟩, ⟨1, 1, .sc, 0⟩, ⟨2, 1, .sc, 0⟩]⟩,
  ⟨0x44, false, .H, false, [⟨0, 1, .ro, 0⟩, ⟨1, 1, .ro, 0⟩, ⟨2, 1, .w1c, 0⟩, ⟨3, 1, .w1c, 0⟩, ⟨4, 1, .w1c, 0⟩]⟩,
  ⟨0x48, true, .H, false, [⟨0, 48, .ro, 0⟩]⟩,
  ⟨0x50, false, .H, false, [⟨0, 12, .ro, 0⟩]⟩,
  ⟨0x54, false, .H, false, [⟨0, 4, .ro, 0⟩, ⟨8, 13, .ro, 0⟩]⟩,
  ⟨0x58, false, .P, true, [⟨0, 32, .ro, 0⟩]⟩,
  ⟨0x5c, false, .P, true, [⟨0, 32, .ro, 0⟩]⟩]

/-- The EVT registers table. (part 0) -/
def evtRegs0 : List RegDesc := [
  ⟨0x40, false, .P, false, [⟨0, 12, .rw, 1⟩, ⟨16, 1, .rw, 1⟩]⟩,
  ⟨0x44, false, .P, false, [⟨0, 12, .rw, 0x800⟩]⟩,
  ⟨0x48, false, .P, false, [⟨0, 1, .w1c, 0⟩, ⟨1, 1, .ro, 0⟩, ⟨2, 1, .ro, 0⟩, ⟨3, 1, .w1c, 0⟩]⟩,
  ⟨0x4c, false, .P, false, [⟨0, 32, .ro, 0⟩]⟩,
  ⟨0x50, false, .P, false, [⟨0, 32, .rw, 0⟩]⟩,
  ⟨0x54, false, .P, false, [⟨0, 32, .ro, 0⟩]⟩,
  ⟨0x80, true, .P, true, [⟨0, 48, .ro, 0⟩]⟩,
  ⟨0x88, true, .P, true, [⟨0, 48, .ro, 0⟩]⟩,
  ⟨0x90, true, .P, true, [⟨0, 48, .ro, 0⟩]⟩,
  ⟨0x98, true, .P, true, [⟨0, 48, .ro, 0⟩]⟩,
  ⟨0xa0, true, .P, true, [⟨0, 48, .ro, 0⟩]⟩,
  ⟨0xa8, true, .P, true, [⟨0, 48, .ro, 0⟩]⟩]

/-- The EVT registers table. (part 1) -/
def evtRegs1 : List RegDesc := [
  ⟨0xb0, true, .P, true, [⟨0, 48, .ro, 0⟩]⟩]

/-- The EVT registers table. -/
def evtRegs : List RegDesc :=
  evtRegs0 ++
  evtRegs1

/-- The SEC registers table. -/
def secRegs : List RegDesc := [
  ⟨0x40, false, .H, false, [⟨0, 1, .wo, 0⟩]⟩,
  ⟨0x44, false, .P, false, [⟨0, 1, .ro, 0⟩, ⟨1, 1, .ro, 0⟩, ⟨2, 1, .w1c, 0⟩, ⟨3, 1, .w1c, 0⟩]⟩,
  ⟨0x48, false, .F, false, [⟨0, 1, .ro, 0⟩, ⟨1, 1, .ro, 0⟩, ⟨2, 1, .ro, 0⟩, ⟨4, 2, .ro, 0⟩, ⟨8, 1, .ro, 0⟩]⟩,
  ⟨0x4c, false, .F, false, [⟨0, 32, .ro, 0⟩]⟩,
  ⟨0x50, false, .P, true, [⟨0, 32, .ro, 0⟩]⟩]

/-- The NVR registers table. -/
def nvrRegs : List RegDesc := [
  ⟨0x40, false, .H, false, [⟨0, 1, .sc, 0⟩]⟩,
  ⟨0x44, false, .P, false, [⟨0, 1, .ro, 0⟩, ⟨1, 1, .ro, 0⟩, ⟨2, 1, .ro, 0⟩, ⟨3, 1, .ro, 0⟩, ⟨4, 1, .w1c, 0⟩, ⟨5, 1, .ro, 0⟩, ⟨6, 1, .ro, 0⟩]⟩,
  ⟨0x48, false, .P, false, [⟨0, 32, .ro, 0⟩]⟩,
  ⟨0x4c, false, .P, false, [⟨0, 16, .ro, 0⟩]⟩,
  ⟨0x50, false, .P, true, [⟨0, 32, .ro, 0⟩]⟩,
  ⟨0x54, false, .P, true, [⟨0, 32, .ro, 0⟩]⟩]

/-- The PCIE registers table. -/
def pcieRegs : List RegDesc := [
  ⟨0x40, false, .F, false, [⟨0, 3, .ro, 0⟩, ⟨4, 5, .ro, 0⟩, ⟨9, 1, .ro, 0⟩, ⟨10, 1, .ro, 0⟩, ⟨11, 1, .ro, 0⟩]⟩,
  ⟨0x44, true, .F, false, [⟨30, 10, .rw, 0⟩]⟩,
  ⟨0x4c, false, .K, false, [⟨0, 16, .ro, 0x1e5a⟩, ⟨16, 16, .ro, 0x6472⟩]⟩,
  ⟨0x50, false, .H, false, [⟨0, 1, .w1c, 0⟩, ⟨1, 1, .w1c, 0⟩, ⟨2, 1, .w1c, 0⟩, ⟨3, 1, .w1c, 0⟩]⟩,
  ⟨0x80, true, .P, true, [⟨0, 48, .ro, 0⟩]⟩,
  ⟨0x88, true, .P, true, [⟨0, 48, .ro, 0⟩]⟩,
  ⟨0x90, true, .P, true, [⟨0, 48, .ro, 0⟩]⟩,
  ⟨0x98, true, .P, true, [⟨0, 48, .ro, 0⟩]⟩,
  ⟨0xa0, true, .P, true, [⟨0, 48, .ro, 0⟩]⟩,
  ⟨0xa8, true, .P, true, [⟨0, 48, .ro, 0⟩]⟩]

/-- The block registers of a page kind (its header and arm group apart). -/
def blockRegs : PageKind → List RegDesc
  | .id => idRegs
  | .st => stRegs
  | .pwr => pwrRegs
  | .fuse => fuseRegs
  | .trn0 => trn0Regs
  | .trn1 => trn1Regs
  | .trn2 => trn2Regs
  | .tod => todRegs
  | .tune => tuneRegs
  | .slk => slkRegs
  | .lnk => lnkRegs
  | .arr => arrRegs
  | .dly => dlyRegs
  | .chn0 => chn0Regs
  | .chn1 => chn1Regs
  | .mere => mereRegs
  | .eng => engRegs
  | .gsv => gsvRegs
  | .xs => xsRegs
  | .bm => bmRegs
  | .bas => basRegs
  | .pk => pkRegs
  | .mc => mcRegs
  | .map => mapRegs
  | .scr => scrRegs
  | .dma => dmaRegs
  | .dmach => dmachRegs
  | .mx => mxRegs
  | .well => wellRegs
  | .mbx => mbxRegs
  | .acc => accRegs
  | .evt => evtRegs
  | .sec => secRegs
  | .nvr => nvrRegs
  | .pcie => pcieRegs

/-- The offset of a page kind's arm group within its page, where it has one (R26). -/
def armOffset : PageKind → Option Nat
  | .lnk => some 0x100
  | .arr => some 0x100
  | .dly => some 0x100
  | .chn0 => some 0x100
  | .mere => some 0x100
  | .xs => some 0x100
  | .bm => some 0x180
  | .bas => some 0x180
  | .pk => some 0x100
  | _ => none

/-- The number of interrupt sources of a page kind: bits [n-1:0] of its PG_IRQ_RAW (each chapter's list). -/
def irqSources : PageKind → Nat
  | .id => 0
  | .st => 2
  | .pwr => 2
  | .fuse => 0
  | .trn0 => 5
  | .trn1 => 3
  | .trn2 => 2
  | .tod => 4
  | .tune => 2
  | .slk => 5
  | .lnk => 6
  | .arr => 4
  | .dly => 3
  | .chn0 => 1
  | .chn1 => 4
  | .mere => 5
  | .eng => 3
  | .gsv => 8
  | .xs => 5
  | .bm => 6
  | .bas => 7
  | .pk => 3
  | .mc => 5
  | .map => 4
  | .scr => 5
  | .dma => 0
  | .dmach => 5
  | .mx => 3
  | .well => 2
  | .mbx => 2
  | .acc => 2
  | .evt => 3
  | .sec => 2
  | .nvr => 2
  | .pcie => 5

end Sys2Proof.Machine
end

