-- ==== Sys2Proof/Machine/SMap.lean ====
section
/-! DEFINITION. Sparse maps: a list of key and value pairs, keys strictly rising, no entry equal to the value that an
unlisted key holds. The default is an argument, since it can depend on the key. -/

namespace Sys2Proof.Machine

/-- A sparse map from numbers. -/
abbrev SMap (α : Type) := List (Nat × α)

/-- The value at a key; an unlisted key holds `d`. -/
def SMap.get {α : Type} (d : α) : SMap α → Nat → α
  | [], _ => d
  | (k', v) :: t, k => if k' = k then v else SMap.get d t k

/-- The map with the value at one key replaced; storing the default `d` removes the entry. -/
def SMap.put {α : Type} [DecidableEq α] (d : α) (m : SMap α) (k : Nat) (v : α) : SMap α :=
  m.filter (fun e => decide (e.1 < k)) ++ (if v = d then [] else [(k, v)]) ++ m.filter (fun e => decide (k < e.1))

/-- The map without its entries at keys from `lo` up to but not including `hi`. -/
def SMap.clear {α : Type} (m : SMap α) (lo hi : Nat) : SMap α :=
  m.filter (fun e => decide (e.1 < lo) || decide (hi ≤ e.1))

/-- The entries at keys from `lo` up to but not including `hi`. -/
def SMap.slice {α : Type} (m : SMap α) (lo hi : Nat) : SMap α :=
  m.filter (fun e => decide (lo ≤ e.1) && decide (e.1 < hi))

/-- The entries from `lo` to `hi` replaced by those of another map in that range. -/
def SMap.graft {α : Type} (m : SMap α) (lo hi : Nat) (src : SMap α) : SMap α :=
  m.filter (fun e => decide (e.1 < lo)) ++ src.slice lo hi ++ m.filter (fun e => decide (hi ≤ e.1) && decide (lo ≤ e.1))

/-- The canonical form: keys strictly rising. -/
def SMap.sorted {α : Type} : SMap α → Bool
  | [] => true
  | [_] => true
  | a :: b :: t => decide (a.1 < b.1) && SMap.sorted (b :: t)

end Sys2Proof.Machine
end

