-- ==== Sys2Proof/Machine/State.lean ====
section
/-! DEFINITION. The state of the device: plain data, everything the spec gives it. Registers are held field by field
(`regs`), the rest of the spec's state stands in a structure per block. Every default value is the field's value in
`State.reset`, the device right after POR. -/

namespace Sys2Proof.Machine

/-- Why the machine stops with a fault. -/
inductive Fault where
  /-- A register access command whose BAR0 offset lies at or above 64 MiB, outside the address space of R378: no such
  access exists (R358 speaks of offsets of BAR0 alone). Raised by REGISTER_WRITE, TABLE_WINDOW_WRITE, LO_READ_LATCH,
  LO_WRITE_STAGE, HI_WRITE_COMMIT and RC_READ. Safe: it hides no behaviour of the device. -/
  | outsideBar0
  deriving DecidableEq, Repr

/-- Why a command has no meaning. -/
inductive Refusal where
  /-- The command of this mnemonic is not modelled. Raised by its arm of `exec` alone. Safe. -/
  | notModelled (mnemonic : String)
  deriving DecidableEq, Repr

/-- What is fixed at manufacture (R12 class N): ordering code, stepping, serial number and the fuses of FUSE.STAT and
FUSE.SEC_CFG. The spec calls the values per device; those of reset are a log entry. -/
structure Dev where
  code : OrdCode := .f
  stepping : Nat := 0
  serial : Nat := 1
  fuseCrcOk : Bool := true
  factSpares : List (Nat × Nat × Nat) := []
  keyRevoked : Nat := 0
  dbgPermClosed : Bool := false
  minFwVer : Nat := 0
  deriving DecidableEq, Repr

/-- An event on its way to the log (R434 to R438): its code, the page it comes from, the frame label of its data where
it has one (R437), and ARG0 to ARG3. -/
structure Ev where
  code : Nat
  source : Nat
  label : Option Nat
  arg0 : Nat
  arg1 : Nat
  arg2 : Nat
  arg3 : Nat
  /-- The SOURCE_ID of the tile the event concerns (R67); the entry of R436 has no word for it. -/
  tile : Option Nat := none
  deriving DecidableEq, Repr

/-- The set of a page in force from a frame on (R32): the armable fields and the armed table-window entries. -/
structure ActSet where
  page : Page
  frame : Nat
  regs : SMap Nat
  tabs : SMap Nat
  deriving DecidableEq, Repr

/-- The pins that POR holds (R454). -/
inductive Pin where
  | clkOut (n : Nat) | syncOut | ppsOut | integOut | tarnSt (n : Nat) | mspiRdy | tune | mspiMiso | tdo | flash | thermtrip
  deriving DecidableEq, Repr

/-- The level of a held pin: driven low, at zero scale, high-impedance or released. -/
inductive Level where
  | low | zeroScale | highZ | released
  deriving DecidableEq, Repr

/-- What leaves the device. -/
inductive Out where
  /-- An MSI-X message: vector, address and data of its table entry (R365). -/
  | msix (vector addr data : Nat)
  /-- The 32 data bits and status byte of a management SPI transaction (R369). -/
  | mspi (data status : Nat)
  /-- The completion of a configuration request: completion status (0 SC, 1 UR, 2 CRS) and value (R349, R351). -/
  | cfg (status value : Nat)
  /-- The data a read of a register or table window returns on a path (R5, R8). -/
  | rd (path : Path) (value : Nat)
  /-- The completion of a BAR2 read: status 0 SC, 1 UR; EP (R362). -/
  | bar2 (status : Nat) (ep : Bool) (data : List Byte)
  /-- A memory write of the device to the host: address, EP (R333), the RO attribute (R337), data. -/
  | hostWrite (addr : Nat) (ep ro : Bool) (data : List Byte)
  /-- A memory read TLP to the host by a DMA channel: channel, address, length (R330). -/
  | hostRead (chan addr len : Nat)
  /-- A DOE or SPDM response: the message code and its payload words (R367, R368). -/
  | doe (code : Nat) (payload : List Nat)
  /-- A training frame sent on a lane (R50, R51): the response codes per tap, then the device's own request: tap requests,
  preset, READY. -/
  | train (lane pre post reqPre reqPost preset : Nat) (ready : Bool)
  /-- The S1 capability message sent on a lane (R52; version 0x01): identity, link number, lane index, width code, maximum step,
  precoding request of the lane, filler group. -/
  | s1 (lane identity link index width maxStep : Nat) (precodeReq : Bool) (fillGroup : Nat)
  /-- A MARKER block sent on a lane (R60): link number, lane index, width code, marker count. -/
  | marker (lane link index width count : Nat)
  /-- The STATUS blocks sent on the lanes of a link (R62). -/
  | status (link : Nat) (block : LinkStatus)
  /-- FILLER blocks sent on a lane in a marker group (R60), and the data blocks of IDLE words that follow until the next group
  (R46, R60: an interval is 327,680 blocks). -/
  | filler (lane count : Nat)
  | idle (lane blocks : Nat)
  /-- A wake tone sent on a lane (R81). -/
  | wakeTone (lane : Nat)
  /-- A setpoint sent to the VDD_CORE regulator, in millivolts (R455). -/
  | avs (mv : Nat)
  /-- A pulse begins on an output pin: 0 SYNC_OUT with its width in CTL_CLK cycles, 1 PPS_OUT in µs, 2 INTEG_OUT in CTL_CLK
  cycles (R393). -/
  | pulse (pin width : Nat)
  /-- The state of the Tarn on the pins TARN_ST[1:0] (R388). -/
  | tarnSt (code : Nat)
  /-- A command on the boot flash's pins: its opcode, its address and the data programmed (R462). -/
  | flash (op addr : Nat) (data : List Byte)
  /-- A pin is held at a level while the device is in POR (R454). -/
  | held (pin : Pin) (level : Level)
  /-- CLKOUTn carries ROOT_CLK ÷ div from now on, its divider at a phase in ROOT_CLK cycles at the last frame tick; div 0: it is driven
  low (R392, R394). -/
  | clkOut (n div phase : Nat)
  /-- The completion with status UR of a BAR0 read in D3hot (R353). -/
  | readUr
  /-- An error message to the root complex (R350): 0 ERR_COR, 1 ERR_NONFATAL, 2 ERR_FATAL. -/
  | errMsg (severity : Nat)
  deriving DecidableEq, Repr

/-- What the spec gives a lane beside its SLK page (R49 to R55, R76). -/
structure LaneSt where
  /-- The transmit taps training has set (R50; TX_FFE reads them without FFE_OVR). -/
  pre : Nat := 0
  post : Nat := 0
  /-- The last request field acted on (R51: a response is kept until the request changes). -/
  lastReq : Option (Nat × Nat × Nat) := none
  /-- The device's next training frame asks for SAVED: an S4 training starts from SLK.PRESET (R52). -/
  askSaved : Bool := false
  lastResp : Nat × Nat := (0, 0)
  /-- READY of the device's own receiver and of the peer's at the present step (R51). -/
  ownReady : Bool := false
  peerReady : Bool := false
  /-- Precoding of the transmit direction (R49). -/
  txPrecode : Bool := false
  /-- Uncorrectable codewords per marker interval, the present one first (R76). -/
  uncorr : List Nat := []
  /-- A standalone training under R79 is in progress. -/
  alone : Bool := false
  deriving DecidableEq, Repr

/-- A block waiting to be dealt from its lane (R47), with whether its codeword was uncorrectable (R59). -/
structure RxBlock where
  lane : Nat
  block : Block
  bad : Bool
  deriving DecidableEq, Repr

/-- The receive stream of a link (R47, R67, R70): blocks received and not yet dealt, and the lane that deals next, counted
from the lowest in use; how many blocks to come of each lane lie in an uncorrectable codeword (R56, R59); the 4-byte words of
the stream not yet framed or skipped, each with whether it came in such a codeword; whether they begin with a tile in
progress, and whether that tile is dropped under R66; the words a hunt has skipped. -/
structure LinkRx where
  fifo : List RxBlock := []
  turn : Nat := 0
  bad : SMap Nat := []
  words : List (Bool × List Byte) := []
  inTile : Bool := false
  elasticNow : Bool := false
  hunt : Option Nat := none
  deriving DecidableEq, Repr

/-- What the spec gives a link beside its LNK page. -/
structure LinkSt where
  /-- The lane set in use, before and after the link is UP (R52, R78): lowest lane, width code. -/
  first : Nat := 0
  width : Nat := 0
  /-- The final step of the bring-up (R52, R54). -/
  final : Nat := 0
  /-- The last S1 message, and whether the exchange is complete or met a wrong version (R52). -/
  capLast : Option CapMsg := none
  capDone : Bool := false
  badVersion : Bool := false
  /-- TILE_CNT_LAST holds a value, and the unreadable tiles since it (R74). -/
  cValid : Bool := false
  unread : Nat := 0
  /-- The receive stream (R47). -/
  rx : LinkRx := {}
  /-- Tiles that start before the fill has fallen to 64 are dropped (R66). -/
  elastic : Bool := false
  /-- A DORMANT request is out (R80), whether the device state IDLE asked for it (R410), and whether the peer has
  acknowledged it. -/
  dormWait : Bool := false
  dormIdle : Bool := false
  dormAcked : Bool := false
  /-- The link state in the peer's last STATUS block (R62), and marker groups sent, modulo 2^16 (R60). -/
  peerState : Nat := 0
  sent : Nat := 0
  deriving DecidableEq, Repr

/-- A tile accepted by a link, on its way to its slot (R72, R89). -/
structure TileIn where
  link : Nat
  group : Nat
  chan : Nat
  frame : Nat
  fmt : Nat
  source : Nat
  cnt : Nat
  pcrc : Nat
  payload : List Byte
  deriving DecidableEq, Repr

/-- The pending load of ARR.NOW (R86, R87). -/
inductive LoadPend where
  | none | sync | now
  deriving DecidableEq, Repr

/-- The arrival area beside its page (chapter Arrival Area and Delay Tracking). -/
structure ArrSt where
  accepted : List TileIn := []
  /-- The residency map (R93): slot to 1 + the frame of the tile that set its bit. -/
  resident : SMap Nat := []
  /-- The pending load (R86). -/
  load : LoadPend := .none
  /-- The tick at which the pending load was written: it acts at a later one (R86). -/
  loadTick : Nat := 0
  /-- The slots whose tile has been counted at a first read: slot to 1 + the tile's frame (R110). -/
  counted : SMap Nat := []
  /-- Closes are made only for frames above this one, the last that lay below the window at a load (R96). -/
  floor : Option Nat := none
  /-- The last frame closed since the last load (R94). -/
  closed : Option Nat := none
  deriving DecidableEq, Repr

/-- The delay evaluator beside its page: the first frame not yet counted in EXPIRED_FRAMES (R108), and the last interval
judged: its first frame, its frames, and the inputs counted in CLAMP_CNT for it (R101). -/
structure DlySt where
  nextFrame : Option Nat := none
  first : Nat := 0
  frames : Nat := 0
  clamped : List Nat := []
  deriving DecidableEq, Repr

/-- A row on its way to the Mere writer (R137): fine channel, input group, index of the fine sample in its
configuration, its frame, 64 bytes and the 64 valid bits. -/
structure Row where
  chan : Nat
  group : Nat
  n : Nat
  frame : Nat
  bytes : List Byte
  valid : Nat
  deriving DecidableEq, Repr

/-- A chunk in progress (R115): its number, its length in frames, the first frame of it that no earlier chunk covered,
the pairs (coarse channel, input group) still to come, and whether its lag stands above the limit (R119). -/
structure Chunk where
  num : Nat
  len : Nat
  lo : Nat
  pairs : List (Nat × Nat)
  beyond : Bool := false
  deriving DecidableEq, Repr

/-- The channeliser beside its pages: the chunk in progress, the frame after the last chunk started, and the rows not yet
taken by the Mere writer. -/
structure ChnSt where
  chunk : Option Chunk := none
  next : Option Nat := none
  rows : List Row := []
  deriving DecidableEq, Repr

/-- What a stored DRAM word holds beside its 32 bytes: stored poison (R293), and symbols that differ from what was
written (R292). -/
structure WordSt where
  poison : Bool := false
  errs : List SymErr := []
  deriving DecidableEq, Repr

/-- What a stretch of memory holds where nothing has been written since: zeros of a fill (R315 to R317), nothing (R306: contents
undefined again), or what the Wells have written into region 7 the n-th time (R314, R417). -/
inductive BgKind where
  | zero | blank | wells (n : Nat)
  deriving DecidableEq, Repr

/-- A stretch of memory filled or lost: the region offsets from `lo` up to but not including `hi` of a region of order `order`
over the channels `chans`, slice at `cbase`. -/
structure Bg where
  kind : BgKind
  order : Nat
  chans : List Nat
  cbase : Nat
  lo : Nat
  hi : Nat
  deriving DecidableEq, Repr

/-- An entry of a controller's error log (R297; LOG_A, LOG_B, LOG_C). -/
structure LogEnt where
  type : Nat
  chan : Nat
  bank : Nat
  master : Nat
  symbol : Nat
  row : Nat
  word : Nat
  frame : Nat
  deriving DecidableEq, Repr

/-- An entry of the correction tracking table (R309): `last` is the frame tick of its last correction, `order` the number of its
last update among all updates of the table. -/
structure Track where
  word : Nat
  count : Nat
  rewrites : Nat
  start : Nat
  last : Nat
  order : Nat
  deriving DecidableEq, Repr

/-- A soft spare in use: physical channel, bank, index 0 to 3, row (R310, R420). -/
structure Spare where
  chan : Nat
  bank : Nat
  index : Nat
  row : Nat
  deriving DecidableEq, Repr

/-- The memory beside its pages (chapter Stacked Memory). Bytes are kept by place: physical channel, bank, row, byte
(see `Sys2Proof.Machine.State.placeOf`); an unlisted byte has not been written since power-on. -/
structure DramSt where
  cells : List Host.Cell := []
  /-- What unlisted bytes hold, latest stretch first; where none covers a byte it has not been written. -/
  bg : List Bg := []
  words : SMap WordSt := []
  /-- Reads accepted whose data has not been returned, and reads that have failed (R296) and whose data is still to be taken:
  master and place / 32. -/
  reads : List (Master × Nat) := []
  failed : List (Master × Nat) := []
  /-- The write-fault tables (R296): granules by place / 64. -/
  wfaults : List Nat := []
  /-- How often DRAM has lost its contents (R313). -/
  epoch : Nat := 0
  /-- The physical channels the map was last built from, in ascending order (R282). -/
  mapped : List Nat := []
  logs : SMap (List LogEnt) := []
  /-- The tracking table, entry by entry (R309). -/
  tracks : SMap (Option Track) := []
  /-- Updates of the tracking table so far (R309). -/
  trackSeq : Nat := 0
  spareQ : List (Nat × Nat × Nat) := []
  spares : List Spare := []
  /-- The channels are in self-refresh (R300), but for those that a request has made leave it (R301). -/
  selfRefresh : Bool := false
  awake : List Nat := []
  /-- Channels under retrain, and the rotation: next channel, channels at the head of it, commands that wait for the
  retrain in progress, and a retrain that fell due in self-refresh (R303). -/
  retraining : List Nat := []
  rotation : Nat := 0
  urgent : List Nat := []
  manual : List Nat := []
  retrainDue : Bool := false
  /-- The frame tick of the last periodic retrain (R303). -/
  rtLast : Option Nat := none
  /-- Requests held at a channel that is offline for a retrain, in acceptance order (R303). -/
  held : List (Nat × DramReq) := []
  /-- The region of the fill in progress, and the region offset below which its writes have been accepted (R316). -/
  fillRgn : Nat := 0
  /-- The Wells have written region 7 since its contents were lost (R306, R417). -/
  sysDone : Bool := false
  fillPos : Nat := 0
  /-- The frame tick at which the last scrub pass started, and the word it read last: row in ROW decode order, channel, word
  (R307). -/
  scrubStart : Option Nat := none
  scrubAt : Option (Nat × Nat × Nat) := none
  /-- Temperature of each stack at the last retrain of each channel (R303). -/
  lastTemp : SMap Int := []
  /-- A refresh multiplier that waits for the next refresh interval, per stack (R298). -/
  nextMult : SMap (Option Nat) := []
  deriving DecidableEq, Repr

/-- The shape R22 and R23 choose: slices S, rounds, sub-passes, 16 × c, most contexts a half uses, blocks per fine
channel. -/
structure Shape where
  s : Nat := 1
  nr : Nat := 1
  d : Nat := 1
  c16 : Nat := 0
  ctx : Nat := 0
  nblk : Nat := 0
  deriving DecidableEq, Repr

/-- A configuration in force from a frame on: the values of every armable integration-level field together (R18, R32),
the shape, and the numbers of its first pass and integration. Passes and integrations are numbered here without bound, and
no number serves two runs; the sequence numbers of R17 are those less the run's first ones, modulo 2^32
(`Sys2Proof.Machine.Cfg.shown`). -/
structure Cfg where
  f0 : Nat := 0
  pass0 : Nat := 0
  int0 : Nat := 0
  /-- The numbers of the run's first pass and first integration, both even. -/
  base : Nat := 0
  ibase : Nat := 0
  /-- The active values (R32), and the shape chosen for them (R22). -/
  run : Bool := false
  n : Nat := 0
  mode : Nat := 0
  nCC : Nat := 0
  k : Nat := 2
  m : Nat := 0
  os : Nat := 0
  taps : Nat := 8
  chunkExp : Nat := 3
  zoom : Nat := 0
  eX : Nat := 0
  eB : Nat := 0
  nX : Nat := 0
  span : Nat := 4096
  fmt : Nat := 0
  autoSplit : Bool := false
  pInt : Nat := 1
  spanBase0 : Nat := 0
  spanBase1 : Nat := 0
  dirBase : Nat := 0
  bank0 : Nat := 0
  bank1 : Nat := 0
  nB : Nat := 0
  beams : Nat := 0
  bVolt : Bool := false
  bPow : Nat := 0
  bGroup : Nat := 1
  bVrel : Nat := 0
  bChan0 : Nat := 0
  bChans : Nat := 0
  bBinTiles : Nat := 8
  bV0 : Nat := 0
  bV1 : Nat := 0
  bP0 : Nat := 0
  bP1 : Nat := 0
  shape : Shape := {}
  /-- The first span is released on the whole half (R155). -/
  mereNew : Bool := false
  /-- The pass from which on two passes find the voltage halves free (R243). -/
  vFrom : Option Nat := none
  /-- Logical engine to (group, logical slot), where the base map does not stand (R260). -/
  positions : Option (List (Nat × Nat)) := none
  deriving DecidableEq, Repr

/-- An open Mere tile (R145): its pass, channel, time index and group, partial CRC, running mask, rows so far, HELD, a
failed row write, and the frame of its first fine sample. -/
structure OpenTile where
  pass : Nat
  chan : Nat
  tau : Nat
  group : Nat
  crc : BitVec 32
  mask : Nat
  rows : Nat
  held : Bool
  fault : Bool
  frame : Nat
  deriving DecidableEq, Repr

/-- A pass that has not released the whole of its half (R152): the channels of it released. -/
structure HalfSt where
  pass : Nat
  chans : List Nat
  deriving DecidableEq, Repr

/-- The Mere beside its page. Tiles are keyed by half and tile index (`Sys2Proof.Machine.tileKey`). -/
structure MereSt where
  opens : SMap (Option OpenTile) := []
  /-- Tiles written and not yet read by their own pass. -/
  resident : List Nat := []
  /-- Tiles of the pass in progress that their own pass has read. -/
  seen : List Nat := []
  /-- The passes with a tile opened or a span closed that have not released their whole half. -/
  unrel : List HalfSt := []
  /-- Spans closed whose pass has not started or been skipped: pass, and frame tick of the close. -/
  closed : List (Nat × Nat) := []
  /-- The next pass to start or skip, and the pass in progress. -/
  next : Nat := 0
  pass : Option Nat := none
  /-- The last pass that started. -/
  last : Nat := 0
  /-- Passes for which R153 has recorded a hold. -/
  lateFor : List Nat := []
  /-- The FILL master is zeroing the directory (R315). -/
  filling : Bool := false
  /-- PLAN_BW of the active plan, whatever PLAN_SRC shows (STAT.BW_WARN). -/
  actBw : Nat := 0
  deriving DecidableEq, Repr

/-- A tile the reader holds for the sweep (R173): time index, group, payload with masked positions at zero (R150), its
effective mask, and the POOL port its read was issued on. -/
structure Staged where
  tau : Nat
  group : Nat
  bytes : List Byte
  mask : Nat
  port : Nat
  deriving DecidableEq, Repr

/-- The place of a sweep in the run (R171, R172). -/
structure SweepKey where
  pass : Nat
  chan : Nat
  sub : Nat
  round : Nat
  deriving DecidableEq, Repr

/-- What the spec gives an engine beside its page: its contexts (by 2 × context + half; an absent one is zero), its
drain buffer until it is handed over, its credit, its place in the sweep (0 not in it, 1 working, 2 drained with a
full buffer, or flushed and waiting for weights, 3 finished), and a self-test with the state it started from. -/
structure EngSt where
  ctx : SMap (List (Int × Int)) := []
  buf : List Byte := []
  credit : Bool := true
  phase : Nat := 0
  testing : Bool := false
  testFrom : Nat := 0
  /-- A reset has emptied the staging in the sweep in progress (R182): the engine takes no further step of it. -/
  lost : Bool := false
  /-- The cycles it has waited for its credit at the end of the sweep in progress (R156, R179). -/
  waited : Nat := 0
  deriving DecidableEq, Repr

/-- A sweep that the Fallow in physical engine n is to replay for a logical engine (R268). -/
structure Rep where
  n : Nat
  logical : Nat
  key : SweepKey
  deriving DecidableEq, Repr

/-- The end of a run (R190): the number of the first pass that is not in it, the sequence number of its last integration, and
whether it has taken place. -/
structure RunEnd where
  pass : Nat
  last : Nat
  past : Bool := false
  deriving DecidableEq, Repr

/-- The Sward beside its pages: the sweep in progress with its next step, the sweep that comes next in the pass, the
reader's staging. -/
structure SwardSt where
  sweep : Option SweepKey := none
  step : Nat := 0
  next : Option SweepKey := none
  /-- The last channel-pass that began (R266). -/
  begun : Option (Nat × Nat) := none
  staging : List Staged := []
  engs : SMap EngSt := []
  /-- ENG_CLK cycles the pass has taken so far (R156), in the time of the model's own commands. -/
  cycles : Nat := 0
  /-- Of them, the cycles by which credit waits have made the last switch longer, and in a sweep those that its B-side switch has
  waited for weights (R156, R240). -/
  stall : Nat := 0
  wl : Nat := 0
  /-- Logical engines whose token of the channel-pass in progress has been sent (R262). -/
  tokens : List Nat := []
  /-- The replays still to be handed over at the present channel boundary, and the tiles of each sweep read again at it
  (R268). -/
  reps : List Rep := []
  reread : List (SweepKey × List Staged) := []
  /-- Channel-passes replayed at the present channel boundary, each charged once (R268). -/
  replayed : List (Nat × Nat) := []
  /-- Runs, latest first: frame of the start, and of the stop once it is known (R190). -/
  runs : List (Nat × Option Nat) := []
  /-- The ends of the runs whose stop has been applied, oldest first (R190). -/
  ends : List RunEnd := []
  /-- A re-plan is due (R274). -/
  replanDue : Bool := false
  /-- Evaluations in progress (XS.CTL.EVAL, MERE.CTL.PLAN_EVAL). -/
  evalBusy : Bool := false
  planBusy : Bool := false
  deriving DecidableEq, Repr

/-- A slot of the mask store (R201): effective masks of the tiles of one sweep, by time index × 64 + group, those of its
last replay read, and the blocks of the sweep neither committed nor zeroed. -/
structure MaskSlot where
  key : SweepKey
  masks : SMap Nat
  rep : SMap Nat
  left : Nat
  deriving DecidableEq, Repr

/-- A drain buffer with the Basin: its sweep, logical and physical engine, REPLAY, and contents. -/
structure Buf where
  key : SweepKey
  logical : Nat
  phys : Nat
  replay : Bool
  bytes : List Byte
  deriving DecidableEq, Repr

/-- A pending entry (R197): logical engine and first sweep not committed. -/
structure Pend where
  logical : Nat
  key : SweepKey
  deriving DecidableEq, Repr

/-- An entry of the slice assembly (R200): block of a sweep, slices added, sums, and whether one of them was replayed (R204). -/
structure Assembly where
  key : SweepKey
  block : Nat
  got : Nat
  sums : List (Int × Int)
  rep : Bool
  deriving DecidableEq, Repr

/-- An integration being accumulated or finished: its number, configuration, first pass and length, the first pass
not skipped, passes accumulated and skipped, channel-passes accepted, zeroed contributions, flags of R226, and where
the finisher is in it: stage 0 visibility, 1 power, 2 peaks, and channel. -/
structure IntSt where
  seq : Nat
  cfg : Cfg
  firstPass : Nat
  len : Nat
  firstAcc : Option Nat
  acc : Nat
  skipped : Nat
  accepted : Nat
  zeroed : Nat
  flags : Nat
  cal : Bool
  stage : Nat
  ch : Nat
  deriving DecidableEq, Repr

/-- A packet on its way to the ring: length, header bytes, which go last (R221), body, its poison marks by 32 bytes, the body
bytes written so far, the integration with the finisher once the body is written, integration where the packet is its last
(R248), pass for a voltage notice, and rank-0 value and integration for a peak packet. -/
structure PktPend where
  len : Nat
  header : List Byte
  body : List Byte
  marks : List Bool
  count : Nat
  adv : Option IntSt
  lastOf : Option Nat
  notice : Option Nat
  peak : Option (Nat × Nat)
  deriving DecidableEq, Repr

/-- The Basin beside its page. -/
structure BasSt where
  waiting : List Buf := []
  copying : Option Buf := none
  cbs : List Buf := []
  /-- Sweeps and logical engines whose buffer is committed, or resolved without replay. -/
  done : List (SweepKey × Nat) := []
  pend : List Pend := []
  /-- Physical engines whose buffers are rejected with cause FAILED (R196). -/
  failed : List Nat := []
  slices : List Assembly := []
  /-- Blocks of sweeps that are zeroed contributions (R198), and those of them that must be written as a first commit once
  the finisher has left their channel (R216, R217). -/
  zeroed : List (SweepKey × Nat) := []
  zeroLater : List (SweepKey × Nat) := []
  /-- Buffers whose commit follows a sweep of an earlier pass that is still pending, in their order (R214). -/
  late : List Buf := []
  masks : List MaskSlot := []
  /-- Channel-passes accepted and not yet released. -/
  accepted : List (Nat × Nat) := []
  /-- Integrations being accumulated, and those with the finisher, oldest first. -/
  ints : List IntSt := []
  fin : List IntSt := []
  pkt : Option PktPend := none
  /-- Channel-passes begun and not accepted, oldest first. -/
  begun : List (Nat × Nat) := []
  deriving DecidableEq, Repr


/-- The weights and exponents of one beamformed channel-pass in the engines' banks (R237 to R239): entries by
β × N_b + i, exponents by β, and the beam sets whose read met poison. -/
structure WtBank where
  pass : Nat
  chan : Nat
  w : List (Int × Int)
  exps : List Int
  poison : List Nat
  deriving DecidableEq, Repr

/-- An open power bin of one record (R246): integration, channel, bin, record, (sum, error) binary32 pairs per
component, whether a term has been taken, its valid samples, and the samples gone by. -/
structure BinSt where
  seq : Nat
  chan : Nat
  tb : Nat
  recNo : Nat
  comps : List (Nat × Nat)
  started : Bool
  weight : Nat
  seen : Nat
  deriving DecidableEq, Repr

/-- A candidate kept by the peak finder (R251, R252): value as read (binary32 or uint32), weight, position. -/
structure Peak where
  value : Nat
  weight : Nat
  who : Nat
  chan : Nat
  time : Nat
  deriving DecidableEq, Repr

/-- The beam combiner and the peak finder beside their pages. -/
structure BeamSt where
  cur : Option WtBank := none
  free : Option WtBank := none
  loading : Option (Nat × Nat) := none
  /-- Units of the bank in use are being read again for an engine that has taken up a logical engine (R241, R270). -/
  reload : Bool := false
  /-- Beam sets whose samples are invalid with cause FAIL in the present channel-pass (R241). -/
  failSets : List Nat := []
  /-- BV8 samples of the sweep in progress, by β × 2^21 + t, as I + 256 × Q; flushed at the sweep's end. -/
  volts : SMap Nat := []
  bins : List BinSt := []
  /-- Passes whose voltage notice is due (R244), and whether each was skipped. -/
  notices : List (Nat × Bool) := []
  /-- FLAGS gathered per pass, per integration, and per channel of an integration (by seq × 2^24 + channel) (R249). -/
  passFlags : SMap Nat := []
  intFlags : SMap Nat := []
  chanFlags : SMap Nat := []
  /-- Skipped passes whose zero bins wait for the finisher (R246, R247). -/
  zeroBinsLater : List Nat := []
  /-- Passes skipped, whose voltage half is released at once (R243). -/
  skipped : List Nat := []
  /-- The best candidates of each integration in rank order, and the integrations in which a change of source cleared the
  list (R252, R254). -/
  peaks : SMap (List Peak) := []
  partials : List Nat := []
  /-- Re sums and weights of the products (i, i) of channel-passes not accepted (R251): pass, channel, input. -/
  autos : List ((Nat × Nat × Nat) × (Nat × Nat)) := []
  deriving DecidableEq, Repr

/-- A context record as the Fallow holds it (R261): logical slot, pass, next fine channel, logical engine, mode, π, S, w and u
of the round that comes next, n_r, d, the first context or unit, the weight bank, the first unit of the next beamformed
channel, and its CRC-32C. -/
structure CtxRec where
  slot : Nat
  pass : Nat
  nextChan : Nat
  logical : Nat
  mode : Nat
  pi : Nat
  s : Nat
  w : Nat
  u : Nat
  nr : Nat
  d : Nat
  first : Nat
  wtBank : Nat
  nextUnit : Nat
  crc : Nat
  deriving DecidableEq, Repr

/-- A group supervisor beside its page. Times are frame ticks. -/
structure GsvSt where
  /-- The physical slot of the group's Fallow, if it has one (R258, R264, R270). -/
  fallow : Option Nat := some 8
  recs : List CtxRec := []
  /-- Logical slot and physical slot of a takeover that is scheduled (R265). -/
  takeover : Option (Nat × Nat) := none
  /-- Times of the last two reverts, and of the last sign, per physical slot (R270, R271). -/
  reverts : SMap (List Nat) := []
  lastSign : SMap Nat := []
  /-- What each physical slot bore before it failed: logical slot + 1, 0 for nothing (R270). -/
  bore : SMap Nat := []
  deriving DecidableEq, Repr


/-- The PCI Express function beside the PCIE page: configuration registers software writes (R349, R350, R353, R360,
R366) and whether the restore of step 5 has been made since POR (R351). `errEn` and `errSeen` are the four reporting enables and
the four error bits of Device Control and Status, `aer…` the AER registers (R350), of which the header log holds four dwords. -/
structure PcieSt where
  restored : Bool := false
  perst : Bool := false
  up : Bool := false
  bme : Bool := false
  memEn : Bool := false
  msixEn : Bool := false
  funcMask : Bool := false
  d3hot : Bool := false
  bar0 : Nat := 0
  bar2 : Nat := 0
  /-- log2 of the BAR2 size in GiB (R360: 16 GiB). -/
  bar2Exp : Nat := 4
  maxPayload : Nat := 128
  maxRead : Nat := 512
  tag10 : Bool := false
  errEn : Nat := 0
  errSeen : Nat := 0
  /-- Completion timeout: the range code, and whether it is disabled (R350). -/
  timeout : Nat := 0
  noTimeout : Bool := false
  ltr : Bool := false
  /-- ASPM L1 enabled, and the enables of the L1 substates. -/
  aspm : Bool := false
  l1ss : Nat := 0
  /-- Lanes in use since the link trained, and the lanes that L0p leaves in use, 0 where it does not narrow the link (R350). -/
  width : Nat := 0
  l0p : Nat := 0
  aerUnc : Nat := 0
  aerUncMask : Nat := 0
  aerUncSev : Nat := 0x462030
  aerCor : Nat := 0
  aerCorMask : Nat := 0x2000
  aerHdr : List Nat := [0, 0, 0, 0]
  /-- Dwords of the data object that the host is writing to the DOE mailbox, and that it grew too long (R367). -/
  doe : List Nat := []
  doeErr : Bool := false
  deriving DecidableEq, Repr

/-- A field of the freeze snapshot: its page is frozen while PG_CTL.FREEZE is 1 (R377). -/
structure SnapSt where
  /-- Latched counter fields, by field key. -/
  vals : SMap Nat := []
  /-- Pages frozen by the ACC snapshot and not broken away from it (R433). -/
  byAcc : List Nat := []
  /-- A page has broken away from the ACC snapshot held. -/
  broken : Bool := false
  deriving DecidableEq, Repr

/-- The Tarn beside its pages: the frame tick that the SYNC grid counts from and a realign that is pending (R393, R394); the
last sample of each group of QL pins (R382); pairs of references that have disagreed, and the measurements on which each has
agreed since (R385); the references before and
after a switch in progress, with the build-out and phase setpoint before it (R387), and whether its build-out is taken (R386); updates within bounds in ACQUIRE, and whether it was
entered from FREERUN or HOLDOVER; milliseconds in LOCKED since its entry, the codes averaged, latest first (R388, R390);
LOCKED milliseconds since the last hourly save; OSC_IN present again (R380); references that have become eligible during the
switch in progress (R387); thousandths of a picosecond of slew not yet worked off, the phase setpoint of the loop in ps, and
whether the code in force holds the offset of a step in HOLDOVER (R391); the phases of the CLKOUT dividers at the last realign, in
ROOT_CLK cycles, where they are not 0 (R392). -/
structure TarnSt where
  syncBase : Nat := 0
  realign : Bool := false
  qlLast : SMap Nat := []
  apart : List (Nat × Nat) := []
  agreeing : SMap Nat := []
  switch : Option (Nat × Nat) := none
  built : Bool := false
  inBounds : Nat := 0
  acquiring : Bool := false
  lockedMs : Nat := 0
  codes : List Nat := []
  saveMs : Nat := 0
  oscBack : Bool := false
  fresh : List Nat := []
  slew : Nat := 0
  before : Nat × Int := (0, 0)
  setpoint : Int := 0
  slewing : Bool := false
  clkBase : SMap Nat := []
  deriving DecidableEq, Repr

/-- The time of day beside its page: seconds, nanoseconds in units of half a nanosecond (R399), how much of the frame period
in progress has been counted, commands pending (R400), and the captures of each path by path code (R401). -/
structure TodSt where
  sec : Nat := 0
  half : Nat := 0
  ahead : Nat := 0
  load : Bool := false
  align : Bool := false
  capNs : SMap Nat := []
  capSec : SMap Nat := []
  deriving DecidableEq, Repr

/-- The TUNE DAC beside its page: the code last written, the fault conditions present, and whether the output waits for a
write at zero scale (R396, R397). -/
structure TuneSt where
  code : Nat := 0
  faults : List Nat := []
  waits : Bool := true
  deriving DecidableEq, Repr

/-- The Wells and the mailbox beside their pages: Well A has passed its test and waits to take control back (R277); the
mailbox command in progress (R372), and what it waits for: how the save it asked for ended, how the test did. -/
structure WellSt where
  takeback : Bool := false
  op : Option Nat := none
  saved : Option Bool := none
  tested : Option Bool := none
  deriving DecidableEq, Repr

/-- Boot flash and trust: the images of the two slots (R419, R424), the one the Wells run, whether the key SRAM holds keys
(R425), the record banks as bytes from offset 0 (R420), a save in progress with its bank and bytes, and a subsystem
identity that waits for POR (R422). What slot 0 holds at first is
the board's (DESIGN CHOICE): a good image. -/
structure FlashSt where
  slot0 : Option Img := some ⟨0x01000000, 1, 0, true⟩
  slot1 : Option Img := none
  running : Option Img := none
  keys : Bool := false
  bank0 : List Byte := []
  bank1 : List Byte := []
  saving : Option (Nat × List Byte) := none
  subsys : Option Nat := none
  deriving DecidableEq, Repr

/-- Power and reset beside their pages: the state a transition in progress leads to (R409), the domains that a switch in
progress leads to (R404), the channels whose training has been tried since their domain came on (R302, R414), and VDD_CORE (R455, R456): the
setpoint last acknowledged and last sent in millivolts, and the frame tick of the last lowering, if any; no bring-up has completed
and no PERST# come since POR (R317). -/
structure PwrSt where
  trans : Option Nat := none
  target : Option Nat := none
  trained : List Nat := []
  avsAcked : Nat := 800
  avsSent : Nat := 800
  avsLowered : Option Nat := none
  /-- The setpoint sent last is not acknowledged (R455). -/
  avsOpen : Bool := false
  /-- The links that the exit from IDLE in progress woke (R410). -/
  woken : List Nat := []
  cold : Bool := true
  deriving DecidableEq, Repr

/-- A burst of a MOVE (R329, R330): the bytes of one read of the source, or of one write of the destination, from byte `off` of the
MOVE, at an address of a space (0 DRAM, 1 HOST, 2 PSRAM, 6 ESRAM), and whether PCIE_OUT refused its read (R336). -/
structure Burst where
  off : Nat
  len : Nat
  space : Nat
  addr : Nat
  refused : Bool
  deriving DecidableEq, Repr

/-- A MOVE in progress: reads of its source not yet granted, reads granted and waiting for their data, the stretches of its
destination as space, address and length in ascending order, the bytes written of them, the bytes in the funnel that wait for the
rest of their write, each with its poison, whether it counts in the CRC, whether it runs in overlap mode and
copies downwards, and then the bytes that have come so far in ascending order; what it adds to SP and DP at its end. -/
structure Move where
  todo : List Burst
  reads : List Burst
  dst : List (Nat × Nat × Nat)
  written : Nat
  funnel : List (Byte × Bool)
  crc : Bool
  overlap : Bool
  down : Bool
  held : List Byte
  spInc : Nat
  dpInc : Nat
  deriving DecidableEq, Repr

/-- A write that failed, its response not yet handled (R334, R335): PC of the MOVE, space, address, cause, and whether the
MOVE has completed. -/
structure WErr where
  pc : Nat
  space : Nat
  addr : Nat
  cause : Nat
  late : Bool
  deriving DecidableEq, Repr

/-- A DMA channel beside its page: fetched instructions by address, active loops innermost first (address of the body, its
end, iterations left or none), CRC register with whether a byte is covered and its POISON, the MOVE in progress, failed
writes, the last dword written to HOST since the last FLUSH, the code it stops with (0 for STOP), whether a late error is to
stop it after the instruction it executes, whether the SIGNAL at PC has begun, whether its FLUSH waits for the completion of a HOST
read (1) or has got an error response for it (2), the FAB_CLK cycles of the WAIT at PC so far (none before its first read), and its
age (R329). -/
structure DmaCh where
  buf : List (Nat × List Byte) := []
  loops : List (Nat × Nat × Option Nat) := []
  crc : BitVec 32 := 0xFFFFFFFF#32
  covered : Bool := false
  crcPoison : Bool := false
  move : Option Move := none
  werrs : List WErr := []
  hostLast : Option Nat := none
  stop : Nat := 0
  late : Bool := false
  signalling : Bool := false
  flush : Nat := 0
  waited : Option Nat := none
  age : Nat := 0
  /-- STOP_ALL has stopped it. -/
  all : Bool := false
  deriving DecidableEq, Repr

/-- The DMA: its channels, and the channel last granted at each level (level 4: among the aged). -/
structure DmaSt where
  chans : SMap DmaCh := []
  last : SMap Nat := []
  deriving DecidableEq, Repr

/-- The bus matrix: the master port granted last by target port and class (8 × target port + class), and the one a target
port has granted last, each as its port number + 1. A target port is 2 × target, + 1 for port P1 of a controller. -/
structure MxSt where
  last : SMap Nat := []
  park : SMap Nat := []
  deriving DecidableEq, Repr


/-- An arm of a page in progress beside its arm group: target, boundary chosen at acceptance, level (0 frame, 1 pass,
2 integration), written after the device arm for its target (R38), and how many sets were in force when it was checked. -/
structure ArmSt where
  target : Nat := 0
  due : Nat := 0
  level : Nat := 0
  after : Bool := false
  sets : Nat := 0
  deriving DecidableEq, Repr

/-- The arms: by page base, the partners of the device arm in progress, the E_x and E_b of a re-plan in progress, the targets
of device arms written, each with the frame tick of the write (R38), and how often the sets in force have changed (R39). -/
structure ArmsSt where
  pages : SMap ArmSt := []
  parts : List Page := []
  replan : Option (Nat × Nat) := none
  armed : List (Nat × Nat) := []
  gen : Nat := 0
  deriving DecidableEq, Repr

/-- The device. -/
structure State where
  dev : Dev := {}
  /-- The commands that are waiting, first in, first out. -/
  pending : List Instr := []
  /-- Register fields by key (`Sys2Proof.Machine.Fld.key`); an unlisted one holds its reset value. -/
  regs : SMap Nat := []
  /-- _HI read latches and _LO staging registers per path and pair (R5, R6, R471), and pages opened by PG_KEY (R9). -/
  latch : SMap Nat := []
  staged : SMap Nat := []
  opened : List Nat := []
  /-- Extreme fields that hold a value (R469). -/
  exts : List Nat := []
  snap : SnapSt := {}
  /-- Words of table windows, of the MSI-X table and PBA, of the program SRAM and of the event ring, by BAR0 offset. -/
  tables : SMap Nat := []
  /-- Table words whose storage holds poison (R133, R237). -/
  tabPoison : List Nat := []
  /-- Sets in force by frame (R32), latest first, and device configurations, latest first. -/
  actives : List ActSet := []
  cfgs : List Cfg := []
  /-- The event queue of R438, and the events dropped since the last recorded entry (R436). -/
  evq : List Ev := []
  evLoss : Nat := 0
  /-- What has left the device, latest first. -/
  out : List Out := []
  /-- Free values used so far: the model's own field. -/
  freeCtr : Nat := 0
  /-- Frame ticks since POR (R85), the model's clock for intervals. -/
  ticks : Nat := 0
  lanes : SMap LaneSt := []
  links : SMap LinkSt := []
  arr : ArrSt := {}
  dly : DlySt := {}
  chn : ChnSt := {}
  dram : DramSt := {}
  mere : MereSt := {}
  sward : SwardSt := {}
  bas : BasSt := {}
  beam : BeamSt := {}
  gsvs : SMap GsvSt := []
  arms : ArmsSt := {}
  pcie : PcieSt := {}
  tarn : TarnSt := {}
  tod : TodSt := {}
  tune : TuneSt := {}
  well : WellSt := {}
  flash : FlashSt := {}
  pwr : PwrSt := {}
  dma : DmaSt := {}
  mx : MxSt := {}
  /-- THERMTRIP_N driven low (R465). -/
  thermtrip : Bool := false
  deriving DecidableEq, Repr

/-- The device right after POR, with nothing waiting. -/
def State.reset : State := {}

end Sys2Proof.Machine
end

