-- ==== Sys2Proof/Machine/Ops.lean ====
section
/-! DEFINITION. The named operations every block shares: register fields and their reset values, page lookup, interrupts
and MSI-X messages (R365, R366, R376), error recording (R376, R434), the event queue (R438), free values, frame-sequence
compares (R31, R94), bytes and CRC-32C (R15), and clearing by reset class (R12). -/

namespace Sys2Proof.Machine

/-- The key under which `State.regs` holds a field: 64 bits of room per register offset. -/
def Fld.key (f : Fld) : Nat := f.off * 64 + f.lo

/-- 2^32 and 2^48, the moduli of the counters (R10). -/
def m32 : Nat := 4294967296
def m48 : Nat := 281474976710656

/-- The register page that holds a BAR0 offset, present on the ordering code or not (R378). -/
def pageAt (off : Nat) : Option Page :=
  PageKind.all.findSome? (fun k =>
    if off < k.base0 then none
    else if k.stride = 0 then (if off < k.base0 + 0x1000 then some ⟨k, 0⟩ else none)
    else if off < k.base0 + k.stride * k.countF then some ⟨k, (off - k.base0) / 0x1000⟩ else none)

/-- The first word of a page is the header, which ends at 0x03F (R374). -/
def headerEnd : Nat := 0x40

/-- The table row of the register at an offset of a page, with the row's base (0, or the arm group's). A _HI register
finds the row of its pair (R5). -/
def regRow (k : PageKind) (rel : Nat) : Option (Nat × RegDesc) :=
  let hit (b : Nat) (r : RegDesc) : Bool := decide (b + r.off = rel) || (r.pair && decide (b + r.off + 4 = rel))
  if rel < headerEnd then (hdrRegs.find? (hit 0)).map (fun r => (0, r))
  else
    match armOffset k with
    | some a =>
      if a ≤ rel ∧ rel < a + 0x20 then (armRegs.find? (hit a)).map (fun r => (a, r))
      else ((blockRegs k).find? (hit 0)).map (fun r => (0, r))
    | none => ((blockRegs k).find? (hit 0)).map (fun r => (0, r))

/-- The reset class of the field of a register row on a page (R12; R374 for the AON headers). -/
def rowClass (p : Page) (rel : Nat) (r : RegDesc) : RCls :=
  if rel < headerEnd ∧ p.aon = true ∧ r.cls ≠ .N then .P else r.cls

/-- The reset values that depend on the page, the ordering code or the device (class N, and the tables' footnotes). -/
def resetOverride (d : Dev) (p : Page) (rel lo : Nat) : Option Nat :=
  let f := d.code = .f
  match p.kind, rel, lo with
  | _, 0x0, 0 => some 1
  | _, 0x0, 8 => some p.instanceField
  | _, 0x0, 16 => some p.kind.type
  | _, 0x4, 0 => some (if p.kind = .dma ∨ p.kind = .dmach then 33
      else if p.kind = .trn0 ∨ p.kind = .trn1 ∨ p.kind = .trn2 then 3
      else if p.kind = .chn0 ∨ p.kind = .chn1 then 2 else p.kind.count d.code)
  | _, 0x4, 8 => some 1
  | .id, 0x40, 16 => some (if f then 1 else 2)
  | .id, 0x40, 20 => some d.stepping
  | .id, 0x44, 0 => some (if f then 72 else 36)
  | .id, 0x44, 8 => some (if f then 8 else 4)
  | .id, 0x44, 16 => some (if f then 64 else 32)
  | .id, 0x48, _ => some (if f then 64 else 32)
  | .id, 0x4c, 0 => some (if f then 4 else 2)
  | .id, 0x4c, 4 => some (if f then 8 else 4)
  | .id, 0x4c, 8 => some (if f then 64 else 32)
  | .id, 0x4c, 16 => some (if f then 128 else 64)
  | .id, 0x54, 0 => some d.serial
  | .pwr, 0x48, 0 => some (if f then 0xFFFFF else 0xB0F9F)
  | .eng, 0x48, 8 => some (p.inst % 9)
  | .eng, 0x48, 12 => some (p.inst / 9)
  | .gsv, 0x54, n => some (n / 4)
  | .map, 0xf8, 16 => some (if f then 64 else 128)
  | .mx, 0x44, 2 => some (if f then 0 else 1)
  | .trn1, 0x60, 4 => some 1
  | .trn1, 0x80, 4 => some 2
  | .fuse, 0x40, 0 => some 0
  | .fuse, 0x44, 0 => some d.keyRevoked
  | .fuse, 0x44, 4 => some (if d.dbgPermClosed then 1 else 0)
  | .fuse, 0x44, 8 => some d.minFwVer
  | _, _, _ => none

/-- The reset value of a field (Reset column of its field table). -/
def resetOf (d : Dev) (f : Fld) : Nat :=
  match pageAt f.off with
  | none => 0
  | some p =>
    let rel := f.off - p.base
    match resetOverride d p rel f.lo with
    | some v => v
    | none =>
      match regRow p.kind rel with
      | none => 0
      | some (_, r) =>
        match r.fields.find? (fun x => decide (x.lo = f.lo)) with
        | some x => x.rst
        | none => 0

/-- The value a field holds. -/
def State.fld (s : State) (f : Fld) : Nat := s.regs.get (resetOf s.dev f) f.key

/-- The state with a field's value replaced, cut to the field's width. -/
def State.setFld (s : State) (f : Fld) (v : Nat) : State :=
  { s with regs := s.regs.put (resetOf s.dev f) f.key (v % 2 ^ f.w) }

/-- A field read as a flag. -/
def State.bit (s : State) (f : Fld) : Bool := s.fld f != 0

/-- A flag set to a truth value. -/
def State.setBit (s : State) (f : Fld) (b : Bool) : State := s.setFld f (if b then 1 else 0)

/-- A counter advanced, wrapping at its width (R10). -/
def State.addFld (s : State) (f : Fld) (n : Nat) : State := s.setFld f (s.fld f + n)

/-- A present-state count reduced. -/
def State.subFld (s : State) (f : Fld) (n : Nat) : State := s.setFld f (s.fld f - n)

/-- A largest-value field (R469: an empty one takes the first value). -/
def State.maxFld (s : State) (f : Fld) (v : Nat) : State :=
  if f.key ∈ s.exts then s.setFld f (max (s.fld f) v)
  else { s.setFld f v with exts := f.key :: s.exts }

/-- A smallest-value field (R469). -/
def State.minFld (s : State) (f : Fld) (v : Nat) : State :=
  if f.key ∈ s.exts then s.setFld f (min (s.fld f) v)
  else { s.setFld f v with exts := f.key :: s.exts }

/-- A signed value in a field of its width. -/
def sgn (w v : Nat) : Int := if v < 2 ^ (w - 1) then (v : Int) else (v : Int) - (2 : Int) ^ w

/-- The residue of an integer in a field of a width. -/
def unsgn (w : Nat) (v : Int) : Nat := (v % (2 : Int) ^ w).toNat

/-- A field of two's complement. -/
def State.sfld (s : State) (f : Fld) : Int := sgn f.w (s.fld f)

/-- The signed difference a − b of two sequence numbers modulo 2^w (R31, R94). -/
def seqDiff (w a b : Nat) : Int := sgn w ((a + 2 ^ w - b % 2 ^ w) % 2 ^ w)

/-- a lies at or after b, by signed 32-bit difference of the low 32 bits (R31). -/
def after32 (a b : Nat) : Bool := decide (0 ≤ seqDiff 32 a b)

/-- The next free value, taken modulo m. -/
def State.free (s : State) (m : Nat) : Nat × State :=
  (Config.freeNat s.freeCtr % m, { s with freeCtr := s.freeCtr + 1 })

/-- The stored value of the register at an offset, as its fields hold it (reserved bits 0, R7); of a pair, all 64
bits. -/
def State.regValue (s : State) (off : Nat) : Nat :=
  match pageAt off with
  | none => 0
  | some p =>
    match regRow p.kind (off - p.base) with
    | none => 0
    | some (b, r) => (r.fields.map (fun x => s.fld ⟨p.base + b + r.off, x.lo, x.w⟩ * 2 ^ x.lo)).sum

/-- ARR.NOW. -/
def State.now (s : State) : Nat := s.fld R.ARR_NOW

/-- The one page of a kind that has a single page. -/
def pg (k : PageKind) : Page := ⟨k, 0⟩

/-- The power domain of a page is on (R403). -/
def State.domOn (s : State) (d : Nat) : Bool := (s.fld R.PWR_DOM_STAT_ON).testBit d

/-- A unit of a kind exists on the ordering code (R2). -/
def State.has (s : State) (p : Page) : Bool := p.present s.dev.code

/-- Lanes, links, groups and controllers of the ordering code. -/
def State.nLanes (s : State) : Nat := PageKind.slk.count s.dev.code
def State.nGroups (s : State) : Nat := PageKind.gsv.count s.dev.code
def State.nMc (s : State) : Nat := PageKind.mc.count s.dev.code

/-- ST.STATE.READY. -/
def State.ready (s : State) : Bool := s.bit R.ST_STATE_READY

/-- A run is active. -/
def State.running (s : State) : Bool := s.bit R.XS_STAT_RUN

/-! ### Interrupts and MSI-X -/

/-- What an unlisted word of a table window, or of the MSI-X structures, holds: 0, but for the Mask bit of an MSI-X
vector, which is 1 (PRESUMED: PCI Express defines the reset value of Vector Control). -/
def tabDefault (off : Nat) : Nat := if 0x3D0000 ≤ off ∧ off < 0x3D8000 ∧ off % 16 = 12 then 1 else 0

/-- A word of a table window. -/
def State.tab (s : State) (off : Nat) : Nat := s.tables.get (tabDefault off) off

/-- A word of a table window replaced. -/
def State.setTab (s : State) (off v : Nat) : State :=
  { s with tables := s.tables.put (tabDefault off) off (v % m32) }

/-- Something leaves the device. -/
def State.emit (s : State) (o : Out) : State := { s with out := o :: s.out }

/-- The MSI-X vector is masked, by its own Mask bit, by Function Mask or by Bus Master Enable at 0; in D3hot messages
are held in the same way (R366, R353). -/
def State.msixHeld (s : State) (v : Nat) : Bool :=
  (s.tab (0x3D0000 + 16 * v + 12)).testBit 0 || s.pcie.funcMask || !s.pcie.bme || s.pcie.d3hot

/-- The pending bit of a vector. -/
def State.pba (s : State) (v : Nat) : Bool := (s.tab (0x3D8000 + 4 * (v / 32))).testBit (v % 32)

/-- A bit of a number set to a truth value. -/
def putBit (n i : Nat) (b : Bool) : Nat := if n.testBit i then (if b then n else n - 2 ^ i) else (if b then n + 2 ^ i else n)

/-- The pending bit of a vector set or cleared. -/
def State.setPba (s : State) (v : Nat) (b : Bool) : State :=
  let o := 0x3D8000 + 4 * (v / 32)
  s.setTab o (putBit (s.tab o) (v % 32) b)

/-- The message of a vector, as its table entry gives it. -/
def State.msixMsg (s : State) (v : Nat) : Out :=
  .msix v (s.tab (0x3D0000 + 16 * v) + m32 * s.tab (0x3D0000 + 16 * v + 4)) (s.tab (0x3D0000 + 16 * v + 8))

/-- One message on a vector, or its pending bit (R365, R366). -/
def State.sendMsix (s : State) (v : Nat) : State :=
  if s.pcie.msixEn then (if s.msixHeld v then s.setPba v true else s.emit (s.msixMsg v)) else s

/-- The interrupt request of a page (R365). -/
def State.irqReq (s : State) (p : Page) : Bool := (s.fld (R.PG_IRQ_RAW p) &&& s.fld (R.PG_IRQ_EN p)) != 0

/-- After a change of a page's RAW or EN: a request that rose sends one message (R365). -/
def State.irqEdge (old s : State) (p : Page) : State :=
  if !(old.irqReq p) && s.irqReq p then s.sendMsix (s.fld (R.PG_IRQ_VEC_VECTOR p) % 2048) else s

/-- A source event of a page (R376). -/
def State.raise (s : State) (p : Page) (n : Nat) : State :=
  State.irqEdge s (s.setFld (R.PG_IRQ_RAW p) (putBit (s.fld (R.PG_IRQ_RAW p)) n true)) p

/-! ### Events and errors -/

/-- The page index of the event entries (R436). -/
def pageSource (p : Page) : Nat := p.base / 4096

/-- The event log, its page and its counters. -/
def evtPg : Page := pg .evt

/-- An event dropped: counted and flagged (R439, R442). -/
def State.dropEvent (s : State) : State :=
  let s := s.addFld R.EVT_GEN 1
  let s := s.addFld R.EVT_DROPPED 1
  let s := s.setFld R.EVT_STAT_DROPPED 1
  State.raise { s with evLoss := min 255 (s.evLoss + 1) } evtPg 1

/-- An event raised: it enters the queue of 64, or is dropped when the queue is full (R438). -/
def State.event (s : State) (e : Ev) : State :=
  if s.evq.length < 64 then { s with evq := s.evq ++ [e] } else s.dropEvent

/-- An event put among others in ascending SOURCE and then ascending CODE. -/
def insertEv (e : Ev) : List Ev → List Ev
  | [] => [e]
  | x :: t => if e.source < x.source ∨ (e.source = x.source ∧ e.code < x.code) then e :: x :: t else x :: insertEv e t

/-- What happens in one cycle: its events enter the queue in ascending SOURCE and then ascending CODE (R438). -/
def State.oneCycle (s : State) (k : State → State) : State :=
  let t := k { s with evq := [] }
  (t.evq.foldl (fun l e => insertEv e l) []).foldl State.event { t with evq := s.evq }

/-- An informational event of a page (R435). -/
def State.info (s : State) (p : Page) (low : Nat) (label : Option Nat) (a0 a1 a2 a3 : Nat) : State :=
  s.event ⟨p.kind.type * 256 + low, pageSource p, label, a0 % m32, a1 % m32, a2 % m32, a3 % m32, none⟩

/-- An error recorded by a page (R376, R434): counted always, kept while VALID is 0, and logged as an event; `tile` is the
SOURCE_ID of the tile that it concerns. -/
def State.tileError (s : State) (p : Page) (code pass chan : Nat) (label tile : Option Nat) : State :=
  let s := s.addFld (R.PG_ERR_CNT_COUNT p) 1
  let s := if s.bit (R.PG_ERR_CODE_VALID p) then s
    else ((s.setFld (R.PG_ERR_CODE_CODE p) code).setFld (R.PG_ERR_CODE_VALID p) 1).setFld (R.PG_ERR_SEQ_FRAME p) s.now
  s.event ⟨p.kind.type * 256 + code, pageSource p, label, s.fld (R.PG_ERR_CNT_COUNT p), pass % m32, chan % m32, 0, tile⟩

/-- An error that concerns no tile of a link. -/
def State.error (s : State) (p : Page) (code pass chan : Nat) (label : Option Nat) : State := s.tileError p code pass chan label none

/-! ### Bytes and checksums -/

/-- The n bytes of a number, least significant first. -/
def leBytes : Nat → Nat → List Byte
  | 0, _ => []
  | n + 1, v => BitVec.ofNat 8 v :: leBytes n (v / 256)

/-- The number that bytes spell, least significant first. -/
def leNat : List Byte → Nat
  | [] => 0
  | b :: t => b.toNat + 256 * leNat t

/-- The n bytes from an offset of a byte list; bytes past the end are zero. -/
def sliceBytes (bs : List Byte) (off n : Nat) : List Byte :=
  let t := (bs.drop off).take n
  t ++ List.replicate (n - t.length) 0

/-- A little-endian number within a byte list. -/
def leAt (bs : List Byte) (off n : Nat) : Nat := leNat (sliceBytes bs off n)

/-- One bit of the reflected CRC-32C division. -/
def crcBit (c : BitVec 32) : BitVec 32 := if c.getLsbD 0 then (c >>> 1) ^^^ 0x82F63B78#32 else c >>> 1

/-- Eight steps of the division. -/
def crcByteStep (c : BitVec 32) : BitVec 32 :=
  crcBit (crcBit (crcBit (crcBit (crcBit (crcBit (crcBit (crcBit c)))))))

/-- The CRC register after some bytes, from a start value (R15: polynomial 0x1EDC_6F41, reflected). -/
def crcRun (c : BitVec 32) (bs : List Byte) : BitVec 32 :=
  bs.foldl (fun c b => crcByteStep (c ^^^ b.zeroExtend 32)) c

/-- CRC-32C of a byte string (R15). -/
def crc32c (bs : List Byte) : Nat := (crcRun 0xFFFFFFFF#32 bs ^^^ 0xFFFFFFFF#32).toNat

/-- The quotient of two numbers, rounded up. -/
def ceilDiv (a b : Nat) : Nat := (a + b - 1) / b

/-- The number of set bits of v below a width. -/
def popCount : Nat → Nat → Nat
  | 0, _ => 0
  | w + 1, v => v % 2 + popCount w (v / 2)

/-! ### Clearing by reset class -/

/-- The reset class of the field that a key of `State.regs` names; the per-input counters of the 0x0118_0000 window are
of class P (R141). -/
def keyClass (k : Nat) : RCls :=
  match pageAt (k / 64) with
  | none => .P
  | some p =>
    match regRow p.kind (k / 64 - p.base) with
    | none => .P
    | some (_, r) => rowClass p (k / 64 - p.base) r

/-- The page of a key. -/
def keyPage (k : Nat) : Option Page := pageAt (k / 64)

/-- Register fields for which a test holds go back to their reset values. -/
def State.clearRegs (s : State) (t : Nat → Bool) : State :=
  { s with regs := s.regs.filter (fun e => !t e.1), exts := s.exts.filter (fun k => !t k) }

/-- The code under which latches, staging registers and open marks of a path are kept. -/
def pathCode : Path → Nat
  | .pcie => 0
  | .mspi => 1
  | .dma n => 2 + n
  | .well b => 34 + b

/-- The key of a latch, a staging register or an open mark: 2^26 offsets per path. -/
def pathKey (π : Path) (off : Nat) : Nat := pathCode π * 2 ^ 26 + off

/-- The latches, staging registers and open marks of the pages for which a test holds are cleared (R471); the latches of the
per-input counters (R141) go with page CHN1. -/
def State.clearPaths (s : State) (t : Page → Bool) : State :=
  let page (off : Nat) : Option Page := if 0x1180000 ≤ off ∧ off < 0x11E0000 then some (pg .chn1) else pageAt off
  let hit (k : Nat) : Bool := match page (k % 2 ^ 26) with | some p => t p | none => false
  { s with
    latch := s.latch.filter (fun e => !hit e.1)
    staged := s.staged.filter (fun e => !hit e.1)
    opened := s.opened.filter (fun k => !hit k) }

end Sys2Proof.Machine
end

