-- ==== Sys2Proof/Machine/Flags.lean ====
section
/-! DEFINITION. The access codes of R8 as functions on field values, register locks (R9) and the shadow sets that an
arm in progress holds (R30). -/

namespace Sys2Proof.Machine

/-- The value of a field after a write, by its access code (R8): `isOpen` is whether RWL fields of the page are open (R9).
WO and SC fields hold no written value: their action belongs to the register. -/
def applyAcc (a : Acc) (isOpen : Bool) (old v : Nat) : Nat :=
  match a with
  | .rw => v
  | .rwl => if isOpen then v else old
  | .w1c => old &&& (old ^^^ v)
  | .w1s => old ||| v
  | .ro | .wo | .sc | .rc => old

/-- RWL fields of a page are open for a path: the page is unlocked, or the path has opened it with PG_KEY (R9). -/
def State.rwlOpen (s : State) (π : Path) (p : Page) : Bool :=
  !(s.bit (R.PG_CTL_LOCK p)) || decide (pathKey π p.base ∈ s.opened)

/-- The open state of a page on a path ended (R9). -/
def State.closeKey (s : State) (π : Path) (p : Page) : State :=
  { s with opened := s.opened.filter (fun k => k != pathKey π p.base) }

/-- The arm group base of a page (R26). -/
def armBase (p : Page) : Option Nat := (armOffset p.kind).map (fun a => p.base + a)

/-- An arm of the page is CHECKING or PENDING (R30). -/
def State.armBusy (s : State) (p : Page) : Bool :=
  match armBase p with
  | some b => decide (s.fld (R.ARM_STATUS_STATE b) = 1) || decide (s.fld (R.ARM_STATUS_STATE b) = 2)
  | none => false

/-- The offsets in a page of its shadow registers: the registers named ..._SH of each page's table, the first of a
pair. -/
def shadowOffs : PageKind → List Nat
  | .lnk => [0x120, 0x124]
  | .arr => [0x120]
  | .dly => [0x40, 0x48, 0x58, 0x60]
  | .chn0 => [0x40, 0x48, 0x50]
  | .mere => [0x120, 0x128, 0x130]
  | .xs => [0x48, 0x50, 0x58]
  | .bm => [0x44, 0x4c, 0x54, 0x5c, 0x64, 0x7c, 0x84, 0x9c, 0xa4]
  | .bas => [0x48, 0x50, 0x58, 0x60]
  | .pk => [0x40, 0x48]
  | _ => []

/-- A shadow write that arrives during CHECKING or PENDING is dropped and flagged (R30). -/
def State.shadowHeld (s : State) (p : Page) (rel : Nat) : Bool :=
  decide (rel ∈ shadowOffs p.kind) && s.armBusy p

/-- SHADOW_BLOCKED set on a page's arm group. -/
def State.flagShadow (s : State) (p : Page) : State :=
  match armBase p with
  | some b => s.setFld (R.ARM_STATUS_SHADOW_BLOCKED b) 1
  | none => s

/-- The fields of a register row written in ascending order, by access code. -/
def writeFields (s : State) (p : Page) (isOpen : Bool) (off : Nat) (v : Nat) : List FieldDesc → State
  | [] => s
  | x :: t =>
    let f : Fld := ⟨off, x.lo, x.w⟩
    let new := applyAcc x.acc isOpen (s.fld f) (v / 2 ^ x.lo % 2 ^ x.w)
    writeFields (if new = s.fld f then s else s.setFld f new) p isOpen off v t

end Sys2Proof.Machine
end

