-- ==== Sys2Proof/Machine/Operands.lean ====
section
/-! DEFINITION. The access forms of host commands: which accesses of BAR0 are served, ignored or counted (R2, R7, R356 to
R359), and the byte enables. -/

namespace Sys2Proof.Machine

/-- The power domain of a table window (the page that owns it, R378), by BAR0 offset; none where no window lies. -/
def windowDomain (off : Nat) : Option Nat :=
  if 0x1000000 ≤ off ∧ off < 0x1058000 then some 7
  else if 0x1100000 ≤ off ∧ off < 0x11E8000 then some 7
  else if 0x1200000 ≤ off ∧ off < 0x1210000 then some 16
  else if 0x1220000 ≤ off ∧ off < 0x1240000 then some 16
  else if 0x1400000 ≤ off ∧ off < 0x1440000 then some 19
  else if 0x1800000 ≤ off ∧ off < 0x1820000 then some 0
  else none

/-- The MSI-X table and the PBA (R364), which are served before READY (R357). -/
def isMsix (off : Nat) : Bool := decide (0x3D0000 ≤ off ∧ off < 0x3D8100)

/-- Pages that the map names as reading zero beside the TRN and CHN pages (R378). -/
def zeroPage (off : Nat) : Bool :=
  decide (0x13000 ≤ off ∧ off < 0x14000) || decide (0xB2000 ≤ off ∧ off < 0xB4000)

/-- An access counted in ST and kept in LAST_ACCESS: kind 0 blocked, 1 unmapped, 2 partial (R356 to R358). -/
def State.countAccess (s : State) (π : Path) (off kind : Nat) (write : Bool) : State :=
  let c := if kind = 0 then R.ST_BLOCKED_CNT_COUNT else if kind = 1 then R.ST_UNMAPPED_CNT_COUNT else R.ST_PARTIAL_CNT_COUNT
  let s := s.addFld c 1
  let s := s.setFld R.ST_LAST_ACCESS_OFFSET off
  let s := s.setFld R.ST_LAST_ACCESS_KIND kind
  let s := s.setBit R.ST_LAST_ACCESS_MSPI (decide (π = .mspi))
  s.setBit R.ST_LAST_ACCESS_WRITE write

/-- How an access fares before it reaches its register. -/
inductive Gate where
  | served
  /-- An absent unit's page, or a page that reads zero: no count (R2, R378). -/
  | ignored
  | blocked
  | unmapped
  deriving DecidableEq, Repr

/-- The pages served before READY: ID and ST, and in STANDBY PWR and the other AON pages (R357, R408). -/
def State.early (s : State) (p : Page) : Bool :=
  p.kind == .id || p.kind == .st || (p.aon && decide (s.fld R.ST_STATE_DEV_STATE = 2))

/-- The gate an access passes (R2, R357, R358, R359). An absent page comes first, because accesses to it change no
counter (R2); READY comes before the map, because R357 speaks of any other offset. -/
def State.gate (s : State) (off : Nat) : Gate :=
  if isMsix off then .served
  else if zeroPage off then (if s.ready then .ignored else .blocked)
  else match pageAt off with
    | some p =>
      if !s.has p then .ignored
      else if !s.ready && !s.early p then .blocked
      else if !s.domOn p.domain && decide (headerEnd ≤ off - p.base) then .blocked
      else .served
    | none =>
      if !s.ready then .blocked
      else match windowDomain off with
        | some d => if s.domOn d then .served else .blocked
        | none => .unmapped

/-- An access that is not served: counted where the rules count it. -/
def State.turnAway (s : State) (g : Gate) (π : Path) (off : Nat) (write : Bool) : State :=
  match g with
  | .served | .ignored => s
  | .blocked => s.countAccess π off 0 write
  | .unmapped => s.countAccess π off 1 write

/-- The device is in POR: bring-up step 1 has not begun (R454, R417). -/
def State.inPor (s : State) : Bool := decide (s.fld R.ST_STATE_STEP = 0)

/-- Requests of a path reach the register fabric: those of the host not in D3hot, where they complete with UR (R353), nor
while PERST# is asserted, those of the management SPI port unless it is hung (R344) or held in POR (R454). -/
def State.reaches (s : State) (π : Path) : Bool :=
  match π with
  | .pcie => !s.pcie.d3hot && !s.pcie.perst
  | .mspi => !s.bit R.MX_STAT_MSPI_HUNG && !s.inPor
  | _ => true

/-- What a read returns on a path: on the PCIe path while its link is down the completion is discarded (R352). -/
def State.answer (s : State) (π : Path) (v : Nat) : State :=
  if π = .pcie ∧ s.pcie.up = false then s else s.emit (.rd π v)

/-- A read that does not reach the fabric: on the PCIe path in D3hot it completes with UR (R353), where the link carries it. -/
def State.readRefused (s : State) (π : Path) : State :=
  if π = .pcie ∧ s.pcie.d3hot = true ∧ s.pcie.perst = false ∧ s.pcie.up = true then s.emit .readUr else s

/-- A write of a whole dword to a register that has an effect of its own: the effect where the access is served, after
which the page closes on that path (R9). -/
def State.hostCmd (s : State) (π : Path) (off : Nat) (k : State → State) : State :=
  if s.reaches π then
    match s.gate off with
    | .served =>
      match pageAt off with
      | some p => (k s).closeKey π p
      | none => k s
    | g => s.turnAway g π off true
  else s

/-- A dword with some bytes replaced, by byte enables (R356). -/
def mergeBytes (old new be : Nat) : Nat :=
  (List.range 4).foldl (fun a i => a + 2 ^ (8 * i) * ((if be.testBit i then new else old) / 2 ^ (8 * i) % 256)) 0

end Sys2Proof.Machine
end

