-- ==== Sys2Proof/Machine/Check.lean ====
section
/-! DEFINITION. The check code of a DRAM word (spec/10 R291 to R293): RS(36,32) over GF(2^8), its check bytes, syndromes and
decoder, and the pattern of stored poison. -/

namespace Sys2Proof.Machine

/-! ### The field (R291: polynomial 0x11D, primitive element 0x02) -/

/-- The product with the primitive element α. -/
def gfDouble (a : Byte) : Byte := if a.getLsbD 7 then (a <<< 1) ^^^ 0x1D#8 else a <<< 1

/-- The product of two elements, the second a polynomial in α taken bit by bit from the lowest. -/
def gfMulBits : Nat → Byte → Byte → Byte
  | 0, _, _ => 0
  | n + 1, a, b => (if b.getLsbD 0 then a else 0) ^^^ gfMulBits n (gfDouble a) (b >>> 1)
def gfMul (a b : Byte) : Byte := gfMulBits 8 a b

/-- α^n. -/
def gfPow : Nat → Byte
  | 0 => 1
  | n + 1 => gfDouble (gfPow n)

/-! ### Code words -/

/-- The product of a polynomial, highest coefficient first, with x + r. -/
def polyTimesRoot (p : List Byte) (r : Byte) : List Byte := List.zipWith (· ^^^ ·) (p ++ [0]) (0 :: p.map (gfMul r))

/-- The generator polynomial, highest coefficient first: its roots are α^0 to α^3 (R291). -/
def checkGen : List Byte := [gfPow 0, gfPow 1, gfPow 2, gfPow 3].foldl polyTimesRoot [1]

/-- One step of the division by the generator: the four remainder bytes, highest first, and a data byte. -/
def checkStep (r : List Byte) (d : Byte) : List Byte :=
  let q := r.headD 0 ^^^ d
  List.zipWith (fun a g => a ^^^ gfMul q g) (r.drop 1 ++ [0]) (checkGen.drop 1)

/-- The four check bytes of a word, symbols 32 to 35. Symbol i is the coefficient of x^(35 − i) (DESIGN CHOICE: R291 names no
order of the coefficients). -/
def checkBytes (word : List Byte) : List Byte := word.foldl checkStep [0, 0, 0, 0]

/-- The syndromes of 36 symbols: their polynomial at α^0 to α^3. -/
def syndromes (symbols : List Byte) : List Byte :=
  [gfPow 0, gfPow 1, gfPow 2, gfPow 3].map (fun x => symbols.foldl (fun h c => gfMul h x ^^^ c) 0)

/-- The symbol at which an error in one symbol gives these syndromes, if any. -/
def errorSymbol (t : List Byte) : Option Nat :=
  match t with
  | [a, b, c, d] =>
    if a = 0 then none
    else (List.range 36).find? (fun i =>
      let x := gfPow (35 - i)
      b == gfMul a x && c == gfMul b x && d == gfMul c x)
  | _ => none

/-! ### What is stored, and what a read makes of it (R292, R293) -/

/-- The pattern that stored poison XORs onto the check bytes (R293: fixed in the silicon). -/
def poisonPattern : List Byte := (List.range 4).map Config.poisonPattern

/-- The error that a word's damage makes in a symbol. -/
def WordSt.errAt (x : WordSt) (i : Nat) : Byte :=
  x.errs.foldl (fun e y => if y.symbol = i then e ^^^ BitVec.ofNat 8 y.pattern else e) 0

/-- The symbols that differ from what was written. -/
def WordSt.damaged (x : WordSt) : Nat := ((List.range 36).filter (fun i => x.errAt i != 0)).length

/-- The 36 symbols the memory returns for a word that was written as 32 bytes. -/
def WordSt.raw (x : WordSt) (word : List Byte) : List Byte :=
  let check := if x.poison then List.zipWith (· ^^^ ·) (checkBytes word) poisonPattern else checkBytes word
  (word ++ check).zipIdx.map (fun c => c.1 ^^^ x.errAt c.2)

/-- How the read of a word ends. -/
inductive WOut where
  | clean
  | corrected (symbol : Nat)
  | poison
  | ue
  deriving DecidableEq, Repr

/-- The outcome of a read by its syndromes (R292). R293 guarantees that the poison pattern lies further than three symbols
from every code word, so that damage of up to three symbols, counted with the symbol a correction would change, never turns
a normal word into stored poison, nor stored poison into a word that reads clean or corrected. -/
def WordSt.outcome (x : WordSt) (word : List Byte) : WOut :=
  let t := syndromes (x.raw word)
  if x.poison && x.damaged == 0 then .poison
  else if x.poison && decide (x.damaged ≤ 2) then .ue
  else if t = [0, 0, 0, 0] then .clean
  else match errorSymbol t with
    | some i => .corrected i
    | none =>
      if (x.poison || decide (4 ≤ x.damaged)) && t == syndromes (List.replicate 32 0 ++ poisonPattern) then .poison else .ue

/-- The 32 bytes that a read delivers: as the memory returns them, with the symbol that is corrected put right. -/
def WordSt.delivered (x : WordSt) (word : List Byte) : List Byte :=
  let r := x.raw word
  match x.outcome word with
  | .corrected i => (r.zipIdx.map (fun c => if c.2 = i then c.1 ^^^ (syndromes r).headD 0 else c.1)).take 32
  | _ => r.take 32

end Sys2Proof.Machine
end

