-- ==== Sys2Proof/Machine/Dram.lean ====
section
/-! DEFINITION. Stacked memory beneath the areas (spec/10): the address map, reads with their outcomes, writes, the error
logs, correction tracking and the write-fault tables, and the commands of the controllers' request queues. -/

namespace Sys2Proof.Machine

/-! ### Places -/

/-- The place of a byte: physical channel, bank (4 × bank group + bank), row and byte within the row. -/
def mkPlace (chan bank row byte : Nat) : Nat := chan * 2 ^ 31 + bank * 2 ^ 27 + row * 2 ^ 11 + byte

def placeChan (p : Nat) : Nat := p / 2 ^ 31 % 64
def placeBank (p : Nat) : Nat := p / 2 ^ 27 % 16
def placeRow (p : Nat) : Nat := p / 2 ^ 11 % 65536
def placeWord (p : Nat) : Nat := p / 32 % 64

/-- The channel address decode of R283: the place of channel address ca of a channel, in an order (0 CHI, 1 BGF, 2 ROW). -/
def decodeCa (order chan ca : Nat) : Nat :=
  match order with
  | 0 => mkPlace chan (ca / 2048 % 4 * 4 + ca / 8192 % 4) (ca / 32768 % 65536) (ca % 2048)
  | 1 => mkPlace chan (ca / 64 % 4 * 4 + ca / 8192 % 4) (ca / 32768 % 65536) (ca / 256 % 32 * 64 + ca % 64)
  | _ => mkPlace chan (ca / 2 ^ 27 % 4 * 4 + ca / 2 ^ 29 % 4) (ca / 2048 % 65536) (ca % 2048)

/-- The channel address of a place in an order: the inverse of `decodeCa`. -/
def encodeCa (order p : Nat) : Nat :=
  let byte := p % 2048
  let row := placeRow p
  let bg := placeBank p / 4
  let bk := placeBank p % 4
  match order with
  | 0 => row * 32768 + bk * 8192 + bg * 2048 + byte
  | 1 => row * 32768 + bk * 8192 + byte / 64 * 256 + bg * 64 + byte % 64
  | _ => bk * 2 ^ 29 + bg * 2 ^ 27 + row * 2048 + byte

/-- R283: channel index and channel address of region offset o, over n channels. -/
def regionCa (order n cbase o : Nat) : Nat × Nat :=
  match order with
  | 0 => (o / 256 % n, cbase + o / 256 / n * 256 + o % 256)
  | 1 => (o / 2048 % n, cbase + o / 2048 / n * 2048 + o % 2048)
  | _ => (0, cbase + o)

/-- The region offset that a place has in a slice over some channels, if any. -/
def offsetIn (order : Nat) (chans : List Nat) (cbase p : Nat) : Option Nat :=
  match chans.idxOf? (placeChan p) with
  | none => none
  | some k =>
    let ca := encodeCa order p
    if ca < cbase then none
    else
      let r := ca - cbase
      match order with
      | 0 => some ((r / 256 * chans.length + k) * 256 + r % 256)
      | 1 => some ((r / 2048 * chans.length + k) * 2048 + r % 2048)
      | _ => some r

/-! ### Regions (R282 to R284) -/

/-- CSIZE, CBASE and BASE of a region, in bytes. -/
def State.rgnCsize (s : State) (r : Nat) : Nat := s.fld (R.MAP_RGN_SLICE_CSIZE r) * 2 ^ 20
def State.rgnCbase (s : State) (r : Nat) : Nat := s.fld (R.MAP_RGN_SLICE_CBASE r) * 2 ^ 20
def State.rgnBase (s : State) (r : Nat) : Nat := s.fld (R.MAP_RGN_BASE_BASE r) * 2 ^ 26
def State.rgnOrder (s : State) (r : Nat) : Nat := s.fld (R.MAP_RGN_CTL_ORDER r)

/-- A_map (R282). -/
def State.aMap (s : State) : Nat := s.fld R.MAP_STAT_MAP_CH

/-- The size of a region in bytes (R282). -/
def State.rgnSize (s : State) (r : Nat) : Nat :=
  if s.rgnOrder r = 2 then s.rgnCsize r else s.aMap * s.rgnCsize r

/-- The channels of a region, by channel index. -/
def State.rgnChans (s : State) (r : Nat) : List Nat :=
  if s.rgnOrder r = 2 then [s.fld (R.MAP_RGN_CTL_CHAN r)] else s.dram.mapped

/-- The enabled region that holds a DRAM address, with the offset in it (R283, R286); an address has 40 bits (R360). -/
def State.rgnOf (s : State) (a : Nat) : Option (Nat × Nat) :=
  (List.range 8).findSome? (fun r =>
    if s.bit (R.MAP_RGN_CTL_ENABLE r) ∧ s.rgnBase r ≤ a ∧ a < s.rgnBase r + s.rgnSize r ∧ a < 2 ^ 40 then some (r, a - s.rgnBase r)
    else none)

/-- The codes of LOG_A.MASTER. -/
def masterCode : Master → Nat
  | .host => 0 | .dma => 1 | .wellA => 2 | .wellB => 3 | .arrive => 4 | .chanRd => 5 | .mereWr => 6 | .pool => 7
  | .drain => 8 | .beamw => 9 | .scrub => 10 | .fill => 11

/-- While a remap runs, only the Wells reach DRAM (R306). -/
def State.dramOpen (s : State) (m : Master) : Bool :=
  !(s.bit R.MAP_STAT_REMAP_BUSY) || m == .wellA || m == .wellB

/-- The place a DRAM address maps to, for a master (R283, R286, R306); none is a decode error. -/
def State.placeOf (s : State) (m : Master) (a : Nat) : Option Nat :=
  if s.dramOpen m then
    match s.rgnOf a with
    | none => none
    | some (r, o) =>
      let chans := s.rgnChans r
      let (k, ca) := regionCa (s.rgnOrder r) (max 1 chans.length) (s.rgnCbase r) o
      match chans[k]? with
      | some c => some (decodeCa (s.rgnOrder r) c ca)
      | none => none
  else none

/-! ### Bytes -/

/-- The byte of a list of cells at an address. -/
def cellAt : List Host.Cell → Nat → Option Byte
  | [], _ => none
  | (a', b) :: t, a => if a' = a then some b else cellAt t a

/-- What an unlisted place reads as: zero where a fill covers it, what the Wells wrote in region 7, nothing where no write has
reached it. -/
def bgByte : List Bg → Nat → Option Byte
  | [], _ => none
  | z :: t, p =>
    match offsetIn z.order z.chans z.cbase p with
    | some o => if z.lo ≤ o ∧ o < z.hi then (match z.kind with | .zero => some 0 | .blank => none | .wells n => some (Config.sysData n p))
      else bgByte t p
    | none => bgByte t p

/-- The byte stored at a place, if any has been written since power-on. -/
def DramSt.byteAt (d : DramSt) (p : Nat) : Option Byte :=
  match cellAt d.cells p with
  | some b => some b
  | none => bgByte d.bg p

/-- The cells with the n bytes from a place replaced; a byte equal to what the unlisted place reads as is not listed. -/
def putCells (d : DramSt) (p : Nat) (bs : List Byte) : List Host.Cell :=
  d.cells.filter (fun c => decide (c.1 < p)) ++
  ((bs.zipIdx.map (fun x => (p + x.2, x.1))).filter (fun c => bgByte d.bg c.1 != some c.2)) ++
  d.cells.filter (fun c => decide (p + bs.length ≤ c.1))

/-- The canonical form of the cells: addresses strictly rising, none equal to what the unlisted place reads as. -/
def cellsSorted : List Host.Cell → Bool
  | [] => true
  | [_] => true
  | a :: b :: t => decide (a.1 < b.1) && cellsSorted (b :: t)

/-- `Memory.wf` of the DRAM contents. -/
def Memory.wf (d : DramSt) : Bool :=
  cellsSorted d.cells && d.cells.all (fun c => bgByte d.bg c.1 != some c.2)

/-- A stretch of memory filled or lost: it hides what lay under it. A fill writes its granules, which leave the write-fault
tables (R296). -/
def DramSt.cover (d : DramSt) (z : Bg) : DramSt :=
  let hit (p : Nat) : Bool := match offsetIn z.order z.chans z.cbase p with
    | some o => decide (z.lo ≤ o) && decide (o < z.hi)
    | none => false
  { d with
    cells := d.cells.filter (fun c => !hit c.1)
    bg := z :: d.bg
    words := d.words.filter (fun e => !hit (e.1 * 32))
    wfaults := if z.kind = .blank then d.wfaults else d.wfaults.filter (fun g => !hit (g * 64)) }

/-- A word as a plain write leaves it. -/
def cleanWord : WordSt := ⟨false, []⟩

/-! ### Error log (R297) -/

/-- The entries of a controller's log. -/
def State.mcLog (s : State) (k : Nat) : List LogEnt := s.dram.logs.get [] k

/-- LOG_A, LOG_B and LOG_C of an entry. -/
def logA (e : LogEnt) : Nat := e.type + 16 * (e.chan % 8) + 256 * e.bank + 4096 * e.master + 65536 * e.symbol
def logB (e : LogEnt) : Nat := e.row + 65536 * e.word

/-- An entry for a controller's log (R297), about a place. -/
def State.mcLogAdd (s : State) (type master symbol p : Nat) : State :=
  let k := placeChan p / 8
  let l := s.mcLog k
  let e : LogEnt := ⟨type, placeChan p, placeBank p, master, symbol, placeRow p, placeWord p, s.now % m32⟩
  if l.length < (if type = 1 then 8 else 16) then
    State.info { s with dram := { s.dram with logs := s.dram.logs.put [] k (l ++ [e]) } } ⟨.mc, k⟩ (0xE0 + type) none
      (logA e) (logB e) e.frame 0
  else s.setFld (R.MC_LOG_STAT_OVERFLOW k) 1

/-- An error of a controller, with its interrupt. -/
def State.mcError (s : State) (k code irq : Nat) : State := (s.error ⟨.mc, k⟩ code 0 0 none).raise ⟨.mc, k⟩ irq

/-! ### Words and their outcomes (R292, R293) -/

/-- The outcome that a free value picks for a word never written (R313). -/
def freeOutcome (n : Nat) : WOut :=
  match n % 4 with
  | 0 => .clean
  | 1 => .corrected (n / 4 % 36)
  | 2 => .poison
  | _ => .ue

/-- Some byte of a word has never been written. -/
def State.blankWord (s : State) (w : Nat) : Bool := (List.range 32).any (fun i => s.dram.byteAt (w * 32 + i) == none)

/-- The bytes written to a word; a byte never written is what the power-on left (a free value, R313). -/
def State.wordBytes (s : State) (w : Nat) : List Byte :=
  (List.range 32).map (fun i => match s.dram.byteAt (w * 32 + i) with
    | some b => b
    | none => Config.dramPowerOn s.dram.epoch (w * 32 + i))

/-- The outcome of reading the word at place / 32 = w (R292, R293). -/
def State.wordOutcome (s : State) (w : Nat) : WOut × State :=
  if s.blankWord w then
    let (n, s) := s.free 144
    (freeOutcome n, s)
  else ((s.dram.words.get cleanWord w).outcome (s.wordBytes w), s)

/-- The bytes a read of the word delivers where it delivers any. -/
def State.wordData (s : State) (w : Nat) : List Byte :=
  if s.blankWord w then s.wordBytes w else (s.dram.words.get cleanWord w).delivered (s.wordBytes w)

/-- The bytes that come with poison: the spec gives them no value. -/
def State.badBytes (s : State) : List Byte := (List.range 32).map (Config.badData s.freeCtr)

/-! ### Tracking and the spare queue (R309, R310) -/

/-- Frame ticks in a minute. -/
def minuteTicks : Nat := 5859375

/-- The scrub period in minutes: values 1 to 9 are used as 10, 0 is off. -/
def State.scrubMin (s : State) : Nat :=
  let v := s.fld R.SCR_CFG_PERIOD_MIN
  if v = 0 then 0 else max v 10

/-- The tracking entries in use, by entry number. -/
def State.track (s : State) (n : Nat) : Option Track := s.dram.tracks.get none n

/-- A tracking entry replaced. -/
def State.setTrack (s : State) (n : Nat) (t : Option Track) : State :=
  { s with dram := { s.dram with tracks := s.dram.tracks.put none n t } }

/-- A tracking entry updated: the most recent of the table. -/
def State.touchTrack (s : State) (n : Nat) (t : Track) : State :=
  let s := s.setTrack n (some { t with order := s.dram.trackSeq })
  { s with dram := { s.dram with trackSeq := s.dram.trackSeq + 1 } }

/-- A row queued for a soft spare (R310): (channel, bank, row); nothing where it is queued already. -/
def State.queueSpare (s : State) (p : Nat) : State :=
  let r := (placeChan p, placeBank p, placeRow p)
  if r ∈ s.dram.spareQ then s
  else if s.dram.spareQ.length < 16 then { s with dram := { s.dram with spareQ := s.dram.spareQ ++ [r] } }
  else s.setFld R.SCR_STAT_SPARE_Q_OVF 1

/-- The entry that holds a word, as a place / 32. -/
def State.trackOf (s : State) (w : Nat) : Option Nat :=
  (List.range 64).find? (fun n => match s.track n with | some t => t.word == w | none => false)

/-- The least recently updated of some entries. -/
def State.oldestTrack (s : State) (ns : List Nat) : Option Nat :=
  ns.foldl (fun b n =>
    match s.track n, b with
    | some t, some m => match s.track m with
      | some u => if t.order < u.order then some n else b
      | none => some n
    | some _, none => some n
    | none, _ => b) none

/-- The entry that a word not yet tracked takes, and whether it is taken over from another word (R309). -/
def State.trackRoom (s : State) : Nat × Bool :=
  match (List.range 64).find? (fun n => s.track n == none) with
  | some n => (n, false)
  | none =>
    match s.oldestTrack ((List.range 64).filter (fun n => match s.track n with | some t => t.rewrites == 0 | none => false)) with
    | some n => (n, true)
    | none => match s.oldestTrack (List.range 64) with
      | some n => (n, true)
      | none => (0, true)

/-- A whole word put into the memory, as stored poison or as a normal word (R293). -/
def State.putWord (s : State) (w : Nat) (bs : List Byte) (x : WordSt) : State :=
  { s with dram := { s.dram with
    cells := putCells s.dram (w * 32) (sliceBytes bs 0 32)
    words := s.dram.words.put cleanWord w x } }

/-- A word rewritten with what its read delivers (R308, R309): its errors are gone, and its entry counts the rewrite. -/
def State.rewriteWord (s : State) (w : Nat) : State :=
  let s := s.putWord w (s.wordData w) cleanWord
  match s.trackOf w with
  | none => s
  | some n =>
    match s.track n with
    | none => s
    | some t => (s.touchTrack n { t with rewrites := t.rewrites + 1, count := 0 }).addFld R.SCR_REWRITES 1

/-- The tracking entry of a word, taken for it where it has none (R309). -/
def State.trackEntry (s : State) (w : Nat) : Nat × State :=
  match s.trackOf w with
  | some n => (n, s)
  | none =>
    let (n, evict) := s.trackRoom
    let s := if evict then (s.addFld R.SCR_TRACK_EVICT 1).setFld R.SCR_STAT_TRACK_EVICTED 1 else s
    (n, s.setTrack n (some ⟨w, 0, 0, s.ticks, s.ticks, 0⟩))

/-- A correction of a word by any read (R309). A count that reaches 4 has the scrubber rewrite the word at once
(DESIGN CHOICE: R309 allows 10 µs), unless the read is a scrub read, which writes back by itself. -/
def State.trackCorrection (s : State) (w : Nat) (rewrite : Bool) : State :=
  let (n, s) := s.trackEntry w
  match s.track n with
  | none => s
  | some t =>
    if t.rewrites = 2 then
      let s := ((s.queueSpare (w * 32)).addFld R.SCR_HARD_WORDS 1).setTrack n none
      (s.error (pg .scr) 0x11 0 0 none).raise (pg .scr) 1
    else
      let t := if t.count = 0 ∨ t.start + s.scrubMin * minuteTicks < s.ticks then { t with count := 0, start := s.ticks } else t
      let s := s.touchTrack n { t with count := t.count + 1, last := s.ticks }
      if t.count + 1 = 4 ∧ rewrite = true then s.rewriteWord w else s

/-! ### Reading words (R292 to R296) -/

/-- What every read of a word does beside delivering it (R292, R293): counters, log, error 0x10, tracking. -/
def State.readEffects (s : State) (master w : Nat) (o : WOut) : State :=
  let k := placeChan (w * 32) / 8
  match o with
  | .clean => s
  | .corrected y => ((s.addFld (R.MC_CE k) 1).mcLogAdd 1 master y (w * 32)).trackCorrection w (master != 10)
  | .poison => s.mcLogAdd 3 master 63 (w * 32)
  | .ue => ((s.addFld (R.MC_UE k) 1).mcLogAdd 2 master 63 (w * 32)).mcError k 0x10 0

/-- A read of a word within its controller, for a partial write, a scrub or a spare's copy, with the master code it is logged
under: a granule of the write-fault table reads as poison (R290, R296). -/
def State.rawRead (s : State) (code w : Nat) : WOut × State :=
  if w / 2 ∈ s.dram.wfaults then (.poison, s.mcLogAdd 6 code 63 (w * 32))
  else
    let (o, s) := s.wordOutcome w
    (o, s.readEffects code w o)

/-- A channel is retired (R304). -/
def State.chanRetired (s : State) (c : Nat) : Bool := (s.fld R.MAP_RETIRED).testBit c

/-- A request to a granule of a retired channel is counted and logged (R304). -/
def State.deadAccess (s : State) (master p : Nat) : State :=
  (((s.addFld (R.MC_DEAD_ACC (placeChan p / 8)) 1).addFld (R.MC_ERR_RESP (placeChan p / 8)) 1).mcLogAdd 5 master 63 p)

/-- A word delivered with poison counts in POISON_OUT. -/
def State.poisonOut (s : State) (w : Nat) : State := s.addFld (R.MC_POISON_OUT (placeChan (w * 32) / 8)) 1

/-- Bad data goes to its master (R294): with a poison mark, or to a Well as an error response, one for each granule of a
request (`again`: the granule has been answered so already). -/
def State.deliverBad (s : State) (m : Master) (w : Nat) (again : Bool) : State :=
  if m = .wellA ∨ m = .wellB then (if again then s else s.addFld (R.MC_ERR_RESP (placeChan (w * 32) / 8)) 1)
  else s.poisonOut w

/-- A word read as bad: its bytes have no value. -/
def State.badWord (s : State) : List Byte × Bool × State := (s.badBytes, true, { s with freeCtr := s.freeCtr + 1 })

/-! ### Self-refresh and requests (R301, R303) -/

/-- A channel is in self-refresh. -/
def State.chanAsleep (s : State) (c : Nat) : Bool := s.dram.selfRefresh && decide (c ∉ s.dram.awake)

/-- A retrain of a channel starts: it is offline and counted. -/
def State.startRetrain (s : State) (c : Nat) : State :=
  let k := c % 64 / 8
  let s := { s with dram := { s.dram with
    retraining := [c]
    urgent := s.dram.urgent.filter (fun x => x != c) } }
  (s.setFld (R.MC_STAT_OFFLINE k) (putBit (s.fld (R.MC_STAT_OFFLINE k)) (c % 8) true)).addFld (R.MC_RETRAINS k) 1

/-- Channels of the ordering code (R280). -/
def State.nChans (s : State) : Nat := 8 * s.nMc

/-- A channel is trained and in service. -/
def State.chanActive (s : State) (c : Nat) : Bool := (s.fld (R.MC_STAT_ACTIVE (c / 8))).testBit (c % 8)

/-- The active channels, ascending. -/
def State.activeChans (s : State) : List Nat := (List.range s.nChans).filter (fun c => s.chanActive c)

/-- The next channel of the rotation: the head of the urgent ones, else the next active one in ascending order. -/
def State.nextRetrain (s : State) : Option Nat :=
  match s.dram.urgent.filter (fun c => s.chanActive c) with
  | c :: _ => some c
  | [] =>
    match s.activeChans.find? (fun c => decide (s.dram.rotation ≤ c)) with
    | some c => some c
    | none => s.activeChans.head?

/-- The periodic retrain that is due starts (R303), or waits: for the retrain in progress, or until its channel leaves
self-refresh. -/
def State.dueRetrain (s : State) : State :=
  if !s.dram.retraining.isEmpty then { s with dram := { s.dram with retrainDue := true } }
  else match s.nextRetrain with
    | none => s
    | some c =>
      if s.chanAsleep c then { s with dram := { s.dram with retrainDue := true } }
      else
        let urgent := s.dram.urgent.any (fun x => s.chanActive x)
        let s := { s with dram := { s.dram with
          retrainDue := false
          rotation := if urgent then s.dram.rotation else c + 1 } }
        s.startRetrain c

/-- A retrain that waits starts, once none is in progress and its channel is not in self-refresh: the commands in their
order, then the periodic one. -/
def State.waitingRetrain (s : State) : State :=
  if !s.dram.retraining.isEmpty then s
  else match s.dram.manual.find? (fun c => !s.chanAsleep c) with
    | some m => { s with dram := { s.dram with manual := s.dram.manual.filter (fun c => c != m) } }.startRetrain m
    | none => if s.dram.retrainDue then s.dueRetrain else s

/-- A request reaches a channel: one in self-refresh leaves it, and the request is then served (R301). -/
def State.wakeChan (s : State) (c : Nat) : State :=
  if !s.chanAsleep c then s
  else
    let s := { s with dram := { s.dram with awake := c :: s.dram.awake } }
    (s.setFld (R.MC_STAT_SELF_REFRESH (c / 8)) 0).waitingRetrain

/-- The read of one mapped word by a master: its bytes and whether it is delivered as poison (R292 to R296, R304).
`first` is whether this word is the first of its granule in the request, `again` whether the granule has been answered with
an error already. A read of this word by this master that has failed under R296 is delivered now (R295). -/
def State.readWord (s : State) (m : Master) (w : Nat) (first again : Bool) : List Byte × Bool × State :=
  if s.chanRetired (placeChan (w * 32)) then
    let s := if first then s.deadAccess (masterCode m) (w * 32) else s
    (s.deliverBad m w true).badWord
  else
    let s := s.wakeChan (placeChan (w * 32))
    if (m, w) ∈ s.dram.failed then
      let s := { s with dram := { s.dram with failed := s.dram.failed.erase (m, w) } }
      (s.deliverBad m w true).badWord
    else if w / 2 ∈ s.dram.wfaults then
      let s := if first then s.mcLogAdd 6 (masterCode m) 63 (w * 32) else s
      (s.deliverBad m w again).badWord
    else
      let bs := s.wordData w
      let (o, s) := s.wordOutcome w
      let s := s.readEffects (masterCode m) w o
      match o with
      | .clean | .corrected _ => (bs, false, s)
      | .poison | .ue => (s.deliverBad m w again).badWord

/-- The words a stretch of addresses touches: word address, first byte and end within the word. -/
def wordSpan (addr len : Nat) : List (Nat × Nat × Nat) :=
  if len = 0 then [] else
  (List.range ((addr + len - 1) / 32 - addr / 32 + 1)).map (fun i =>
    let wa := (addr / 32 + i) * 32
    (wa, max addr wa - wa, min (addr + len) (wa + 32) - wa))

/-- What a read returns: the bytes, the poison mark of each word touched, and whether an address had no place (R286). -/
structure RdRes where
  bytes : List Byte
  marks : List Bool
  decode : Bool
  deriving DecidableEq, Repr

/-- Any poison in the data read. -/
def RdRes.bad (r : RdRes) : Bool := r.decode || r.marks.any id

/-- The words of a read, in ascending order; `bad0` is whether the word before was bad. -/
def readSpan (m : Master) (addr : Nat) : Bool → List (Nat × Nat × Nat) → State → RdRes × State
  | _, [], s => (⟨[], [], false⟩, s)
  | bad0, (wa, lo, hi) :: t, s =>
    match s.placeOf m wa with
    | none =>
      let (r, s) := readSpan m addr false t s
      (⟨List.replicate (hi - lo) 0 ++ r.bytes, true :: r.marks, true⟩, s)
    | some p =>
      let (bs, bad, s) := s.readWord m (p / 32) (decide (wa % 64 = 0) || decide (wa ≤ addr)) (bad0 && decide (wa % 64 = 32))
      let (r, s) := readSpan m addr bad t s
      (⟨sliceBytes bs lo (hi - lo) ++ r.bytes, bad :: r.marks, r.decode⟩, s)

/-- A decode error of the bus matrix (R343), by path (0 internal, 1 PCIe, 2 management SPI): counted, recorded and raised. -/
def State.decodeError (s : State) (path master addr : Nat) (write : Bool) : State :=
  let s := if path = 0 then s.addFld R.MX_DEC_INT 1 else if path = 1 then s.addFld R.MX_DEC_PCIE 1 else s.addFld R.MX_DEC_MSPI 1
  let s := (s.setFld R.MX_DEC_ADDR addr).setFld R.MX_DEC_INFO_MASTER master
  let s := ((s.setBit R.MX_DEC_INFO_WRITE write).setFld R.MX_DEC_INFO_PATH path).setFld R.MX_STAT_DEC_ERR 1
  (s.error (pg .mx) (if path = 0 then 0x12 else if path = 1 then 0x10 else 0x11) 0 0 none).raise (pg .mx) 0

/-- The decode error of a DRAM request by a master: HOST reaches DRAM through the BAR2 path. -/
def State.dramDecodeError (s : State) (m : Master) (addr : Nat) (write : Bool) : State :=
  s.decodeError (if m = .host then 1 else 0) (masterCode m) addr write

/-- A read of len bytes by a master. -/
def State.readDram (s : State) (m : Master) (addr len : Nat) : RdRes × State :=
  let (r, s) := readSpan m addr false (wordSpan addr len) s
  (r, if r.decode then s.dramDecodeError m addr false else s)

/-! ### Writing words (R284, R290, R293, R304) -/

/-- The error symbols that MC.INJECT puts into a word (its field table). -/
def State.injErrs (s : State) (k : Nat) : List SymErr :=
  let y := s.fld (R.MC_INJECT_SYMBOL k)
  let pat := if s.fld (R.MC_INJECT_PATTERN k) = 0 then 1 else s.fld (R.MC_INJECT_PATTERN k)
  if 36 ≤ y then [] else
  ⟨y, pat⟩ :: (if s.bit (R.MC_INJECT_DOUBLE k) then [⟨(y + 1) % 36, pat⟩] else [])

/-- A whole word stored at place / 32 = w, as stored poison or as a normal word (R293), with an injection due to it. -/
def State.storeWord (s : State) (w : Nat) (bs : List Byte) (pois : Bool) : State :=
  let c := placeChan (w * 32)
  let k := c / 8
  let inj := s.bit (R.MC_INJECT_ARM k) && decide (s.fld (R.MC_INJECT_CH_I k) = c % 8)
  let s := s.putWord w bs ⟨pois, if inj then s.injErrs k else []⟩
  let s := { s with dram := { s.dram with wfaults := s.dram.wfaults.filter (fun g => g != w / 2) } }
  if inj then ((s.setFld (R.MC_INJECT_ARM k) 0).setFld (R.MC_STAT_INJ_DONE k) 1).raise ⟨.mc, k⟩ 4 else s

/-- The write of part or all of one mapped word (R290). -/
def State.writeWord (s : State) (m : Master) (w lo hi : Nat) (bs : List Byte) (pois : Bool) : State :=
  if hi - lo < 32 then
    let old := s.wordData w
    let (o, s) := s.rawRead (masterCode m) w
    let bad := match o with | .poison | .ue => true | _ => false
    let s := s.addFld (R.MC_RMW (placeChan (w * 32) / 8)) 1
    s.storeWord w (sliceBytes old 0 lo ++ bs ++ sliceBytes old hi (32 - hi)) (pois || bad)
  else s.storeWord w bs pois

/-! ### Stretches of zeros (R315, R316) -/

/-- The granules below the region granule g that lie on channel index k of n (R283). -/
def granulesOn (order n k g : Nat) : Nat :=
  let strip (st : Nat) : Nat := g / (st * n) * st + min st (g % (st * n) - st * k)
  match order with | 0 => strip 4 | 1 => strip 32 | _ => g

/-- The region granule that is the j-th on channel index k of n. -/
def granuleAt (order n k j : Nat) : Nat :=
  match order with
  | 0 => j / 4 * (4 * n) + 4 * k + j % 4
  | 1 => j / 32 * (32 * n) + 32 * k + j % 32
  | _ => j

/-- The writes of a stretch to a retired channel, one for each granule: dropped, each counted as R304 says; the log takes the
first of them and then overflows (R297). -/
def State.deadStretch (s : State) (m : Master) (z : Bg) (k c : Nat) : State :=
  let first := granulesOn z.order z.chans.length k (z.lo / 64)
  let n := granulesOn z.order z.chans.length k (ceilDiv z.hi 64) - first
  let s := (s.addFld (R.MC_DEAD_ACC (c / 8)) n).addFld (R.MC_ERR_RESP (c / 8)) n
  (List.range (min n 17)).foldl (fun s i =>
    s.mcLogAdd 5 (masterCode m) 63
      (decodeCa z.order c (regionCa z.order z.chans.length z.cbase (64 * granuleAt z.order z.chans.length k (first + i))).2)) s

/-- A master writes zeros over a stretch of a region: its channels leave self-refresh (R301), writes to a retired one are dropped
(R304), the others stand. -/
def State.zeroStretch (s : State) (m : Master) (z : Bg) : State :=
  if z.hi ≤ z.lo then s
  else
    let s := z.chans.foldl (fun s c => if s.chanRetired c then s else s.wakeChan c) s
    let s := z.chans.zipIdx.foldl (fun s x => if s.chanRetired x.1 then s.deadStretch m z x.2 x.1 else s) s
    { s with dram := s.dram.cover z }

/-- The fill in progress has passed the region offsets below a place (R316). -/
def State.fillTo (s : State) (pos : Nat) : State :=
  let r := s.dram.fillRgn
  let s := s.zeroStretch .fill ⟨.zero, s.rgnOrder r, s.rgnChans r, s.rgnCbase r, s.dram.fillPos, pos⟩
  { s with dram := { s.dram with fillPos := max s.dram.fillPos pos } }.setFld R.MAP_FILL_PROG_MIB (max s.dram.fillPos pos / 2 ^ 20)

/-- The bytes a fill can write in the 12,288 FAB_CLK cycles of a frame period, 512 in each (R316). -/
def fillBytes : Nat := 6291456

/-- The fill in progress goes on: by how much is a free value, at most what a frame period allows (R316 bounds its rate). -/
def State.fillStep (s : State) : State :=
  if s.bit R.MAP_STAT_FILL_BUSY then
    let (v, s) := s.free (fillBytes / 64 + 1)
    s.fillTo (min (s.rgnSize s.dram.fillRgn) (s.dram.fillPos + 64 * v))
  else s

/-- A master writes into the region of the fill in progress: where the fill stands then is a free value. -/
def State.fillMeets (s : State) (addr : Nat) : State :=
  match s.rgnOf addr with
  | some (r, _) => if r = s.dram.fillRgn then s.fillStep else s
  | none => s

/-- How a write ends: accepted, with a decode error (R286), with an error response (R284, R304), or with both, over its words. -/
inductive WrRes where
  | ok
  | decode
  | errResp
  | both
  deriving DecidableEq, Repr

/-- The outcome of two parts of one request. -/
def WrRes.join : WrRes → WrRes → WrRes
  | .ok, b => b
  | a, .ok => a
  | .decode, .decode => .decode
  | .errResp, .errResp => .errResp
  | _, _ => .both

/-- Some word had no place, or some word was refused by the memory. -/
def WrRes.decoded (r : WrRes) : Bool := decide (r = .decode ∨ r = .both)
def WrRes.refused (r : WrRes) : Bool := decide (r = .errResp ∨ r = .both)

/-- The words of a write, in ascending order; `pois` says for each word's index whether it is written as poison. -/
def writeSpan (m : Master) (addr : Nat) (pois : Nat → Bool) : List ((Nat × Nat × Nat) × Nat) → List Byte → State → WrRes × State
  | [], _, s => (.ok, s)
  | ((wa, lo, hi), i) :: t, bs, s =>
    let here := sliceBytes bs 0 (hi - lo)
    let rest := bs.drop (hi - lo)
    match s.placeOf m wa with
    | none =>
      let (r, s) := writeSpan m addr pois t rest s
      (WrRes.decode.join r, s)
    | some p =>
      let sysRgn := (m == .host || m == .dma) && (match s.rgnOf wa with | some (7, _) => true | _ => false)
      let first := decide (wa % 64 = 0) || decide (wa ≤ addr)
      if sysRgn then
        let s := if first then s.addFld (R.MC_ERR_RESP (placeChan p / 8)) 1 else s
        let (r, s) := writeSpan m addr pois t rest s
        (WrRes.errResp.join r, s)
      else if s.chanRetired (placeChan p) then
        let s := if first then s.deadAccess (masterCode m) p else s
        let (r, s) := writeSpan m addr pois t rest s
        (WrRes.errResp.join r, s)
      else
        let s := (s.wakeChan (placeChan p)).writeWord m (p / 32) lo hi here (pois i)
        writeSpan m addr pois t rest s

/-- A write of bytes by a master; `pois` marks words, by index within the write, that are stored as poison. -/
def State.writeDramP (s : State) (m : Master) (addr : Nat) (bs : List Byte) (pois : Nat → Bool) : WrRes × State :=
  let (r, s) := writeSpan m addr pois (wordSpan addr bs.length).zipIdx bs (s.fillMeets addr)
  (r, if r.decoded then s.dramDecodeError m addr true else s)

/-- A write of clean bytes by a master. -/
def State.writeDram (s : State) (m : Master) (addr : Nat) (bs : List Byte) : WrRes × State :=
  s.writeDramP m addr bs (fun _ => false)

/-! ### The commands of the request queues -/

/-- The controller that serves an address. -/
def State.mcOf (s : State) (m : Master) (a : Nat) : Option Nat := (s.placeOf m a).map (fun p => placeChan p / 8)

/-- The words that a read request asks for. -/
def State.wordsOf (s : State) (q : DramReq) : List Nat :=
  (wordSpan q.addr (max 1 q.len)).filterMap (fun x => (s.placeOf q.master x.1).map (fun p => p / 32))

/-- The failed attempts of a request (R296): its retries are counted; a third failure ends it in an error response, and
a failed write enters its granule in the write-fault table of its channel. Every word of a failed read reaches its master as
poison when the master takes it (R295), a Well at once as an error response. -/
def State.failRequest (s : State) (q : DramReq) (p : Nat) : State :=
  let k := placeChan p / 8
  let s := s.addFld (R.MC_CMD_RETRY k) (min q.failures 2)
  if q.failures < 3 then s else
    let s := s.addFld (R.MC_ERR_RESP k) 1
    let s := s.mcLogAdd 4 (masterCode q.master) 63 p
    let s := s.mcError k 0x11 1
    if !q.write then (if q.master = .wellA ∨ q.master = .wellB then s
      else { s with dram := { s.dram with failed := s.dram.failed ++ (s.wordsOf q).map (fun w => (q.master, w)) } })
    else if p / 64 ∈ s.dram.wfaults then s
    else if (s.dram.wfaults.filter (fun g => decide (placeChan (g * 64) = placeChan p))).length < 16 then
      { s with dram := { s.dram with wfaults := s.dram.wfaults ++ [p / 64] } }
    else s.error ⟨.mc, k⟩ 0x15 0 0 none

/-- A write of the host that the memory refuses is dropped (R362). -/
def State.winDrop (s : State) : State :=
  ((s.addFld R.PCIE_WIN_DROP 1).setFld R.PCIE_EVT_WIN_DROP 1).raise (pg .pcie) 4

/-- A request to place p of a channel in service: a write is performed in acceptance order, a read waits behind a write to its
granule, and its words complete in DRAM_READ_COMPLETE. -/
def State.serveRequest (s : State) (q : DramReq) (p : Nat) : State :=
  let s := s.wakeChan (placeChan p)
  let s := if q.write then s else s.addFld (R.MC_HAZ_WAIT (placeChan p / 8)) q.wait
  let s := s.failRequest q p
  if 3 ≤ q.failures then (if q.write && q.master == .host then s.winDrop else s)
  else if q.write then
    let (r, s) := s.writeDram q.master q.addr q.data
    if r.refused && q.master == .host then s.winDrop else s
  else { s with dram := { s.dram with reads := s.dram.reads ++ (s.wordsOf q).map (fun w => (q.master, w)) } }

/-- DRAM_REQUEST (R287 to R290, R296, R301, R303): a request accepted into its channel's queue, which leaves self-refresh for it;
one to a channel offline for a retrain is held until that ends, or the channel is retired. A request with no place is a decode error of the bus matrix
(R286) and reaches no queue. -/
def doDramRequest (q : DramReq) (s : State) : State :=
  match s.placeOf q.master q.addr with
  | none => s.dramDecodeError q.master q.addr q.write
  | some p =>
    if placeChan p ∈ s.dram.retraining ∧ s.chanRetired (placeChan p) = false then { s with dram := { s.dram with held := s.dram.held ++ [(placeChan p, q)] } }
    else s.serveRequest q p

/-- A request that was held is served; a read whose channel has been retired meanwhile is answered at once (R304). -/
def State.serveOne (s : State) (q : DramReq) : State :=
  match s.placeOf q.master q.addr with
  | none => s
  | some p => if s.chanRetired (placeChan p) && !q.write then (s.readDram q.master q.addr (max 1 q.len)).2 else s.serveRequest q p

/-- The requests held at a channel are served, in their order (R303); those for which a test fails are dropped. -/
def State.serveHeld (s : State) (c : Nat) (keep : DramReq → Bool) : State :=
  let qs := (s.dram.held.filter (fun x => decide (x.1 = c))).map (fun x => x.2)
  let s := { s with dram := { s.dram with held := s.dram.held.filter (fun x => decide (x.1 ≠ c)) } }
  (qs.filter keep).foldl (fun s q => s.serveOne q) s

/-- The effect of DRAM_REQUEST. -/
def execDramRequest (q : DramReq) (s : State) : Host.Outcome State Fault Refusal := .next (doDramRequest q s)

/-- DRAM_READ_COMPLETE (R292 to R295): the word at an address, which an accepted read waits for, is read with the symbol
errors the memory gives it, and ends clean, corrected, as stored poison or uncorrectable. -/
def doDramReadComplete (m : Master) (a : Nat) (errs : List SymErr) (s : State) : State :=
  match s.placeOf m a with
  | none => s
  | some p =>
    let w := p / 32
    if (m, w) ∉ s.dram.reads then s
    else
      let x := s.dram.words.get cleanWord w
      let words := if errs.isEmpty then s.dram.words else s.dram.words.put cleanWord w { x with errs := errs }
      let s := { s with dram := { s.dram with reads := s.dram.reads.erase (m, w), words := words } }
      (s.readWord m w true false).2.2

/-- The effect of DRAM_READ_COMPLETE. -/
def execDramReadComplete (m : Master) (a : Nat) (errs : List SymErr) (s : State) : Host.Outcome State Fault Refusal :=
  .next (doDramReadComplete m a errs s)

/-- TRACK_EXPIRY (R309): an entry with no correction for four scrub periods is freed. -/
def doTrackExpiry (n : Nat) (s : State) : State :=
  match s.track n with
  | some t => if t.last + 4 * s.scrubMin * minuteTicks ≤ s.ticks then s.setTrack n none else s
  | none => s

/-- The effect of TRACK_EXPIRY. -/
def execTrackExpiry (n : Nat) (s : State) : Host.Outcome State Fault Refusal := .next (doTrackExpiry n s)

end Sys2Proof.Machine
end

