-- ==== Sys2Proof/Machine/MapRgn.lean ====
section
/-! DEFINITION. The MAP, MC and SCR commands (spec/10): regions, remap, fill, refresh and temperature, retraining and
retirement, scrubbing and soft spares. -/

namespace Sys2Proof.Machine

/-! ### Shared operations -/

/-- A save of the persistent record requested (R423). -/
def State.requestSave (s : State) : State := s.setFld R.NVR_STAT_DIRTY 1

/-- MERE.CEILING, from the active channels and the largest refresh multiplier (R163). -/
def State.ceiling (s : State) : Nat :=
  s.fld R.MAP_STAT_ACT_CH * (match s.fld R.MAP_STAT_REF_MULT with | 0 => 103 | 1 => 99 | _ => 92)

/-- MERE.CEILING kept, and MERE.STAT.BW_WARN (R163). -/
def State.refreshCeiling (s : State) : State :=
  let s := s.setFld R.MERE_CEILING_GBPS s.ceiling
  let warn := decide (s.ceiling < s.mere.actBw)
  let was := s.bit R.MERE_STAT_BW_WARN
  let s := s.setBit R.MERE_STAT_BW_WARN warn
  if warn && !was then s.raise (pg .mere) 3 else s

/-- The staging register of a pair on a path (R6): a write to _LO. -/
def State.stageLo (s : State) (π : Path) (off v : Nat) : State :=
  { s with staged := s.staged.put m32 (pathKey π off) (v % m32) }

/-- What is staged for a pair on a path; none where nothing is (R471). -/
def State.stagedLo (s : State) (π : Path) (off : Nat) : Option Nat :=
  let v := s.staged.get m32 (pathKey π off)
  if v = m32 then none else some v

/-- The staging register emptied. -/
def State.unstage (s : State) (π : Path) (off : Nat) : State :=
  { s with staged := s.staged.put m32 (pathKey π off) m32 }

/-! ### Regions (R282 to R286) -/

/-- The channels a region takes its slice in, as MAP_CH counts them. -/
def State.meets (s : State) (r q : Nat) : Bool :=
  (s.rgnChans r).any (fun c => decide (c ∈ s.rgnChans q))

/-- The cause for which the enable of region r is refused, lowest code first (MAP error codes). -/
def State.rgnRefused (s : State) (r : Nat) : Option Nat :=
  let cs := s.fld (R.MAP_RGN_SLICE_CSIZE r)
  let cb := s.fld (R.MAP_RGN_SLICE_CBASE r)
  let others := (List.range 8).filter (fun q => q != r && s.bit (R.MAP_RGN_CTL_ENABLE q))
  if s.rgnOrder r = 3 ∨ cs = 0 ∨ 2048 < cs ∨ 2048 < cb + cs then some 1
  else if others.any (fun q => decide (s.rgnBase r < s.rgnBase q + s.rgnSize q) && decide (s.rgnBase q < s.rgnBase r + s.rgnSize r))
    then some 2
  else if others.any (fun q => decide (s.rgnCbase r < s.rgnCbase q + s.rgnCsize q) && decide (s.rgnCbase q < s.rgnCbase r + s.rgnCsize r) && s.meets r q)
    then some 3
  else if s.rgnOrder r = 2 ∧ (s.nChans ≤ s.fld (R.MAP_RGN_CTL_CHAN r) ∨ s.chanRetired (s.fld (R.MAP_RGN_CTL_CHAN r)) = true)
    then some 4
  else none

/-- MAP.STAT.CFG_BLOCKED set. -/
def State.mapBlocked (s : State) : State := s.setFld R.MAP_STAT_CFG_BLOCKED 1

/-- A write to RGNr_CTL (R285): dropped whole where it would change ORDER or CHAN of an enabled region; else its fields
are written, and an enable that is refused leaves ENABLE at 0 with the cause recorded. -/
def writeRgnCtl (r v : Nat) (s : State) : State :=
  let en := s.bit (R.MAP_RGN_CTL_ENABLE r)
  let order := v % 4
  let chan := v / 256 % 64
  let s' := ((s.setFld (R.MAP_RGN_CTL_ORDER r) order).setFld (R.MAP_RGN_CTL_CHAN r) chan).setFld (R.MAP_RGN_CTL_SCRUB r) (v / 8 % 2)
  if en then
    if s.rgnOrder r ≠ order ∨ s.fld (R.MAP_RGN_CTL_CHAN r) ≠ chan then s.mapBlocked
    else s'.setFld (R.MAP_RGN_CTL_ENABLE r) (v / 4 % 2)
  else if v / 4 % 2 = 1 then
    match s'.rgnRefused r with
    | some c => s'.error (pg .map) c 0 0 none
    | none => s'.setFld (R.MAP_RGN_CTL_ENABLE r) 1
  else s'

/-- A write of word `w` (0 BASE_LO, 1 BASE_HI, 2 SLICE, 3 CTL) of the region registers of region r, whose first lies at `lo`
(R285). -/
def writeRegionWord (π : Path) (r lo w v : Nat) (s : State) : State :=
  let en := s.bit (R.MAP_RGN_CTL_ENABLE r)
  if 7 ≤ r then s
  else match w with
    | 0 =>
      if en ∧ v / 2 ^ 26 % 64 ≠ s.fld (R.MAP_RGN_BASE_BASE r) % 64 then s.mapBlocked else s.stageLo π lo v
    | 1 =>
      let low := match s.stagedLo π lo with | some x => x / 2 ^ 26 % 64 | none => s.fld (R.MAP_RGN_BASE_BASE r) % 64
      let new := low + 64 * (v % 256)
      let s := s.unstage π lo
      if en ∧ new ≠ s.fld (R.MAP_RGN_BASE_BASE r) then s.mapBlocked else s.setFld (R.MAP_RGN_BASE_BASE r) new
    | 2 =>
      let cb := v % 4096
      let cs := v / 65536 % 4096
      if en ∧ (cb ≠ s.fld (R.MAP_RGN_SLICE_CBASE r) ∨ cs ≠ s.fld (R.MAP_RGN_SLICE_CSIZE r)) then s.mapBlocked
      else (s.setFld (R.MAP_RGN_SLICE_CBASE r) cb).setFld (R.MAP_RGN_SLICE_CSIZE r) cs
    | _ => writeRgnCtl r v s

/-- The effect of a write to a region register (R284, R285); the registers of region 7 are read-only. -/
def doRegionWrite (π : Path) (off v : Nat) (s : State) : State :=
  let r := (off - 0x1C8080) / 16
  writeRegionWord π r (0x1C8080 + 16 * r) ((off - 0x1C8080) % 16 / 4) v s

/-- REGION_WRITE: a write of a whole dword at one of the offsets 0x1C_8080 to 0x1C_80FF. -/
def execRegionWrite (π : Path) (off v : Nat) (s : State) : Host.Outcome State Fault Refusal :=
  if 0x1C8080 ≤ off ∧ off < 0x1C8100 then .next (s.hostCmd π off (doRegionWrite π off v)) else .next s

/-! ### Remap (R306) -/

/-- No DMA channel is RUNNING, WAITING or STOPPING. -/
def State.dmaIdle (s : State) : Bool :=
  (List.range 32).all (fun n => decide (s.fld (R.DMACH_STAT_STATE n) ∉ [1, 2, 3]))

/-- The effect of MAP.CTL.REMAP (R306): refused with CFG_BLOCKED, or the channel list is rebuilt and REMAP_BUSY set. A
REMAP while the field reads 1 is ignored (R8). -/
def doRemap (s : State) : State :=
  if s.bit R.MAP_CTL_REMAP then s
  else if s.running || !s.dmaIdle || s.bit R.BAS_STAT_FINISHING || s.bit R.MAP_STAT_FILL_BUSY then s.mapBlocked
  else
    let s := { s with dram := { s.dram with mapped := s.activeChans } }
    let s := s.setFld R.MAP_STAT_MAP_CH (s.fld R.MAP_STAT_ACT_CH)
    (s.setFld R.MAP_CTL_REMAP 1).setFld R.MAP_STAT_REMAP_BUSY 1

/-- REMAP. -/
def execRemap (π : Path) (s : State) : Host.Outcome State Fault Refusal := .next (s.hostCmd π 0x1C8040 doRemap)

/-- The whole of a region as a stretch of background. -/
def State.rgnBg (s : State) (r : Nat) (kind : BgKind) : Bg :=
  ⟨kind, s.rgnOrder r, s.rgnChans r, s.rgnCbase r, 0, s.rgnSize r⟩

/-- The slice of a disabled region meets that of an enabled ROW region, whose contents a remap leaves as they are (R306). -/
def State.underRow (s : State) (r : Nat) : Bool :=
  !s.bit (R.MAP_RGN_CTL_ENABLE r) && (List.range 8).any (fun q => s.bit (R.MAP_RGN_CTL_ENABLE q) && decide (s.rgnOrder q = 2) &&
    decide (s.rgnCbase r < s.rgnCbase q + s.rgnCsize q) && decide (s.rgnCbase q < s.rgnCbase r + s.rgnCsize r) && s.meets r q)

/-- The contents of a region undefined again, FILLED and SCRUB cleared (R306); region 7 keeps SCRUB (R284). -/
def State.loseRegion (s : State) (r : Nat) : State :=
  if s.rgnOrder r = 2 then s else
    let s := if s.underRow r then s else { s with dram := s.dram.cover (s.rgnBg r .blank) }
    if r = 7 then s else (s.setFld (R.MAP_RGN_CTL_FILLED r) 0).setFld (R.MAP_RGN_CTL_SCRUB r) 0

/-- The spill is full (R440). -/
def State.spillFull (s : State) : Bool := decide ((s.fld R.EVT_SPILL_HEAD_SEQ + m32 - s.fld R.EVT_RPTR_SEQ) % m32 = 1048576)

/-- The unread event entries that are no longer in the ring are lost; RPTR moves past them (R442). -/
def State.loseSpill (s : State) (ctr : Fld) : State :=
  let w := s.fld R.EVT_WPTR_SEQ
  let unread := (w + m32 - s.fld R.EVT_RPTR_SEQ) % m32
  if unread ≤ 4096 then s else
    let lost := unread - 4096
    let s := (s.addFld ctr lost).subFld R.EVT_RESIDENT lost
    let s := s.setFld R.EVT_RPTR_SEQ (s.fld R.EVT_RPTR_SEQ + lost)
    let s := if 0 < seqDiff 32 (s.fld R.EVT_RPTR_SEQ) (s.fld R.EVT_SPILL_HEAD_SEQ) then
      s.setFld R.EVT_SPILL_HEAD_SEQ (s.fld R.EVT_RPTR_SEQ) else s
    if s.spillFull then s else s.setFld R.EVT_STAT_SPILL_FULL 0

/-- The Wells write region 7 (R306, R314, R417): their tables have no stated contents. -/
def State.writeSys (s : State) : State :=
  { s with freeCtr := s.freeCtr + 1, dram := { s.dram.cover (s.rgnBg 7 (.wells s.freeCtr)) with sysDone := true } }

/-- What a remap takes away: the contents of the regions it moved, region 7 with them, and the spilled events that were unread. -/
def State.loseMapped (s : State) : State :=
  let s := (List.range 8).foldl (fun s r => s.loseRegion r) s
  { s with dram := { s.dram with sysDone := false } }.loseSpill R.EVT_LOST_REMAP

/-- The effect of REMAP_DONE (R306, R442): the remap in progress ends. A channel retired meanwhile goes on asking for a remap
(R304). -/
def doRemapDone (s : State) : State :=
  if !s.bit R.MAP_STAT_REMAP_BUSY then s else
    let s := s.loseMapped.writeSys
    let s := (s.setFld R.MAP_STAT_REMAP_BUSY 0).setFld R.MAP_CTL_REMAP 0
    let s := s.setBit R.MAP_STAT_REMAP_NEEDED (decide (s.fld R.MAP_STAT_ACT_CH < s.fld R.MAP_STAT_MAP_CH))
    let s := s.info (pg .map) 0xE1 none (s.fld R.MAP_STAT_MAP_CH) 0 0 0
    s.raise (pg .map) 3

/-- REMAP_DONE. -/
def execRemapDone (s : State) : Host.Outcome State Fault Refusal := .next (doRemapDone s)

/-! ### Fill (R316) -/

/-- The effect of MAP.CTL.FILL with FILL_RGN = rgn (R316): the fill begins at region offset 0, and the channels of the region leave
self-refresh for it (R301). -/
def doFill (rgn : Nat) (s : State) : State :=
  let s := s.setFld R.MAP_CTL_FILL_RGN rgn
  let r := rgn % 8
  if s.bit R.MAP_CTL_FILL || s.bit R.MAP_STAT_FILL_BUSY || s.bit R.MAP_STAT_REMAP_BUSY || decide (r = 7) || !s.bit (R.MAP_RGN_CTL_ENABLE r)
  then s.mapBlocked
  else
    let s := (s.rgnChans r).foldl (fun s c => if s.chanRetired c then s else s.wakeChan c) s
    let s := { s with dram := { s.dram with fillRgn := r, fillPos := 0 } }
    ((s.setFld R.MAP_CTL_FILL 1).setFld R.MAP_STAT_FILL_BUSY 1).setFld R.MAP_FILL_PROG_MIB 0

/-- FILL. -/
def execFill (π : Path) (rgn : Nat) (s : State) : Host.Outcome State Fault Refusal :=
  .next (s.hostCmd π 0x1C8040 (doFill rgn))

/-- The effect of FILL_DONE (R316): the fill has passed the whole region. -/
def doFillDone (s : State) : State :=
  if !s.bit R.MAP_STAT_FILL_BUSY then s else
    let r := s.dram.fillRgn
    let s := s.fillTo (s.rgnSize r)
    let s := (s.setFld (R.MAP_RGN_CTL_FILLED r) 1).setFld (R.MAP_RGN_CTL_SCRUB r) 1
    let s := (s.setFld R.MAP_STAT_FILL_BUSY 0).setFld R.MAP_CTL_FILL 0
    let s := s.info (pg .map) 0xE2 none r 0 0 0
    s.raise (pg .map) 1

/-- FILL_DONE. -/
def execFillDone (s : State) : Host.Outcome State Fault Refusal := .next (doFillDone s)

/-! ### Refresh and temperature (R298, R299) -/

/-- The multiplier code that a temperature leads to from a present one (R298's table, with its hysteresis). -/
def multOf (m : Nat) (t : Int) : Nat :=
  if 105 < t ∨ (m = 2 ∧ 102 < t) then 2 else if 85 < t ∨ (1 ≤ m ∧ 82 < t) then 1 else 0

/-- Stacks of the ordering code. -/
def State.nStacks (s : State) : Nat := s.nMc / 2

/-- The largest multiplier of any stack reported, and the ceiling with it. -/
def State.syncMult (s : State) : State :=
  let m := (List.range s.nMc).foldl (fun m k => max m (s.fld (R.MC_TEMP_REF_MULT k))) 0
  let s := if s.fld R.MAP_STAT_REF_MULT = m then s else (s.setFld R.MAP_STAT_REF_MULT m).raise (pg .map) 2
  s.refreshCeiling

/-- The effect of REFRESH_INTERVAL: a multiplier that waits is taken up (R298). -/
def doRefreshInterval (k : Nat) (s : State) : State :=
  if s.nStacks ≤ k then s else
  match s.dram.nextMult.get none k with
  | none => s
  | some m =>
    let s := { s with dram := { s.dram with nextMult := s.dram.nextMult.put none k none } }
    ((s.setFld (R.MC_TEMP_REF_MULT (2 * k)) m).setFld (R.MC_TEMP_REF_MULT (2 * k + 1)) m).syncMult

/-- REFRESH_INTERVAL. -/
def execRefreshInterval (k : Nat) (s : State) : Host.Outcome State Fault Refusal := .next (doRefreshInterval k s)

/-- HOT of one controller follows the sensor (R299): error 0x14 and THERMAL when the stack rises above 125 °C. -/
def State.hotMc (s : State) (k : Nat) (hot : Bool) : State :=
  let was := s.bit (R.MC_TEMP_HOT k)
  let s := s.setBit (R.MC_TEMP_HOT k) hot
  if hot && !was then s.mcError k 0x14 3 else s

/-- Channels of a stack whose temperature has moved by 10 °C since their last retrain go to the head of the rotation
(R303). -/
def State.urgentStack (s : State) (k : Nat) (t : Int) : State :=
  let moved := (s.activeChans.filter (fun c => decide (c / 16 = k) && decide (10 ≤ (t - s.dram.lastTemp.get 0 c).natAbs)))
  let new := moved.filter (fun c => decide (c ∉ s.dram.urgent))
  { s with dram := { s.dram with urgent := s.dram.urgent ++ new } }

/-- The effect of TEMP_CHANGE: a stack's sensor reads a new temperature (R298, R299, R303, R465). The hysteresis starts from
the multiplier that waits for the next refresh interval, if one does. -/
def doTempChange (k : Nat) (t : Int) (s : State) : State :=
  if s.nStacks ≤ k then s else
  let m := multOf ((s.dram.nextMult.get none k).getD (s.fld (R.MC_TEMP_REF_MULT (2 * k)))) t
  let s := (s.setFld (R.MC_TEMP (2 * k)) (unsgn 8 t)).setFld (R.MC_TEMP (2 * k + 1)) (unsgn 8 t)
  let next := if m = s.fld (R.MC_TEMP_REF_MULT (2 * k)) then none else some m
  let s := { s with dram := { s.dram with nextMult := s.dram.nextMult.put none k next } }
  let s := (s.hotMc (2 * k) (decide (125 < t))).hotMc (2 * k + 1) (decide (125 < t))
  let s := s.urgentStack k t
  if 135 < t then { s with thermtrip := true } else s

/-- TEMP_CHANGE. -/
def execTempChange (k : Nat) (t : Int) (s : State) : Host.Outcome State Fault Refusal := .next (doTempChange k t s)

/-! ### Retraining and retirement (R303, R304) -/

/-- The interval RT_INTERVAL × 10 ms has passed since the last periodic retrain, in frame periods of 10.24 µs; a first one finds no
interval to wait for (R303). -/
def State.rtDue (s : State) : Bool :=
  match s.dram.rtLast with
  | none => true
  | some t => decide (max 1 (s.fld R.MAP_CFG_RT_INTERVAL) * 10000000 ≤ (s.ticks - t) * 10240)

/-- DRAM_RETRAIN_TIMER: the interval of MAP.CFG.RT_INTERVAL has passed (R303). -/
def doDramRetrainTimer (s : State) : State :=
  if s.bit R.MAP_CFG_RT_EN && s.rtDue then { s with dram := { s.dram with rtLast := some s.ticks } }.dueRetrain else s

/-- DRAM_RETRAIN_TIMER. -/
def execDramRetrainTimer (s : State) : Host.Outcome State Fault Refusal := .next (doDramRetrainTimer s)

/-- The effect of MC.CTL.RETRAIN on local channel ch (R303): ignored if the channel is retired, or while the field reads
1; it waits for a retrain in progress, and until the channel is out of self-refresh. -/
def doMcRetrain (k ch : Nat) (s : State) : State :=
  let s := s.setFld (R.MC_CTL_CH k) ch
  let c := 8 * k + ch % 8
  if s.bit (R.MC_CTL_RETRAIN k) || s.chanRetired c then s
  else
    let s := s.setFld (R.MC_CTL_RETRAIN k) 1
    { s with dram := { s.dram with manual := s.dram.manual ++ [c] } }.waitingRetrain

/-- MC_RETRAIN. -/
def execMcRetrain (π : Path) (k ch : Nat) (s : State) : Host.Outcome State Fault Refusal :=
  .next (s.hostCmd π (0x1C0040 + 0x1000 * k) (doMcRetrain k ch))

/-- A channel is marked retired (R304): its bits, a retrain of it that waits, the counts, error 0x12 and RETIRED, and a save of the
record. -/
def State.markRetired (s : State) (c : Nat) : State :=
  let k := c / 8
  let s := s.setFld R.MAP_RETIRED (putBit (s.fld R.MAP_RETIRED) c true)
  let act := s.fld R.MAP_STAT_ACT_CH - (if s.chanActive c then 1 else 0)
  let s := s.setFld (R.MC_STAT_RETIRED k) (putBit (s.fld (R.MC_STAT_RETIRED k)) (c % 8) true)
  let s := s.setFld (R.MC_STAT_ACTIVE k) (putBit (s.fld (R.MC_STAT_ACTIVE k)) (c % 8) false)
  let s := s.setFld R.MAP_STAT_ACT_CH act
  let s := s.setBit R.MAP_STAT_REMAP_NEEDED (decide (act < s.fld R.MAP_STAT_MAP_CH))
  let s := if c ∈ s.dram.manual then
    { s with dram := { s.dram with manual := s.dram.manual.filter (fun m => m != c) } }.setFld (R.MC_CTL_RETRAIN k) 0 else s
  let s := s.mcError k 0x12 2
  let s := (s.error (pg .map) 0x10 0 0 none).raise (pg .map) 0
  s.requestSave.refreshCeiling

/-- The ROW regions on a channel are disabled (R304). -/
def State.rowsOff (s : State) (c : Nat) : State :=
  (List.range 7).foldl (fun s r =>
    if s.rgnOrder r = 2 ∧ s.fld (R.MAP_RGN_CTL_CHAN r) = c then s.setFld (R.MAP_RGN_CTL_ENABLE r) 0 else s) s

/-- A channel leaves service (R304); the requests held there are answered as those of a retired channel. -/
def State.retireChan (s : State) (c : Nat) : State :=
  if s.chanRetired c then s else ((s.markRetired c).serveHeld c (fun _ => true)).rowsOff c

/-- The effect of DRAM_RETRAIN_DONE: the retrain of a channel ends, with a working setting or without (R303, R304), and the
requests held there are served as the channel now is.
CTL.RETRAIN goes on reading 1 while a commanded retrain of the controller waits (R8). -/
def doDramRetrainDone (c : Nat) (ok : Bool) (s : State) : State :=
  if c ∉ s.dram.retraining then s else
    let k := c / 8
    let t := s.sfld (R.MC_TEMP k)
    let s := { s with dram := { s.dram with
      retraining := []
      lastTemp := s.dram.lastTemp.put 0 c t } }
    let s := s.setFld (R.MC_STAT_OFFLINE k) (putBit (s.fld (R.MC_STAT_OFFLINE k)) (c % 8) false)
    let s := s.setBit (R.MC_CTL_RETRAIN k) (s.dram.manual.any (fun m => decide (m / 8 = k)))
    let s := if ok then s else (s.mcLogAdd 7 12 63 (mkPlace c 0 0 0)).retireChan c
    (s.serveHeld c (fun _ => true)).waitingRetrain

/-- DRAM_RETRAIN_DONE. -/
def execDramRetrainDone (c : Nat) (ok : Bool) (s : State) : Host.Outcome State Fault Refusal :=
  .next (doDramRetrainDone c ok s)

/-- The effect of MC.CTL.RETIRE on local channel ch (R304). -/
def doRetire (k ch : Nat) (s : State) : State := (s.setFld (R.MC_CTL_CH k) ch).retireChan (8 * k + ch % 8)

/-- RETIRE. -/
def execRetire (π : Path) (k ch : Nat) (s : State) : Host.Outcome State Fault Refusal :=
  .next (s.hostCmd π (0x1C0040 + 0x1000 * k) (doRetire k ch))

/-- The effect of MC.LOG_POP.POP (R297): the oldest entry goes. -/
def doLogPop (k : Nat) (s : State) : State :=
  { s with dram := { s.dram with logs := s.dram.logs.put [] k (s.mcLog k).tail } }

/-- LOG_POP. -/
def execLogPop (π : Path) (k : Nat) (s : State) : Host.Outcome State Fault Refusal :=
  .next (s.hostCmd π (0x1C0060 + 0x1000 * k) (doLogPop k))

/-- Every controller in or out of self-refresh (R300); a retrain that fell due meanwhile starts at the exit (R303). -/
def State.setSelfRefresh (s : State) (b : Bool) : State :=
  let s := (List.range s.nMc).foldl (fun s k => s.setBit (R.MC_STAT_SELF_REFRESH k) b) s
  let s := { s with dram := { s.dram with selfRefresh := b, awake := [] } }
  if b then s else s.waitingRetrain

end Sys2Proof.Machine
end

