-- ==== Sys2Proof/Machine/Sets.lean ====
section
/-! DEFINITION. Sets in force by frame (R32) and the arrival window (R88, R94). -/

namespace Sys2Proof.Machine

/-- A frame lies at or after another, by signed 48-bit difference (R94). -/
def after48 (a b : Nat) : Bool := decide (0 ≤ seqDiff 48 a b)

/-- The set of a page in force at a frame: the latest one applied at or before it (R32). -/
def State.setAt (s : State) (p : Page) (f : Nat) : Option ActSet :=
  s.actives.find? (fun a => a.page == p && after48 f a.frame)

/-- The value in force at a frame of an active field of a page; before the first set, its reset value. -/
def State.fldAt (s : State) (p : Page) (f : Nat) (x : Fld) : Nat :=
  match s.setAt p f with
  | some a => a.regs.get (resetOf s.dev x) x.key
  | none => resetOf s.dev x

/-- An active field at a frame, as a flag. -/
def State.bitAt (s : State) (p : Page) (f : Nat) (x : Fld) : Bool := s.fldAt p f x != 0

/-- The word of an armed table window in force at a frame; 0 before the first set. -/
def State.tabAt (s : State) (p : Page) (f off : Nat) : Nat :=
  match s.setAt p f with
  | some a => a.tabs.get 0 off
  | none => 0

/-- The configuration in force at a frame. -/
def State.cfgAt (s : State) (f : Nat) : Cfg :=
  match s.cfgs.find? (fun c => after48 f c.f0) with
  | some c => c
  | none => {}

/-- The configuration of a pass: the latest one whose first pass is at or before it. -/
def State.cfgOfPass (s : State) (k : Nat) : Cfg :=
  match s.cfgs.find? (fun c => c.run && decide (c.pass0 ≤ k)) with
  | some c => c
  | none => {}

/-- The pass sequence number of a pass, and the integration sequence number of an integration, of the run (R17, R18). -/
def Cfg.shown (c : Cfg) (j : Nat) : Nat := (j - c.base) % m32
def Cfg.shownInt (c : Cfg) (q : Nat) : Nat := (q - c.ibase) % m32

/-- The first configuration of the oldest run whose passes lie at or after a number. -/
def State.runFrom (s : State) (k : Nat) : Option Cfg := (s.cfgs.filter (fun c => c.run && decide (k ≤ c.base))).getLast?

/-- The pass after pass j: the next of the run, or the first of a run started after it. -/
def State.passAfter (s : State) (j : Nat) : Option Nat :=
  if s.sward.ends.any (fun e => e.pass == j + 1) then (s.runFrom (j + 1)).map (fun c => c.base) else some (j + 1)

/-- Input groups of a configuration: ceil(N / 64). -/
def groupsOf (n : Nat) : Nat := ceilDiv n 64

/-- Frames per slot: 2 for CPLX4 direct ingest, else 1. -/
def framesPerSlot (mode : Nat) : Nat := if mode = 2 then 2 else 1

/-- The arrival area places tiles: NOW is valid, the page enabled, its directory written (R88). -/
def State.arrOpen (s : State) : Bool :=
  s.bit R.ARR_STAT_NOW_VALID && s.bit (R.PG_CTL_ENABLE (pg .arr)) && s.bit R.ARR_STAT_INIT_DONE

/-- NOW − LAT < f ≤ NOW + AHEAD in signed 48-bit difference (R94). -/
def State.frameInWindow (s : State) (f : Nat) : Bool :=
  let d := seqDiff 48 f s.now
  decide (-(max 2 (s.fld R.ARR_CFG_LAT) : Nat) < d) && decide (d ≤ (s.fld R.ARR_CFG_AHEAD : Int))

/-- A tile of frame f and format fmt is inside the arrival window (R88, R94). -/
def State.inWindow (s : State) (f fmt : Nat) : Bool :=
  s.arrOpen && s.frameInWindow f && (fmt == 0 || s.frameInWindow (f + 1))

/-- A pair (input group, coarse channel) lies in the tile set of link j in force at a frame (R72, R83). -/
def State.inTileSet (s : State) (j f ig cc : Nat) : Bool :=
  let p : Page := ⟨.lnk, j⟩
  let cb := s.fldAt p f (R.LNK_TS_CC_CC_BASE j)
  let cn := s.fldAt p f (R.LNK_TS_CC_CC_CNT j)
  let ib := s.fldAt p f (R.LNK_TS_IG_IG_BASE j)
  let gn := s.fldAt p f (R.LNK_TS_IG_IG_CNT j)
  decide (cb ≤ cc) && decide (cc < cb + cn) && decide (ib ≤ ig) && decide (ig < ib + gn)

/-- A pair lies in the tile set of some link in force at a frame. -/
def State.inAnyTileSet (s : State) (f ig cc : Nat) : Bool :=
  (List.range s.nLanes).any (fun j => s.inTileSet j f ig cc)

/-- The tile set of link j now active is not empty (R83). -/
def State.tileSetUsed (s : State) (j : Nat) : Bool :=
  decide (s.fld (R.LNK_TS_CC_CC_CNT j) ≠ 0) && decide (s.fld (R.LNK_TS_IG_IG_CNT j) ≠ 0)

end Sys2Proof.Machine
end

