-- ==== Sys2Proof/Machine/Link.lean ====
section
/-! DEFINITION. The sample link (spec/02): lanes, links, bring-up, training, marker groups, tiles and drop causes,
retraining, width degrade, DORMANT. -/

namespace Sys2Proof.Machine

/-! ### Lanes and links -/

def State.lane (s : State) (n : Nat) : LaneSt := s.lanes.get {} n
def State.setLane (s : State) (n : Nat) (l : LaneSt) : State := { s with lanes := s.lanes.put {} n l }
def State.link (s : State) (j : Nat) : LinkSt := s.links.get {} j
def State.setLink (s : State) (j : Nat) (l : LinkSt) : State := { s with links := s.links.put {} j l }

/-- LSTATE of a lane, and STATE of a link. -/
def State.lstate (s : State) (n : Nat) : Nat := s.fld (R.SLK_STAT_LSTATE n)
def State.lkstate (s : State) (j : Nat) : Nat := s.fld (R.LNK_STAT_STATE j)

/-- Codes of SLK.STAT.LSTATE. -/
def lsOff : Nat := 0
def lsDetect : Nat := 1
def lsS1 : Nat := 2
def lsTrain : Nat := 3
def lsActive : Nat := 4
def lsDormant : Nat := 5
def lsWaking : Nat := 6
def lsRetrain : Nat := 7
def lsFailed : Nat := 8
def lsSpareOk : Nat := 9

/-- Codes of LNK.STAT.STATE. -/
def lkDisabled : Nat := 0
def lkNegotiate : Nat := 1
def lkUp : Nat := 2
def lkDegraded : Nat := 3
def lkDormant : Nat := 4
def lkWaking : Nat := 5
def lkRetrain : Nat := 6
def lkDown : Nat := 7

/-- Codes of SLK.STAT.FAIL_CAUSE. -/
def fcTrainTimeout : Nat := 1
def fcNoSetting : Nat := 2
def fcSkew : Nat := 3
def fcSignalLost : Nat := 4
def fcMarker : Nat := 5
def fcNoStep : Nat := 6

def lnkPg (j : Nat) : Page := ⟨.lnk, j⟩
def slkPg (n : Nat) : Page := ⟨.slk, n⟩

/-- The link is UP or DEGRADED: data flows. -/
def State.carries (s : State) (j : Nat) : Bool := decide (s.lkstate j = lkUp) || decide (s.lkstate j = lkDegraded)

/-- The lanes of a set: first lane and width code. -/
def lanesOf (first width : Nat) : List Nat := (List.range (2 ^ width)).map (fun i => first + i)

/-- The lanes configured for a link. -/
def State.cfgLanes (s : State) (j : Nat) : List Nat := lanesOf (s.fld (R.LNK_CFG_FIRST_LANE j)) (s.fld (R.LNK_CFG_WIDTH j))

/-- The lanes a link uses. -/
def State.linkLanes (s : State) (j : Nat) : List Nat := lanesOf (s.link j).first (s.link j).width

/-- The link a lane belongs to. -/
def State.laneLink (s : State) (n : Nat) : Option Nat :=
  if s.bit (R.SLK_STAT_IN_LINK n) then some (s.fld (R.SLK_STAT_LINK_NUM n)) else none

/-- The fields that show a link's state. A wake, retrain or regrow is over when the link leaves WAKING and RETRAIN, and its command
field reads 0 (R8). -/
def State.showLkstate (s : State) (j st : Nat) : State :=
  let s := s.setFld (R.LNK_STAT_STATE j) st
  let s := if st = lkWaking ∨ st = lkRetrain ∨ st = lkDormant then s
    else ((s.setFld (R.LNK_CTL_WAKE_REQ j) 0).setFld (R.LNK_CTL_RETRAIN j) 0).setFld (R.LNK_CTL_REGROW j) 0
  if j = 0 then s.setBit (R.LNK_STAT_REFC_SRC 0) (decide (st = lkUp ∨ st = lkDegraded)) else s

/-- A link enters a state: the event and the interrupts of its change (R435, LNK interrupt sources). -/
def State.setLkstate (s : State) (j st : Nat) : State :=
  let old := s.lkstate j
  if old = st then s else
    let s := s.showLkstate j st
    let s := s.info (lnkPg j) 0xE1 none old st (s.fld (R.LNK_STAT_ACT_WIDTH j)) 0
    let s := s.raise (lnkPg j) 0
    if st = lkDegraded then s.raise (lnkPg j) 1
    else if st = lkDown then (s.error (lnkPg j) 0x11 0 0 none).raise (lnkPg j) 2
    else s

/-! ### The data stream (R47, R57, R67, R68, R70) -/

/-- One bit of the header CRC-8 (R68). -/
def crc8Bit (c : BitVec 8) : BitVec 8 := if c.getLsbD 7 then (c <<< 1) ^^^ 0x07#8 else c <<< 1

/-- CRC-8 with polynomial 0x07, initial value 0, no reflection, no final XOR (R68). -/
def crc8 (bs : List Byte) : BitVec 8 :=
  bs.foldl (fun c b => crc8Bit (crc8Bit (crc8Bit (crc8Bit (crc8Bit (crc8Bit (crc8Bit (crc8Bit (c ^^^ b))))))))) 0#8

/-- The header check of a tile (R68, R72 cause 5). -/
def hdrCrcOk (t : List Byte) : Bool := crc8 (sliceBytes t 0 31) == BitVec.ofNat 8 (leAt t 31 1)

/-- The type of a control block, its first byte (R57). -/
inductive BlockType where
  | data | marker | status | filler | reserved
  deriving DecidableEq, Repr

/-- The kind of a block (R57): by its header bit a data block, else by its first byte. -/
def blockKind (b : Block) : BlockType :=
  if b.data then .data
  else match leAt b.bytes 0 1 with | 0x4B => .marker | 0x55 => .status | 0x1E => .filler | _ => .reserved

/-- SYNC and IDLE as 4-byte words of the stream (R67, R70), and the words of a tile (R67: 2084 bytes). -/
def syncWord : Nat := 0x47A93C5E
def idleWord : Nat := 0x07070707
def tileWords : Nat := 521

/-- The 4-byte words of a data block. -/
def blockWords (bad : Bool) (bs : List Byte) : List (Bool × List Byte) :=
  (List.range 8).map (fun i => (bad, sliceBytes bs (4 * i) 4))

/-- The bytes of stream words. -/
def streamBytes (ws : List (Bool × List Byte)) : List Byte := ws.flatMap (fun w => w.2)

/-- A hunt's test of a place in the stream: SYNC, VERSION 0x01 and a valid CRC-8 (Receipt and drop causes). -/
def huntTest (ws : List (Bool × List Byte)) : Bool :=
  let h := streamBytes (ws.take 8)
  decide (leAt h 0 4 = syncWord) && decide (leAt h 4 1 = 1) && hdrCrcOk h

/-- The words of the blocks that wait to be dealt, in the order of the round from a turn on; a turn whose block has not come is
passed over. The number bounds the steps. -/
def roundWords (first lanes : Nat) : Nat → Nat → List RxBlock → List (Bool × List Byte)
  | 0, _, _ => []
  | k + 1, turn, q =>
    match q.find? (fun b => decide (b.lane = first + turn)) with
    | none => roundWords first lanes k ((turn + 1) % lanes) q
    | some b =>
      if blockKind b.block = BlockType.data then
        blockWords b.bad b.block.bytes ++ roundWords first lanes k ((turn + 1) % lanes) (q.erase b)
      else roundWords first lanes k turn (q.erase b)

/-- The tiles that begin in words of the stream, by framing as it stands: in a hunt, or not. The number bounds the steps. -/
def tilesIn : Nat → Bool → List (Bool × List Byte) → Nat
  | 0, _, _ => 0
  | _ + 1, _, [] => 0
  | k + 1, hunting, w :: rest =>
    if (if hunting then decide (7 ≤ rest.length) && huntTest (w :: rest) else decide (leNat w.2 = syncWord)) then
      1 + tilesIn k false ((w :: rest).drop tileWords)
    else tilesIn k (hunting || decide (leNat w.2 ≠ idleWord)) rest

/-- Tiles held in the buffers of a link behind the one in progress (R82): in words not yet framed, in blocks not yet dealt. -/
def LinkSt.held (l : LinkSt) : Nat :=
  let lanes := 2 ^ l.width
  let ws := (if l.rx.inTile then l.rx.words.drop tileWords else l.rx.words)
    ++ roundWords l.first lanes ((l.rx.fifo.length + 1) * lanes) l.rx.turn l.rx.fifo
  tilesIn (ws.length + 1) l.rx.hunt.isSome ws

/-- A framed tile dropped unreadable (R73): counted in one drop counter. -/
def State.dropUnread (s : State) (j : Nat) (ctr : Fld) : State :=
  (s.addFld ctr 1).setLink j { s.link j with unread := (s.link j).unread + 1 }

/-- A tile in progress is cut: it counts in RX_TILES and one drop counter (R72 causes RESET and TRUNC), and its words are
gone. -/
def State.cutTile (s : State) (j : Nat) (ctr : Fld) : State :=
  let rx := (s.link j).rx
  if rx.inTile then
    let s := s.setLink j { s.link j with rx := { rx with words := [], inTile := false, elasticNow := false } }
    (s.addFld (R.LNK_RX_TILES j) 1).dropUnread j ctr
  else s

/-- Data stops on a link (R77, R82): a tile in progress is cut, the tiles held in the link's buffers count under the same cause,
and the stream starts anew. -/
def State.cutStream (s₀ : State) (j : Nat) (ctr : Fld) : State :=
  let k := (s₀.link j).held
  let s := ((s₀.cutTile j ctr).addFld (R.LNK_RX_TILES j) k).addFld ctr k
  s.setLink j { s.link j with rx := {}, unread := (s.link j).unread + k }

/-- The locks of a lane cleared, at a change of rate. -/
def State.clearLocks (s : State) (n : Nat) : State :=
  ((s.setFld (R.SLK_STAT_CDR_LOCK n) 0).setFld (R.SLK_STAT_FEC_LOCK n) 0).setFld (R.SLK_STAT_MARKER_LOCK n) 0

/-- The event that a retrain of a lane has ended, where one was in progress before (R435). -/
def State.logRetrain (old s : State) (n : Nat) : State :=
  if old.lstate n = lsRetrain then s.info (slkPg n) 0xE1 none (s.regValue (0x20044 + 0x1000 * n)) 0 0 0 else s

/-- A lane becomes FAILED: its cause, its count, LANE_FAILED, and error 0x10 of its link (R84); a retrain or a standalone training
of it is over. -/
def State.failLane (s₀ : State) (j n cause : Nat) : State :=
  let s := s₀.setFld (R.SLK_STAT_LSTATE n) lsFailed
  let s := State.logRetrain s₀ (s.setFld (R.SLK_STAT_FAIL_CAUSE n) cause) n
  let s := s.setFld (R.SLK_CTL_RETRY n) 0
  let s := s.addFld (R.SLK_TRAIN_CNT_FAILS n) 1
  let s := s.setLane n { s.lane n with alone := false, ownReady := false, peerReady := false }
  (s.error (lnkPg j) 0x10 0 0 none).raise (slkPg n) 0

/-- The aligned lane sets of a width code within a set, lowest first (R45). -/
def alignedSets (first width w : Nat) : List (Nat × Nat) :=
  if width < w then [] else (List.range (2 ^ (width - w))).map (fun i => (first + i * 2 ^ w, w))

/-- The widest aligned set of at most a width code whose lanes all pass a test, within the configured set; of two, the
lower (R78, R79). -/
def State.bestSet (s : State) (j wmax : Nat) (ok : Nat → Bool) : Option (Nat × Nat) :=
  ((List.range (wmax + 1)).reverse.flatMap
    (alignedSets (s.fld (R.LNK_CFG_FIRST_LANE j)) (s.fld (R.LNK_CFG_WIDTH j)))).find? (fun x => (lanesOf x.1 x.2).all ok)

/-- A lane is not FAILED (R79). -/
def State.sound (s : State) (n : Nat) : Bool := decide (s.lstate n ≠ lsFailed)

/-- A lane that a degrade may take (R78): not FAILED, nor in the standalone training of R79, which has not brought it back yet
(DESIGN CHOICE). -/
def State.usable (s : State) (n : Nat) : Bool := s.sound n && !(s.lane n).alone

/-- The state a link takes at a working width: UP at the configured width, DEGRADED below it. -/
def State.runState (s : State) (j : Nat) : Nat :=
  if (s.link j).width = s.fld (R.LNK_CFG_WIDTH j) then lkUp else lkDegraded

/-- The taps a lane's transmitter uses: those of TX_FFE under FFE_OVR, else those training has set (R50). -/
def State.txTaps (s : State) (n : Nat) : Nat × Nat :=
  if s.bit (R.SLK_CTL_FFE_OVR n) then (s.fld (R.SLK_TX_FFE_PRE n), s.fld (R.SLK_TX_FFE_POST n))
  else ((s.lane n).pre, (s.lane n).post)

/-- The taps of the presets 1 to 4, of SAVED (5), within the range of R50. -/
def State.presetTaps (s : State) (n k : Nat) : Nat × Nat :=
  match k with
  | 1 => (0, 0) | 2 => (4, 8) | 3 => (8, 16) | 4 => (2, 12)
  | _ => (min 16 (s.fld (R.SLK_PRESET_OWN_PRE n)), min 24 (s.fld (R.SLK_PRESET_OWN_POST n)))

/-- A lane starts training at a step: locks gone, READY withdrawn. The S4 training starts from SLK.PRESET when it is
valid (R52). -/
def State.enterStep (s : State) (n step : Nat) : State :=
  let s := ((s.clearLocks n).setFld (R.SLK_STAT_STEP n) step).setFld (R.SLK_STAT_LSTATE n) lsTrain
  let l := { s.lane n with ownReady := false, peerReady := false, lastReq := none, askSaved := false }
  let l := if step = 4 ∧ s.bit (R.SLK_PRESET_VALID n) = true then
    { l with pre := (s.presetTaps n 5).1, post := (s.presetTaps n 5).2, askSaved := true } else l
  s.setLane n l

/-- The step that the lanes of a set have reached. -/
def State.stepOf (s : State) (lanes : List Nat) : Nat := lanes.foldl (fun m n => max m (s.fld (R.SLK_STAT_STEP n))) 0

/-- A lane comes into use by a link that had left it out (DESIGN CHOICE): during the bring-up it trains at the link's step,
later it carries data at that step. -/
def State.useLane (s : State) (j step n : Nat) : State :=
  if s.lkstate j = lkNegotiate then
    if s.fld (R.SLK_STAT_STEP n) = step then s else if step ≤ 1 then s else s.enterStep n step
  else if s.lstate n = lsSpareOk then
    (s.setFld (R.SLK_STAT_LSTATE n) lsActive).setFld (R.SLK_STAT_STEP n) (s.fld (R.LNK_STAT_ACT_STEP j))
  else s

/-- The link is to use another lane set (R78, R79): lanes left out that carried data stand by as SPARE_OK, those in training or
waking go on with it until they fail or end well (DESIGN CHOICE). -/
def State.leaveOut (s : State) (j first width : Nat) : State :=
  let old := s.linkLanes j
  let s := s.setLink j { s.link j with first := first, width := width }
  old.foldl (fun s n => if n ∈ lanesOf first width ∨ s.lstate n ≠ lsActive then s else s.setFld (R.SLK_STAT_LSTATE n) lsSpareOk) s

/-- The lane set in use changed (R78): lanes new to the set come into use. -/
def State.takeSet (s : State) (j first width : Nat) : State :=
  let old := s.linkLanes j
  let step := s.stepOf old
  let s := s.leaveOut j first width
  ((lanesOf first width).filter (fun n => decide (n ∉ old))).foldl (fun s n => s.useLane j step n) s

/-- The width and lane set in use reported. -/
def State.showSet (s : State) (j : Nat) : State :=
  (s.setFld (R.LNK_STAT_ACT_WIDTH j) (s.link j).width).setFld (R.LNK_STAT_ACT_FIRST_LANE j) (s.link j).first

/-- After a lane has failed: the link goes on at no more than half its width, or DOWN (R78). A link that is not yet up
goes on with its bring-up; one with a lane still retraining stays in RETRAIN until that ends. -/
def State.degrade (s : State) (j : Nat) : State :=
  let w := (s.link j).width
  let s := s.cutStream j (R.LNK_DROP_TRUNC j)
  match (if w = 0 then none else s.bestSet j (w - 1) s.usable) with
  | none => s.setLkstate j lkDown
  | some (f, v) =>
    let s := s.takeSet j f v
    if s.lkstate j = lkNegotiate then s
    else
      let s := s.showSet j
      if (s.linkLanes j).any (fun n => decide (s.lstate n = lsRetrain)) then s.setLkstate j lkRetrain
      else if s.lkstate j = lkWaking then s
      else s.setLkstate j lkDegraded

/-! ### Enable and disable (R45, R52) -/

/-- The cause for which the enable of a link is refused (R45, LNK error codes). A reserved WIDTH names no lane set and is judged
first; of several causes one is recorded, that of the lowest code (DESIGN CHOICE). -/
def State.lnkRefused (s : State) (j : Nat) : Option Nat :=
  let f := s.fld (R.LNK_CFG_FIRST_LANE j)
  let w := s.fld (R.LNK_CFG_WIDTH j)
  let m := s.fld (R.LNK_CFG_MAX_STEP j)
  if 4 < w then some 3
  else if f % 2 ^ w ≠ 0 then some 1
  else if (lanesOf f w).any (fun n => s.bit (R.SLK_STAT_IN_LINK n)) then some 2
  else if m < 2 ∨ 4 < m then some 3
  else if s.nLanes < f + 2 ^ w then some 4
  else none

/-- A lane joins a link and waits for its signal. -/
def State.joinLane (s : State) (j n : Nat) : State :=
  let s := s.setLane n { s.lane n with ownReady := false, peerReady := false, lastReq := none, txPrecode := false, uncorr := [], alone := false }
  let s := (s.clearLocks n).setFld (R.SLK_STAT_LSTATE n) lsDetect
  let s := (s.setFld (R.SLK_STAT_STEP n) 0).setFld (R.SLK_STAT_FAIL_CAUSE n) 0
  let s := (s.setFld (R.SLK_STAT_PRECODE_ON n) 0).setFld (R.SLK_STAT_SIG_DET n) 0
  ((s.setFld (R.SLK_STAT_LINK_NUM n) j).setFld (R.SLK_STAT_IN_LINK n) 1).setFld (R.SLK_CTL_RETRY n) 0

/-- A lane leaves its link. -/
def State.leaveLane (s : State) (n : Nat) : State :=
  let s := s.setLane n { s.lane n with ownReady := false, peerReady := false, lastReq := none, alone := false }
  let s := (s.clearLocks n).setFld (R.SLK_STAT_LSTATE n) lsOff
  let s := (s.setFld (R.SLK_STAT_STEP n) 0).setFld (R.SLK_STAT_SIG_DET n) 0
  let s := ((s.setFld (R.SLK_STAT_LINK_NUM n) 0).setFld (R.SLK_STAT_IN_LINK n) 0).setFld (R.SLK_STAT_PRECODE_ON n) 0
  s.setFld (R.SLK_CTL_RETRY n) 0

/-- The effect of setting LNK PG_CTL.ENABLE (R45): the lanes start bring-up, or the enable is refused. -/
def doLnkEnable (j : Nat) (s : State) : State :=
  if s.bit (R.PG_CTL_ENABLE (lnkPg j)) then s
  else if !s.domOn (lnkPg j).domain then s.setFld (R.PG_CTL_ENABLE (lnkPg j)) 1
  else match s.lnkRefused j with
    | some c => s.error (lnkPg j) c 0 0 none
    | none =>
      let f := s.fld (R.LNK_CFG_FIRST_LANE j)
      let w := s.fld (R.LNK_CFG_WIDTH j)
      let s := s.setFld (R.PG_CTL_ENABLE (lnkPg j)) 1
      let s := s.setLink j { first := f, width := w }
      let s := (lanesOf f w).foldl (fun s n => s.joinLane j n) s
      s.setLkstate j lkNegotiate

/-- LNK_ENABLE. -/
def execLnkEnable (π : Path) (j : Nat) (s : State) : Host.Outcome State Fault Refusal :=
  .next (s.hostCmd π (0x60008 + 0x1000 * j) (doLnkEnable j))

/-- A link stopped: a tile in progress counts under the cause given, every lane assigned to it leaves, its state is DISABLED,
its commands end (R52, R82). -/
def State.stopLink (s : State) (ctr : Nat → Fld) (j : Nat) : State :=
  let s := s.cutStream j (ctr j)
  let s := ((List.range s.nLanes).filter (fun n => s.laneLink n == some j)).foldl (fun s n => s.leaveLane n) s
  let s := s.setLkstate j lkDisabled
  let s := s.setLink j {}
  let s := (s.setFld (R.LNK_STAT_ACT_WIDTH j) 0).setFld (R.LNK_STAT_ACT_STEP j) 0
  let s := (s.setFld (R.LNK_STAT_ACT_FIRST_LANE j) 0).setFld (R.LNK_CTL_DORMANT_REQ j) 0
  ((s.setFld (R.LNK_CTL_WAKE_REQ j) 0).setFld (R.LNK_CTL_RETRAIN j) 0).setFld (R.LNK_CTL_REGROW j) 0

/-- The effect of clearing LNK PG_CTL.ENABLE: no reset, so that a tile in progress counts as TRUNC (R77). -/
def doLnkDisable (j : Nat) (s : State) : State :=
  if s.bit (R.PG_CTL_ENABLE (lnkPg j)) then (s.setFld (R.PG_CTL_ENABLE (lnkPg j)) 0).stopLink R.LNK_DROP_TRUNC j else s

/-- LNK_DISABLE. -/
def execLnkDisable (π : Path) (j : Nat) (s : State) : Host.Outcome State Fault Refusal :=
  .next (s.hostCmd π (0x60008 + 0x1000 * j) (doLnkDisable j))

/-! ### Bring-up (R49 to R55) -/

/-- The effect of SIGNAL_DETECT: a lane of a link sees its signal; one in DETECT starts at S1. -/
def doSignalDetect (n : Nat) (s : State) : State :=
  if s.lstate n = lsDetect then (s.setFld (R.SLK_STAT_SIG_DET n) 1).setFld (R.SLK_STAT_STEP n) 1
  else if s.lstate n = lsOff then s else s.setFld (R.SLK_STAT_SIG_DET n) 1

/-- SIGNAL_DETECT. -/
def execSignalDetect (n : Nat) (s : State) : Host.Outcome State Fault Refusal := .next (doSignalDetect n s)

/-- The filler blocks of the device's marker groups: values of FILL_GROUP below 66 are used as 66 (LNK.CFG). -/
def State.fillGroup (s : State) (j : Nat) : Nat := max 66 (s.fld (R.LNK_CFG_FILL_GROUP j))

/-- The device's S1 message on a lane (R52): version 0x01, its identity, the assignment of link number, lane index and width,
its maximum step, the precoding request of the lane's receive direction, and its filler group. -/
def State.sendS1 (s : State) (j n : Nat) : State :=
  s.emit (.s1 n (Config.linkIdentity % m32) j (n - (s.link j).first) (s.link j).width (s.fld (R.LNK_CFG_MAX_STEP j))
    (s.bit (R.SLK_CTL_PRECODE_REQ n)) (s.fillGroup j))

/-- The effect of CDR_LOCK: the receive clock of a lane with a signal is recovered; a lane in DETECT goes to S1_EXCH and sends
its S1 message. -/
def doCdrLock (n : Nat) (s : State) : State :=
  if s.lstate n = lsOff ∨ s.lstate n = lsFailed ∨ s.lstate n = lsDormant ∨ (s.lstate n = lsDetect ∧ s.bit (R.SLK_STAT_SIG_DET n) = false) then s
  else
    let s := s.setFld (R.SLK_STAT_CDR_LOCK n) 1
    if s.lstate n = lsDetect then (s.setFld (R.SLK_STAT_LSTATE n) lsS1).sendS1 (s.fld (R.SLK_STAT_LINK_NUM n)) n else s

/-- CDR_LOCK. -/
def execCdrLock (n : Nat) (s : State) : Host.Outcome State Fault Refusal := .next (doCdrLock n s)

/-- The effect of FEC_LOCK: codeword lock on a lane whose CDR is locked, at a step that has FEC. -/
def doFecLock (n : Nat) (s : State) : State :=
  if s.bit (R.SLK_STAT_CDR_LOCK n) ∧ 2 ≤ s.fld (R.SLK_STAT_STEP n) then s.setFld (R.SLK_STAT_FEC_LOCK n) 1 else s

/-- FEC_LOCK. -/
def execFecLock (n : Nat) (s : State) : Host.Outcome State Fault Refusal := .next (doFecLock n s)

/-- The precoding of a lane fixed after the exchange (R49): receive when this end requested it, transmit when the peer
did, both only where CFG.PRECODE_ALLOW is 1. -/
def State.setPrecode (s : State) (j n : Nat) (m : CapMsg) : State :=
  let allow := s.bit (R.LNK_CFG_PRECODE_ALLOW j)
  let s := s.setBit (R.SLK_STAT_PRECODE_ON n) (allow && s.bit (R.SLK_CTL_PRECODE_REQ n))
  s.setLane n { s.lane n with txPrecode := allow && m.precodeReq.testBit (n - (s.link j).first) }

/-! ### PAM4 symbols (R48, R49) -/

/-- The number, 0 to 3 from −3 to +3, of the level that two bits give, the first of them as the high bit (R48). -/
def grayLevel : Bool → Bool → Nat
  | false, false => 0 | false, true => 1 | true, true => 2 | true, false => 3

/-- The two bits of a level number. -/
def grayBits : Nat → Bool × Bool
  | 0 => (false, false) | 1 => (false, true) | 2 => (true, true) | _ => (true, false)

/-- The level that a number stands for, in units of a third of the swing. -/
def levelOf (n : Nat) : Int := 2 * n - 3

/-- y(n) = (x(n) − y(n−1)) mod 4 over level numbers, after a symbol y (R49). -/
def precode : Nat → List Nat → List Nat
  | _, [] => []
  | y, x :: t => let z := (x + 4 - y % 4) % 4; z :: precode z t

/-- x(n) = (y(n) + y(n−1)) mod 4 over the symbols received, after a symbol y (R49). -/
def unprecode : Nat → List Nat → List Nat
  | _, [] => []
  | y, z :: t => (z + y) % 4 :: unprecode z t

/-- The symbols that a lane's transmitter sends for pairs of bits, after a symbol y: precoded where the exchange has put
precoding on for that direction. -/
def State.txSymbols (s : State) (n y : Nat) (bits : List (Bool × Bool)) : List Nat :=
  let x := bits.map (fun b => grayLevel b.1 b.2)
  if (s.lane n).txPrecode then precode y x else x

/-- The pairs of bits that a lane's receiver makes of symbols, after a symbol y: PRECODE_ON says whether they are precoded. -/
def State.rxBits (s : State) (n y : Nat) (symbols : List Nat) : List (Bool × Bool) :=
  (if s.bit (R.SLK_STAT_PRECODE_ON n) then unprecode y symbols else symbols).map grayBits

/-- The exchange of a link is complete: its fields, then NO_STEP, or the climb to S2 (R52). A wrong version is reported
and fails the lanes at their timeout. -/
def State.takeCap (s : State) (j : Nat) (m : CapMsg) : State :=
  let s := (s.setFld (R.LNK_PEER_ID j) m.identity).setFld (R.LNK_PEER_CAP_MAX_STEP j) m.maxStep
  let s := (s.setBit (R.LNK_PEER_CAP_PRECODE j) m.precode).setFld (R.LNK_PEER_CAP_FILL_GROUP j) m.fillGroup
  let s := s.setFld (R.LNK_PEER_CAP_VERSION j) m.version
  if m.version ≠ 1 then s.setLink j { s.link j with badVersion := true }
  else if m.maxStep ≤ 1 then
    let s := (s.linkLanes j).foldl (fun s n => s.failLane j n fcNoStep) s
    s.setLkstate j lkDown
  else
    let s := s.setLink j { s.link j with capDone := true, final := min (s.fld (R.LNK_CFG_MAX_STEP j)) m.maxStep }
    (s.linkLanes j).foldl (fun s n => (s.setPrecode j n m).enterStep n 2) s

/-- The effect of CAPABILITY_MESSAGE (R52): the second identical copy in succession is taken, when every lane of the link
is at S1. -/
def doCapabilityMessage (j : Nat) (m : CapMsg) (s : State) : State :=
  if s.lkstate j ≠ lkNegotiate ∨ (s.link j).capDone = true ∨ (s.link j).badVersion = true
    ∨ (s.linkLanes j).any (fun n => decide (s.lstate n ≠ lsS1)) = true then s
  else if (s.link j).capLast = some m then (s.setLink j { s.link j with capLast := none }).takeCap j m
  else s.setLink j { s.link j with capLast := some m }

/-- CAPABILITY_MESSAGE. -/
def execCapabilityMessage (j : Nat) (m : CapMsg) (s : State) : Host.Outcome State Fault Refusal :=
  .next (doCapabilityMessage j m s)

/-- One tap's answer to a request (R51): the new magnitude and the response code. -/
def tapAnswer (req v limit : Nat) : Nat × Nat :=
  match req % 4 with
  | 1 => if limit ≤ v then (v, 3) else (v + 1, 1)
  | 2 => if v = 0 then (v, 2) else (v - 1, 1)
  | _ => (v, 0)

/-- A transmitter's answer to a request field (R51): taps afterwards and the response codes. -/
def State.answerRequest (s : State) (n pre post preset : Nat) : (Nat × Nat) × (Nat × Nat) :=
  let l := s.lane n
  if s.bit (R.SLK_CTL_FFE_OVR n) then ((l.pre, l.post), (0, 0))
  else match preset % 8 with
    | 0 =>
      let a := tapAnswer pre l.pre 16
      let b := tapAnswer post l.post 24
      ((a.1, b.1), (a.2, b.2))
    | 6 | 7 => ((l.pre, l.post), (0, 0))
    | k => (s.presetTaps n k, (1, 1))

/-- The request of a training frame acted on: an unchanged request keeps its response, and a field that failed its CRC-8 is
ignored (R50, R51). -/
def State.trainRequest (s : State) (n : Nat) (f : TrainFrame) : State :=
  if !f.reqOk then s else
    let r := (f.reqPre, f.reqPost, f.preset)
    let l : LaneSt := { s.lane n with peerReady := (s.lane n).peerReady || f.peerReady }
    if l.lastReq = some r then s.setLane n l
    else
      let a := s.answerRequest n f.reqPre f.reqPost f.preset
      s.setLane n { l with pre := a.1.1, post := a.1.2, lastReq := some r, lastResp := a.2 }

/-- The taps the peer reports in its response field (PEER_FFE), unless that field failed its CRC-8. -/
def State.trainResponse (s : State) (n : Nat) (f : TrainFrame) : State :=
  if !f.respOk then s else
    let s := (s.setFld (R.SLK_PEER_FFE_PRE n) (min 16 f.peerPre)).setFld (R.SLK_PEER_FFE_POST n) (min 24 f.peerPost)
    s.setFld (R.SLK_PEER_FFE_MAIN n) (64 - min 16 f.peerPre - min 24 f.peerPost)

/-- The training frame that the device sends on a lane (R50, R51): its response; READY and no change once its receiver has found
that the setting works; else a request, of which the spec leaves open how the receiver chooses it (a free value), but for the
first of an S4 training with a valid SLK.PRESET, which asks for SAVED. -/
def State.sendTrain (s : State) (n : Nat) : State :=
  let l := s.lane n
  if l.ownReady then s.emit (.train n l.lastResp.1 l.lastResp.2 0 0 0 true)
  else if l.askSaved then
    (s.setLane n { l with askSaved := false }).emit (.train n l.lastResp.1 l.lastResp.2 0 0 5 false)
  else
    let (a, s) := s.free 3
    let (b, s) := s.free 3
    let (p, s) := s.free 6
    s.emit (.train n l.lastResp.1 l.lastResp.2 a b p false)

/-- The effect of TRAINING_FRAME (R50, R51) on a lane in training: the request is answered, the peer's taps are taken, READY
of both ends is noted, and the device sends a frame of its own. -/
def doTrainingFrame (n : Nat) (f : TrainFrame) (s : State) : State :=
  if (s.lstate n ≠ lsTrain ∧ s.lstate n ≠ lsRetrain) ∨ s.bit (R.SLK_STAT_CDR_LOCK n) = false then s
  else
    let s := (s.trainRequest n f).trainResponse n f
    let s := s.setFld (R.SLK_TRAIN_TIME_USEC n) (min f.usec 0xFFFFFF)
    let s := s.setLane n { s.lane n with ownReady := (s.lane n).ownReady || f.works }
    s.sendTrain n

/-- TRAINING_FRAME. -/
def execTrainingFrame (n : Nat) (f : TrainFrame) (s : State) : Host.Outcome State Fault Refusal :=
  .next (doTrainingFrame n f s)

/-- A step's training is complete on every lane of a link (R51). -/
def State.trained (s : State) (j : Nat) : Bool :=
  (s.linkLanes j).all (fun n => (s.lane n).ownReady && (s.lane n).peerReady)

/-- The link stops at a lower step at full width (R54): its lanes, trained there, lock to it again. -/
def State.settleAt (s : State) (j step : Nat) : State :=
  let s := s.setLink j { s.link j with final := step }
  (s.linkLanes j).foldl (fun s n =>
    let s := ((s.clearLocks n).setFld (R.SLK_STAT_STEP n) step).setFld (R.SLK_STAT_LSTATE n) lsTrain
    s.setLane n { s.lane n with ownReady := true, peerReady := true }) s

/-- A lane of a link fails; where the link uses it, the link degrades (R78). -/
def State.loseLane (s : State) (j n cause : Nat) : State :=
  if n ∈ s.linkLanes j ∧ s.lkstate j ≠ lkDown then (s.failLane j n cause).degrade j else s.failLane j n cause

/-- The effect of STEP_TRAIN_TIMEOUT (R54, R55): a lane of a link in bring-up has not completed a step within 20 ms. A lane that
is still at its step when the link has become DOWN fails too; a standalone training ends by RETRY_DONE. -/
def doStepTrainTimeout (n : Nat) (s : State) : State :=
  match s.laneLink n with
  | none => s
  | some j =>
    if (s.lkstate j ≠ lkNegotiate ∧ s.lkstate j ≠ lkDown) ∨ (s.lane n).alone = true then s
    else if s.lstate n = lsS1 then
      if (s.link j).badVersion then s.loseLane j n fcSignalLost else s
    else if s.lkstate j = lkDown ∧ s.lstate n = lsTrain then s.failLane j n fcTrainTimeout
    else if s.lstate n ≠ lsTrain ∨ ((s.lane n).ownReady = true ∧ (s.lane n).peerReady = true) then s
    else
      let step := s.fld (R.SLK_STAT_STEP n)
      if step ≤ 2 ∨ n ∉ s.linkLanes j ∨ s.bit (R.LNK_CFG_STEP_POLICY j) = true then s.loseLane j n fcTrainTimeout
      else s.settleAt j (step - 1)

/-- STEP_TRAIN_TIMEOUT. -/
def execStepTrainTimeout (n : Nat) (s : State) : Host.Outcome State Fault Refusal := .next (doStepTrainTimeout n s)

/-! ### Retraining (R76 to R79) -/

/-- A lane goes to RETRAIN from the taps in use; a standalone training of it is over. -/
def State.retrainLane (s : State) (n : Nat) : State :=
  let s := s.setLane n { s.lane n with ownReady := false, peerReady := false, lastReq := none, askSaved := false, uncorr := [], alone := false }
  ((s.setFld (R.SLK_CTL_RETRY n) 0).setFld (R.SLK_STAT_LSTATE n) lsRetrain).addFld (R.SLK_TRAIN_CNT_RETRAINS n) 1

/-- The STATUS block the device sends (R62): its link state, QL 0 with the valid bit clear, its DORMANT request (it never
acknowledges one: R80 lets only the driver and IDLE take the link there, DEDUCED), a retrain request with its map, whose bit k
names the lane k above the lowest in use (DESIGN CHOICE), and its filler group, at least 66. -/
def State.sendStatus (s : State) (j : Nat) (lanes : List Nat) : State :=
  s.emit (.status j
    { linkState := s.lkstate j, ql := 0, qlValid := false, dormReq := (s.link j).dormWait, dormAck := false
      retrainReq := !lanes.isEmpty, retrainMap := (lanes.map (fun n => 2 ^ (n - (s.link j).first))).sum
      fillGroup := s.fillGroup j })

/-- A retrain of a link that carries data, with the lanes concerned (R77): the peer is asked in a STATUS block, and data stops
on every lane. -/
def State.retrainLink (s : State) (j : Nat) (lanes : List Nat) : State :=
  let lanes := lanes.filter (fun n => decide (n ∈ s.linkLanes j))
  if s.carries j ∧ lanes ≠ [] then
    let s := (s.sendStatus j lanes).cutStream j (R.LNK_DROP_TRUNC j)
    let s := lanes.foldl (fun s n => s.retrainLane n) s
    s.setLkstate j lkRetrain
  else s

/-- The effect of LNK.CTL.RETRAIN: ignored unless UP or DEGRADED; every lane in use retrains. -/
def doRetrain (j : Nat) (s : State) : State :=
  if s.carries j then (s.setFld (R.LNK_CTL_RETRAIN j) 1).retrainLink j (s.linkLanes j) else s

/-- RETRAIN. -/
def execRetrain (π : Path) (j : Nat) (s : State) : Host.Outcome State Fault Refusal :=
  .next (s.hostCmd π (0x60040 + 0x1000 * j) (doRetrain j))

/-- A retrain or regrow of a link is over when none of its lanes is in RETRAIN or WAKING: it carries data again. -/
def State.retrainOver (s : State) (j : Nat) : State :=
  if s.lkstate j ≠ lkRetrain ∨ (s.linkLanes j).any (fun n => decide (s.lstate n = lsRetrain ∨ s.lstate n = lsWaking)) then s
  else
    (s.showSet j).setLkstate j (s.runState j)

/-- The taps a retrain has started from (R77): setting 0 those in use, 1 SLK.PRESET, 2 to 5 the presets 1 to 4. -/
def State.startTaps (s : State) (n setting : Nat) : State :=
  match setting with
  | 0 => s
  | 1 => s.setLane n { s.lane n with pre := (s.presetTaps n 5).1, post := (s.presetTaps n 5).2 }
  | k + 2 => s.setLane n { s.lane n with pre := (s.presetTaps n (k + 1)).1, post := (s.presetTaps n (k + 1)).2 }

/-- The device asks the peer's transmitter for a start of R77: no change for the taps in use, SAVED for SLK.PRESET, else a
preset (R51). -/
def State.askStart (s : State) (n setting : Nat) : State :=
  s.emit (.train n (s.lane n).lastResp.1 (s.lane n).lastResp.2 0 0 (match setting with | 0 => 0 | 1 => 5 | k + 2 => k + 1) false)

/-- The starts of R77 tried in their order from `k` on, until one works: the state with the taps of that one, or none where no
start that was tried works. -/
def State.tryStarts (s : State) (n : Nat) : Nat → List Bool → Option State
  | _, [] => none
  | k, ok :: t =>
    if 5 < k then none
    else
      let s := (s.startTaps n k).askStart n k
      if ok then some s else s.tryStarts n (k + 1) t

/-- A retraining lane has found a working setting (R77): it carries data again, or stands by where its link has left it out
meanwhile. -/
def State.retrained (s₀ : State) (j n usec : Nat) : State :=
  let s := s₀.setFld (R.SLK_STAT_LSTATE n) (if n ∈ s₀.linkLanes j then lsActive else lsSpareOk)
  let s := ((s.setFld (R.SLK_STAT_CDR_LOCK n) 1).setFld (R.SLK_STAT_FEC_LOCK n) 1).setFld (R.SLK_STAT_MARKER_LOCK n) 1
  let s := State.logRetrain s₀ (s.setFld (R.SLK_TRAIN_TIME_USEC n) (min usec 0xFFFFFF)) n
  (s.raise (slkPg n) 1).retrainOver j

/-- The effect of RETRAIN_DONE: a retraining lane tries the starts of R77 in their order and goes on with the first that works;
where none of those tried does, it goes on retraining. -/
def doRetrainDone (n : Nat) (r : RetrainEnd) (s : State) : State :=
  match s.laneLink n with
  | none => s
  | some j =>
    if s.lstate n ≠ lsRetrain then s else
      match s.tryStarts n 0 r.works with
      | some t => t.retrained j n r.usec
      | none => s

/-- RETRAIN_DONE. -/
def execRetrainDone (n : Nat) (r : RetrainEnd) (s : State) : Host.Outcome State Fault Refusal := .next (doRetrainDone n r s)

/-- The effect of SETTING_TIMEOUT: a retraining lane finds no working setting within 20 ms (R78). -/
def doSettingTimeout (n : Nat) (s : State) : State :=
  match s.laneLink n with
  | none => s
  | some j =>
    if s.lstate n ≠ lsRetrain then s else
      if n ∉ s.linkLanes j then s.failLane j n fcNoSetting
      else (s.failLane j n fcNoSetting).degrade j

/-- SETTING_TIMEOUT. -/
def execSettingTimeout (n : Nat) (s : State) : Host.Outcome State Fault Refusal := .next (doSettingTimeout n s)

/-- The step at which a lane of a link retrains: the link's, once a bring-up has ended (R77, R79). -/
def State.setStep (s : State) (j n : Nat) : State :=
  if s.fld (R.LNK_STAT_ACT_STEP j) = 0 then s else s.setFld (R.SLK_STAT_STEP n) (s.fld (R.LNK_STAT_ACT_STEP j))

/-- The effect of SLK.CTL.RETRY: a FAILED lane trains on its own at the step of its link (R79). -/
def doRetry (n : Nat) (s : State) : State :=
  if s.lstate n = lsFailed then
    let s := s.setLane n { s.lane n with alone := true, ownReady := false, peerReady := false, lastReq := none, askSaved := false }
    let s := (s.clearLocks n).setStep (s.fld (R.SLK_STAT_LINK_NUM n)) n
    (s.setFld (R.SLK_CTL_RETRY n) 1).setFld (R.SLK_STAT_LSTATE n) lsTrain
  else s

/-- RETRY. -/
def execRetry (π : Path) (n : Nat) (s : State) : Host.Outcome State Fault Refusal :=
  .next (s.hostCmd π (0x20040 + 0x1000 * n) (doRetry n))

/-- The effect of RETRY_DONE: the standalone training ends in SPARE_OK or FAILED (R79). A lane that returns to FAILED has the
FAIL_CAUSE NO_SETTING (DESIGN CHOICE). -/
def doRetryDone (n : Nat) (ok : Bool) (s : State) : State :=
  if !(s.lane n).alone then s else
    let s := s.setFld (R.SLK_CTL_RETRY n) 0
    match s.laneLink n with
    | none => s
    | some j =>
      if ok then
        let s := s.setLane n { s.lane n with alone := false }
        let s := ((s.setFld (R.SLK_STAT_CDR_LOCK n) 1).setFld (R.SLK_STAT_FEC_LOCK n) 1).setFld (R.SLK_STAT_MARKER_LOCK n) 1
        ((s.setFld (R.SLK_STAT_LSTATE n) lsSpareOk).setFld (R.SLK_STAT_FAIL_CAUSE n) 0).raise (slkPg n) 4
      else s.failLane j n fcNoSetting

/-- RETRY_DONE. -/
def execRetryDone (n : Nat) (ok : Bool) (s : State) : Host.Outcome State Fault Refusal := .next (doRetryDone n ok s)

/-- The effect of LNK.CTL.REGROW (R79): ignored unless DEGRADED; with a wider set every lane of it retrains, one in a standalone
training too. A lane in use that the wider set leaves out stands by as SPARE_OK (DESIGN CHOICE). -/
def doRegrow (j : Nat) (s : State) : State :=
  if s.lkstate j ≠ lkDegraded then s
  else match s.bestSet j (s.fld (R.LNK_CFG_WIDTH j)) s.sound with
    | some (f, w) =>
      if (s.link j).width < w then
        let s := (s.setFld (R.LNK_CTL_REGROW j) 1).cutStream j (R.LNK_DROP_TRUNC j)
        let s := s.leaveOut j f w
        (s.linkLanes j).foldl (fun s n => ((s.setFld (R.SLK_STAT_FAIL_CAUSE n) 0).setStep j n).retrainLane n) s |>.setLkstate j lkRetrain
      else s.setFld (R.LNK_STAT_REGROW_IGN j) 1
    | none => s.setFld (R.LNK_STAT_REGROW_IGN j) 1

/-- REGROW. -/
def execRegrow (π : Path) (j : Nat) (s : State) : Host.Outcome State Fault Refusal :=
  .next (s.hostCmd π (0x60040 + 0x1000 * j) (doRegrow j))

/-! ### DORMANT (R80, R81) -/

/-- A DORMANT request goes out, or is refused: `idle` is whether the device state asks (R80, R410). DESIGN CHOICE: a link that is
not UP or DEGRADED takes no request, without DORM_REFUSED. The run check of R80 is judged at the request. -/
def State.askDormant (s : State) (j : Nat) (idle : Bool) : State :=
  if !s.carries j || s.bit (R.LNK_CTL_DORMANT_REQ j) then s
  else if s.running && s.tileSetUsed j then s.setFld (R.LNK_STAT_DORM_REFUSED j) 1
  else (s.setFld (R.LNK_CTL_DORMANT_REQ j) 1).setLink j { s.link j with dormWait := true, dormIdle := idle, dormAcked := false }

/-- The effect of LNK.CTL.DORMANT_REQ. -/
def doDormantReq (j : Nat) (s : State) : State := s.askDormant j false

/-- DORMANT_REQ. -/
def execDormantReq (π : Path) (j : Nat) (s : State) : Host.Outcome State Fault Refusal :=
  .next (s.hostCmd π (0x60040 + 0x1000 * j) (doDormantReq j))

/-- The effect of DORMANT_ACK_TIMEOUT: the peer has not acknowledged within four marker intervals (R80). -/
def doDormantAckTimeout (j : Nat) (s : State) : State :=
  if !(s.link j).dormWait || (s.link j).dormAcked then s else
    let idle := (s.link j).dormIdle
    let s := s.setLink j { s.link j with dormWait := false, dormIdle := false }
    let s := (s.setFld (R.LNK_CTL_DORMANT_REQ j) 0).setFld (R.LNK_STAT_DORM_REFUSED j) 1
    if idle then s.setFld R.PWR_STAT_DORM_LEFT_UP 1 else s

/-- DORMANT_ACK_TIMEOUT. -/
def execDormantAckTimeout (j : Nat) (s : State) : Host.Outcome State Fault Refusal := .next (doDormantAckTimeout j s)

/-- The peer has acknowledged, and the next marker group is there: data stops, and the link is DORMANT, its receive clocks off
(R80). The run check is not judged again here (DESIGN CHOICE). -/
def State.enterDormant (s : State) (j : Nat) : State :=
  let s := s.cutStream j (R.LNK_DROP_TRUNC j)
  let s := s.setLink j { s.link j with dormWait := false, dormIdle := false, dormAcked := false }
  let s := s.setFld (R.LNK_CTL_DORMANT_REQ j) 0
  let s := (s.linkLanes j).foldl (fun s n => (s.clearLocks n).setFld (R.SLK_STAT_LSTATE n) lsDormant) s
  s.setLkstate j lkDormant

/-- A DORMANT link starts to wake, from either end (R81). -/
def State.startWake (s : State) (j : Nat) : State :=
  if s.lkstate j = lkDormant then
    ((s.linkLanes j).foldl (fun s n => s.setFld (R.SLK_STAT_LSTATE n) lsWaking) s).setLkstate j lkWaking
  else s

/-- The device wakes a DORMANT link: its wake tone goes out on every lane (R81). -/
def State.wakeLink (s : State) (j : Nat) : State :=
  if s.lkstate j = lkDormant then ((s.linkLanes j).foldl (fun s n => s.emit (.wakeTone n)) s).startWake j else s

/-- The effect of LNK.CTL.WAKE_REQ: ignored unless DORMANT. -/
def doWakeReq (j : Nat) (s : State) : State :=
  if s.lkstate j = lkDormant then (s.setFld (R.LNK_CTL_WAKE_REQ j) 1).wakeLink j else s

/-- WAKE_REQ. -/
def execWakeReq (π : Path) (j : Nat) (s : State) : Host.Outcome State Fault Refusal :=
  .next (s.hostCmd π (0x60040 + 0x1000 * j) (doWakeReq j))

/-- The effect of WAKE_TONE: the peer wakes a DORMANT link. -/
def doWakeTone (j : Nat) (s : State) : State := s.startWake j

/-- WAKE_TONE. -/
def execWakeTone (j : Nat) (s : State) : Host.Outcome State Fault Refusal := .next (doWakeTone j s)

/-- The effect of WAKE_TIMEOUT: a waking lane has missed a bound and retrains; the others go on waking (R81). -/
def doWakeTimeout (n : Nat) (s : State) : State :=
  match s.laneLink n with
  | none => s
  | some j =>
    if s.lstate n ≠ lsWaking then s else ((s.retrainLane n).setFld (R.LNK_CTL_WAKE_REQ j) 0).setLkstate j lkRetrain

/-- WAKE_TIMEOUT. -/
def execWakeTimeout (n : Nat) (s : State) : Host.Outcome State Fault Refusal := .next (doWakeTimeout n s)

/-! ### Marker groups (R60 to R65) -/

/-- The marker of one lane checked (R61): a wrong name fails the lane; so does one that arrives late, or whose marker count is
not the earliest lane's, which is late by whole intervals (DEDUCED). One that is wrong and late fails with MARKER_MISMATCH
(DESIGN CHOICE). The lane index counts from the lowest lane in use, after a
width degrade too (DESIGN CHOICE). -/
def State.checkMarker (s : State) (j count : Nat) (m : Marker) : State :=
  if m.lane ∉ s.linkLanes j ∨ s.lstate m.lane = lsFailed then s
  else if m.linkNum ≠ j ∨ m.physLane ≠ m.lane ∨ m.index ≠ m.lane - (s.link j).first then s.failLane j m.lane fcMarker
  else if 6400 < m.late ∨ m.count ≠ count then s.failLane j m.lane fcSkew
  else s.setFld (R.SLK_STAT_MARKER_LOCK m.lane) 1

/-- The marker count of the earliest marker of a group. -/
def groupCount : List Marker → Nat
  | [] => 0
  | m :: t => (t.foldl (fun b m => if m.late < b.late then m else b) m).count

/-- The latest marker of a group. -/
def latest (ms : List Marker) : Marker :=
  ms.foldl (fun b m => if b.late < m.late then m else b) ⟨0, 0, 0, 0, 0, 0, 0⟩

/-- Rate matching (R65): filler blocks deleted above the high mark, at most the group received, or inserted below the low
mark. The counters count blocks per lane. -/
def State.rateMatch (s : State) (j fill group : Nat) : State :=
  let del := min (fill - 80) group
  let ins := 48 - fill
  let s := (s.addFld (R.LNK_FILL_DEL j) del).addFld (R.LNK_FILL_INS j) ins
  let s := (s.minFld (R.LNK_ELASTIC_MIN j) (min fill (fill - del + ins))).maxFld (R.LNK_ELASTIC_MAX j) fill
  s.setFld (R.LNK_ELASTIC_FILL j) (fill - del + ins)

/-- A lane that its link has left out of the set in use stands by at the end of the bring-up (DESIGN CHOICE). -/
def State.spareLane (s : State) (j n : Nat) : State :=
  if n ∈ s.linkLanes j ∨ s.lstate n = lsFailed ∨ (s.lane n).alone = true then s else s.setFld (R.SLK_STAT_LSTATE n) lsSpareOk

/-- The next step of the bring-up, or the end of it (R52): ACT_STEP and the set in use are reported, the first readable
tile will only set c_last. -/
def State.advance (s : State) (j : Nat) : State :=
  let step := s.stepOf (s.linkLanes j)
  if step < (s.link j).final then (s.linkLanes j).foldl (fun s n => s.enterStep n (step + 1)) s
  else
    let s := (s.linkLanes j).foldl (fun s n => s.setFld (R.SLK_STAT_LSTATE n) lsActive) s
    let s := (s.cfgLanes j).foldl (fun s n => s.spareLane j n) s
    let s := (s.setFld (R.LNK_STAT_ACT_STEP j) step).showSet j
    let s := s.setLink j { s.link j with cValid := false, unread := 0 }
    s.setLkstate j (s.runState j)

/-- A waking link whose lanes all have their locks is up again (R81). c_last of R74 stays valid across DORMANT, which is no
bring-up (DESIGN CHOICE). -/
def State.wakeDone (s : State) (j : Nat) : State :=
  let s := (s.linkLanes j).foldl (fun s n => s.setFld (R.SLK_STAT_LSTATE n) lsActive) s
  s.setLkstate j (s.runState j)

/-- In a link that retrains, the lanes still waking that have their locks are ACTIVE (R81). -/
def State.wakeRest (s : State) (j : Nat) : State :=
  let s := (s.linkLanes j).foldl (fun s n => if s.lstate n = lsWaking ∧ s.bit (R.SLK_STAT_FEC_LOCK n) = true
    ∧ s.bit (R.SLK_STAT_MARKER_LOCK n) = true then s.setFld (R.SLK_STAT_LSTATE n) lsActive else s) s
  s.retrainOver j

/-- Every lane of a link has codeword and marker lock. -/
def State.locked (s : State) (j : Nat) : Bool :=
  (s.linkLanes j).all (fun n => s.bit (R.SLK_STAT_FEC_LOCK n) && s.bit (R.SLK_STAT_MARKER_LOCK n))

/-- The STATUS block of the peer (R62): its link state and quality level, an acknowledge of DORMANT, which takes effect at the
next marker group, and a retrain request, whose map bit k names the lane k above the lowest in use (DESIGN CHOICE). -/
def State.takeStatus (s : State) (j : Nat) (t : LinkStatus) : State :=
  let s := (s.setFld (R.LNK_REFC_QL_QL j) t.ql).setBit (R.LNK_REFC_QL_VALID j) t.qlValid
  let s := s.setLink j { s.link j with peerState := t.linkState, dormAcked := (s.link j).dormAcked || (t.dormAck && (s.link j).dormWait) }
  if t.retrainReq then
    s.retrainLink j ((s.linkLanes j).filter (fun n => t.retrainMap.testBit (n - (s.link j).first)))
  else s

/-- A marker interval passes in the window of R76. -/
def State.shiftUncorr (s : State) (n : Nat) : State :=
  let w := max 1 (s.fld (R.SLK_UNCORR_THR_WINDOW n))
  s.setLane n { s.lane n with uncorr := (0 :: (s.lane n).uncorr).take w }

/-- The blocks of a marker interval (R60). -/
def intervalBlocks : Nat := 327680

/-- The marker group the device sends on its own lanes (R60, R62): a MARKER block on each with the next marker count, the STATUS
blocks, and the filler group; IDLE words follow until the next one (R46). The device's interval is taken to run with the peer's
(DESIGN CHOICE). -/
def State.sendGroup (s : State) (j : Nat) : State :=
  let l := s.link j
  let s := s.setLink j { l with sent := (l.sent + 1) % 65536 }
  let s := (s.linkLanes j).foldl (fun s n => s.emit (.marker n j (n - l.first) l.width l.sent)) s
  let s := s.sendStatus j []
  (s.linkLanes j).foldl (fun s n => (s.emit (.filler n (s.fillGroup j))).emit (.idle n (intervalBlocks - 2 - s.fillGroup j))) s

/-- The group's place in the data stream: the round starts again at the lowest lane in use (R47), and the blocks of the group
are past of those that lie in an uncorrectable codeword. -/
def State.markStream (s : State) (j group : Nat) : State :=
  let rx := (s.link j).rx
  s.setLink j { s.link j with rx := { rx with turn := 0, bad := rx.bad.map (fun e => (e.1, e.2 - (2 + group))) |>.filter (fun e => decide (0 < e.2)) } }

/-- The effect of MARKER_GROUP (R60 to R65): `fill` is the fill of the fullest elastic buffer as the group begins. -/
def doMarkerGroup (j : Nat) (ms : List Marker) (t : LinkStatus) (fill : Nat) (s : State) : State :=
  let st := s.lkstate j
  if st = lkDisabled ∨ st = lkDormant ∨ st = lkDown
    ∨ (st = lkNegotiate ∧ ((s.link j).capDone = false ∨ s.trained j = false)) then s
  else
    let s := s.sendGroup j
    let before := (s.linkLanes j).filter (fun n => decide (s.lstate n = lsFailed))
    let s := ms.foldl (fun s m => s.checkMarker j (groupCount ms) m) s
    let s := (s.setFld (R.LNK_SKEW_MAX_SKEW j) (min (latest ms).late 65535)).setFld (R.LNK_SKEW_LATEST_LANE j) (latest ms).lane
    let s := (s.linkLanes j).foldl (fun s n => s.shiftUncorr n) s
    let failed := (s.linkLanes j).filter (fun n => decide (s.lstate n = lsFailed))
    let s := (s.rateMatch j fill t.fillGroup).markStream j t.fillGroup
    let s := if failed ≠ before then s.degrade j else s
    let s := if (s.link j).dormAcked && s.carries j then s.enterDormant j else s.takeStatus j t
    if failed ≠ before then s
    else if st = lkNegotiate then (if s.locked j then s.advance j else s)
    else if st = lkWaking then (if s.locked j then s.wakeDone j else s)
    else if st = lkRetrain then s.wakeRest j
    else s

/-- MARKER_GROUP. -/
def execMarkerGroup (j : Nat) (ms : List Marker) (t : LinkStatus) (fill : Nat) (s : State) : Host.Outcome State Fault Refusal :=
  .next (doMarkerGroup j ms t fill s)

/-! ### Codewords and locks (R56, R59, R66, R76) -/

/-- The blocks of one codeword, its data symbols of ten bits and all its symbols, and the symbol errors that it corrects at
most (R56). -/
def cwBlocks : Nat := 20
def cwData : Nat := cwBlocks * 257 / 10
def cwSymbols : Nat := 544
def cwCorrects : Nat := (cwSymbols - cwData) / 2

/-- The effect of CORRECTED_CODEWORD: a codeword with some corrected symbols, 1 to 15 (R56). -/
def doCorrectedCodeword (n k : Nat) (s : State) : State :=
  if s.bit (R.SLK_STAT_FEC_LOCK n) = true ∧ 1 ≤ k ∧ k ≤ cwCorrects then
    ((s.addFld (R.SLK_CORR_CW n) 1).addFld (R.SLK_CORR_SYM n) k).maxFld (R.SLK_FEC_MAX_MAX_SYM n) k
  else s

/-- CORRECTED_CODEWORD. -/
def execCorrectedCodeword (n k : Nat) (s : State) : Host.Outcome State Fault Refusal := .next (doCorrectedCodeword n k s)

/-- The effect of UNCORRECTABLE_CODEWORD (R59, R76): counted on its lane, of which the next blocks, at most 20, are the
codeword's; reaching the threshold retrains the link. -/
def doUncorrectableCodeword (n blocks : Nat) (s : State) : State :=
  match s.laneLink n with
  | none => s
  | some j =>
    if s.bit (R.SLK_STAT_FEC_LOCK n) = false then s else
      let s := s.addFld (R.SLK_UNCORR_CW n) 1
      let rx := (s.link j).rx
      let s := s.setLink j { s.link j with rx := { rx with bad := rx.bad.put 0 n (rx.bad.get 0 n + min blocks cwBlocks) } }
      let u := match (s.lane n).uncorr with | [] => [1] | h :: t => (h + 1) :: t
      let s := s.setLane n { s.lane n with uncorr := u }
      let c := s.fld (R.SLK_UNCORR_THR_COUNT n)
      let w := max 1 (s.fld (R.SLK_UNCORR_THR_WINDOW n))
      if c ≠ 0 ∧ c ≤ (u.take w).sum ∧ s.carries j = true then (s.raise (slkPg n) 3).retrainLink j [n] else s

/-- UNCORRECTABLE_CODEWORD. -/
def execUncorrectableCodeword (n blocks : Nat) (s : State) : Host.Outcome State Fault Refusal :=
  .next (doUncorrectableCodeword n blocks s)

/-- The effect of ELASTIC_OVERFLOW (R66): the tile in progress and those that start before the fill has fallen to 64
will be dropped. -/
def doElasticOverflow (n : Nat) (s : State) : State :=
  match s.laneLink n with
  | none => s
  | some j =>
    if !s.carries j then s else
      let l := s.link j
      let s := s.setLink j { l with elastic := true, rx := { l.rx with elasticNow := l.rx.inTile } }
      let s := (s.setFld (R.LNK_ELASTIC_FILL j) 128).maxFld (R.LNK_ELASTIC_MAX j) 128
      (s.error (lnkPg j) 0x12 0 0 none).raise (lnkPg j) 5

/-- ELASTIC_OVERFLOW. -/
def execElasticOverflow (n : Nat) (s : State) : Host.Outcome State Fault Refusal := .next (doElasticOverflow n s)

/-- The effect of LOCK_LOSS (R76): the lock bit falls; a lane of a link that carries data retrains. A signal below its level
releases signal detect, and the CDR lock goes with it (R457). -/
def doLockLoss (n : Nat) (k : LockKind) (s : State) : State :=
  let b : Fld := match k with
    | .cdr => R.SLK_STAT_CDR_LOCK n | .fec => R.SLK_STAT_FEC_LOCK n | .marker => R.SLK_STAT_MARKER_LOCK n | .signal => R.SLK_STAT_SIG_DET n
  if s.bit b = false then s else
    let s := s.setFld b 0
    let s := if k = .signal then s.setFld (R.SLK_STAT_CDR_LOCK n) 0 else s
    let s := if k = .marker then s.raise (slkPg n) 2 else s
    match s.laneLink n with
    | none => s
    | some j => s.retrainLink j [n]

/-- LOCK_LOSS. -/
def execLockLoss (n : Nat) (k : LockKind) (s : State) : Host.Outcome State Fault Refusal := .next (doLockLoss n k s)

/-! ### Presets -/

/-- The effect of SLK.CTL.PRESET_SAVE: the taps in use at S4, kept and saved; ignored below S4. -/
def doPresetSave (n : Nat) (s : State) : State :=
  if s.fld (R.SLK_STAT_STEP n) < 4 then s else
    let s := (s.setFld (R.SLK_PRESET_OWN_PRE n) (s.txTaps n).1).setFld (R.SLK_PRESET_OWN_POST n) (s.txTaps n).2
    let s := (s.setFld (R.SLK_PRESET_PEER_PRE n) (s.fld (R.SLK_PEER_FFE_PRE n))).setFld (R.SLK_PRESET_PEER_POST n) (s.fld (R.SLK_PEER_FFE_POST n))
    (s.setFld (R.SLK_PRESET_VALID n) 1).requestSave

/-- PRESET_SAVE. -/
def execPresetSave (π : Path) (n : Nat) (s : State) : Host.Outcome State Fault Refusal :=
  .next (s.hostCmd π (0x20040 + 0x1000 * n) (doPresetSave n))

/-- The effect of SLK.CTL.PRESET_CLR. -/
def doPresetClr (n : Nat) (s : State) : State :=
  let s := (s.setFld (R.SLK_PRESET_OWN_PRE n) 0).setFld (R.SLK_PRESET_OWN_POST n) 0
  let s := (s.setFld (R.SLK_PRESET_PEER_PRE n) 0).setFld (R.SLK_PRESET_PEER_POST n) 0
  (s.setFld (R.SLK_PRESET_VALID n) 0).requestSave

/-- PRESET_CLR. -/
def execPresetClr (π : Path) (n : Nat) (s : State) : Host.Outcome State Fault Refusal :=
  .next (s.hostCmd π (0x20040 + 0x1000 * n) (doPresetClr n))

/-! ### Tiles (R67 to R74) -/

/-- The field check of a tile against the ingest mode (R67, R72 cause 6). -/
def hdrFieldsOk (t : List Byte) (mode : Nat) : Bool :=
  decide (leAt t 4 1 = 1) && decide (leAt t 5 1 < 2) && decide (leAt t 6 1 < 64) && decide (leAt t 7 1 = 0)
  && decide (leAt t 8 2 < 4096) && decide (leAt t 24 7 = 0)
  && decide (leAt t 5 1 = (if mode = 2 then 1 else 0)) && (decide (leAt t 5 1 = 0) || decide (leAt t 10 6 % 2 = 0))

/-- A readable tile's counter value (R73, R74): tiles inferred as GAP, or GAP_RESYNC, an event of the tile's frame (R437) and its
SOURCE_ID (R67). -/
def State.readCnt (s : State) (j c frame source : Nat) : State :=
  let l := s.link j
  let last := s.fld (R.LNK_TILE_CNT_LAST j)
  let s' := (s.setFld (R.LNK_TILE_CNT_LAST j) c).setLink j { l with cValid := true, unread := 0 }
  if !l.cValid then s' else
    let d := (c + m32 - last) % m32
    if 1 ≤ d ∧ d ≤ 2 ^ 20 then
      let g := d - 1 - l.unread
      (s'.addFld (R.LNK_RX_TILES j) g).addFld (R.LNK_DROP_GAP j) g
    else (s'.tileError (lnkPg j) 0x13 0 0 (some frame) (some source)).raise (lnkPg j) 4

/-- A tile handed to the arrival area (R72, R98). -/
def State.handOver (s : State) (t : TileIn) : State :=
  let s := (s.addFld (R.LNK_ACCEPTED t.link) 1).addFld R.ARR_IN 1
  { s with arr := { s.arr with accepted := s.arr.accepted ++ [t] } }

/-- The initial register of CRC-32C, and its final XOR (R15). -/
def crcInit : BitVec 32 := 0xFFFFFFFF#32

/-- The PCRC of a tile (chapter Arrival Area): CRC-32C is affine over concatenation, so with the register r_h after the
32 header bytes the payload alone must have `CRC ^ step(r_h ^ crcInit)` over 2048 bytes of zeros. -/
def pcrcOf (hdr : List Byte) (crc : Nat) : Nat :=
  ((BitVec.ofNat 32 crc) ^^^ crcRun (crcRun crcInit hdr ^^^ crcInit) (List.replicate 2048 0)).toNat

/-- The tile as accepted. -/
def mkTile (j : Nat) (t : List Byte) : TileIn :=
  { link := j, group := leAt t 6 1 % 64, chan := leAt t 8 2, frame := leAt t 10 6, fmt := leAt t 5 1 % 2, source := leAt t 16 4
    cnt := leAt t 20 4 % 65536, pcrc := pcrcOf (sliceBytes t 0 32) (leAt t 2080 4), payload := sliceBytes t 32 2048 }

/-- A whole tile whose header can be read (R72 causes 7 and 8, R74). -/
def State.readTile (s : State) (j : Nat) (t : List Byte) : State :=
  let f := leAt t 10 6
  let s := s.readCnt j (leAt t 20 4) f (leAt t 16 4)
  if !s.inTileSet j f (leAt t 6 1) (leAt t 8 2) then s.addFld (R.LNK_DROP_NOT_MAPPED j) 1
  else if !s.inWindow f (leAt t 5 1) then s.addFld (R.LNK_DROP_WINDOW j) 1
  else s.handOver (mkTile j t)

/-- A tile that meets no elastic drop (R72 causes 4 to 8). -/
def State.fecTile (s : State) (j : Nat) (fec : Bool) (t : List Byte) : State :=
  if fec then s.dropUnread j (R.LNK_DROP_FEC j)
  else if !hdrCrcOk t then s.dropUnread j (R.LNK_DROP_HDR_CRC j)
  else if !hdrFieldsOk t (s.fldAt (pg .arr) (leAt t 10 6) R.ARR_GEOM_MODE) then s.dropUnread j (R.LNK_DROP_HDR_FIELD j)
  else s.readTile j t

/-- A tile received whole (R72): counted, and then accepted or dropped under the first cause that applies. -/
def State.endTile (s : State) (j : Nat) : State :=
  let l := s.link j
  let ws := l.rx.words.take tileWords
  let s := s.setLink j { l with rx := { l.rx with words := l.rx.words.drop tileWords, inTile := false, elasticNow := false } }
  let s := s.addFld (R.LNK_RX_TILES j) 1
  if l.rx.elasticNow then s.dropUnread j (R.LNK_DROP_ELASTIC j) else s.fecTile j (ws.any (fun w => w.1)) (streamBytes ws)

/-- Framing by length (chapter Sample Link, Receipt and drop causes): where no tile is in progress, SYNC starts one, an IDLE word
is passed over, and any other word starts a hunt. The number bounds the steps. -/
def State.frameTiles (s : State) (j : Nat) : Nat → State
  | 0 => s
  | n + 1 =>
    let l := s.link j
    if l.rx.hunt.isSome then s
    else if l.rx.inTile then (if tileWords ≤ l.rx.words.length then (s.endTile j).frameTiles j n else s)
    else match l.rx.words with
      | [] => s
      | w :: rest =>
        if leNat w.2 = syncWord then
          (s.setLink j { l with rx := { l.rx with inTile := true, elasticNow := l.elastic } }).frameTiles j n
        else if leNat w.2 = idleWord then (s.setLink j { l with rx := { l.rx with words := rest } }).frameTiles j n
        else s.setLink j { l with rx := { l.rx with hunt := some 0 } }

/-- A control block outside a marker group is discarded; a tile in progress is dropped with cause TRUNC (R58). -/
def State.strayBlock (s : State) (j : Nat) : State := s.cutTile j (R.LNK_DROP_TRUNC j)

/-- The next block of a lane, once its turn has come, enters the stream (R47): a data block's words, and the turn passes to the
next lane; a control block is taken out. -/
def State.dealBlock (s : State) (j : Nat) (b : RxBlock) : State :=
  let l := s.link j
  let rx := { l.rx with fifo := l.rx.fifo.erase b }
  if blockKind b.block = BlockType.data then
    let rx := { rx with turn := (rx.turn + 1) % 2 ^ l.width, words := rx.words ++ blockWords b.bad b.block.bytes }
    (s.setLink j { l with rx := rx }).frameTiles j (2 * rx.words.length + 2)
  else (s.setLink j { l with rx := rx }).strayBlock j

/-- Blocks are dealt in turn while the lane whose turn it is has one. The number bounds the steps. -/
def State.deal (s : State) (j : Nat) : Nat → State
  | 0 => s
  | n + 1 =>
    let l := s.link j
    match l.rx.fifo.find? (fun b => decide (b.lane = l.first + l.rx.turn)) with
    | none => s
    | some b => (s.dealBlock j b).deal j n

/-- A block received on a lane in use waits for its turn, with whether it lies in an uncorrectable codeword (R56, R59). -/
def State.queueBlock (s : State) (j n : Nat) (b : Block) : State :=
  if n ∉ s.linkLanes j then s else
    let l := s.link j
    let k := l.rx.bad.get 0 n
    s.setLink j { l with rx := { l.rx with fifo := l.rx.fifo ++ [⟨n, b, decide (0 < k)⟩], bad := l.rx.bad.put 0 n (k - 1) } }

/-- The effect of LINK_TILE: blocks received on a lane of a link that carries data enter its stream, each in its turn, and are
framed. `fill` is the fill of the fullest elastic buffer (R66). -/
def doLinkTile (j n fill : Nat) (blocks : List Block) (s : State) : State :=
  if !s.carries j then s else
    let l := s.link j
    let s := if l.elastic then (s.setFld (R.LNK_ELASTIC_FILL j) fill).setLink j { l with elastic := decide (64 < fill) } else s
    let s := blocks.foldl (fun s b => s.queueBlock j n b) s
    let s := s.frameTiles j (2 * (s.link j).rx.words.length + 2)
    s.deal j (s.link j).rx.fifo.length

/-- LINK_TILE. -/
def execLinkTile (j n fill : Nat) (blocks : List Block) (s : State) : Host.Outcome State Fault Refusal :=
  .next (doLinkTile j n fill blocks s)

/-- A hunt goes on over the words received until it finds a header; then it is logged with the words skipped, and a tile is in
progress (R70, R435). The number bounds the steps. -/
def State.huntOn (s : State) (j : Nat) : Nat → State
  | 0 => s
  | n + 1 =>
    let l := s.link j
    match l.rx.hunt with
    | none => s
    | some k =>
      if l.rx.words.length < 8 then s
      else if huntTest l.rx.words then
        let s := s.setLink j { l with rx := { l.rx with hunt := none, inTile := true, elasticNow := l.elastic } }
        s.info (lnkPg j) 0xE2 none k 0 0 0
      else (s.setLink j { l with rx := { l.rx with hunt := some (k + 1), words := l.rx.words.drop 1 } }).huntOn j n

/-- The effect of HUNT: the hunt of a link, which a word that is neither SYNC nor IDLE has started, tests so many places more, as
far as words have been received. -/
def doHunt (j words : Nat) (s : State) : State := if s.carries j then s.huntOn j words else s

/-- HUNT. -/
def execHunt (j words : Nat) (s : State) : Host.Outcome State Fault Refusal := .next (doHunt j words s)

/-- The effect of STRAY_CONTROL_BLOCK (R58): a control block outside a marker group is discarded; a tile in progress is dropped
with cause TRUNC. -/
def doStrayControlBlock (j : Nat) (b : Block) (s : State) : State :=
  if s.carries j && decide (blockKind b ≠ BlockType.data) then s.strayBlock j else s

/-- STRAY_CONTROL_BLOCK. -/
def execStrayControlBlock (j : Nat) (b : Block) (s : State) : Host.Outcome State Fault Refusal :=
  .next (doStrayControlBlock j b s)

end Sys2Proof.Machine
end

