-- ==== Sys2Proof/Machine/Arrival.lean ====
section
/-! DEFINITION. The arrival area (spec/03): the frame clock and its loads, placement, closes and expiry of frames, and
the verified read of a slot. -/

namespace Sys2Proof.Machine

/-! ### Quantities (R89, R101) -/

/-- D, the depth in frames; LAT with its substitute. -/
def State.depth (s : State) : Nat := 2 ^ s.fld R.ARR_CFG_DEPTH_EXP
def State.lat (s : State) : Nat := max 2 (s.fld R.ARR_CFG_LAT)

/-- N, MODE and N_CC in force at a frame. -/
def State.geomN (s : State) (f : Nat) : Nat := s.fldAt (pg .arr) f R.ARR_GEOM_N
def State.geomMode (s : State) (f : Nat) : Nat := s.fldAt (pg .arr) f R.ARR_GEOM_MODE
def State.geomCc (s : State) (f : Nat) : Nat := s.fldAt (pg .arr) f R.ARR_GEOM_N_CC

/-- The slot within its slot period (R89). -/
def State.slotIn (s : State) (f ig cc : Nat) : Nat := cc * groupsOf (s.geomN f) + ig

/-- The slot period of a frame, and S_f. -/
def State.slotPeriod (s : State) (f : Nat) : Nat :=
  let q := framesPerSlot (s.geomMode f)
  f / q % max 1 (s.depth / q)
def State.slotsPer (s : State) (f : Nat) : Nat := groupsOf (s.geomN f) * s.geomCc f

/-- The slot σ of a tile (R89). -/
def State.slotOf (s : State) (f ig cc : Nat) : Nat := s.slotPeriod f * s.slotsPer f + s.slotIn f ig cc

/-- PAY_BASE and DIR_BASE in bytes, and the addresses of a slot's payload and descriptor (R89). -/
def State.payAddr (s : State) (f ig cc : Nat) : Nat := s.fld R.ARR_PAY_BASE * 4096 + 2048 * s.slotOf f ig cc
def State.descAddr (s : State) (f ig cc : Nat) : Nat :=
  s.fld R.ARR_DIR_BASE * 4096 + 16 * (s.slotPeriod f * 4096 + s.slotIn f ig cc)

/-- The formula of R101 for the present CFG; negative where the page cannot be enabled. -/
def State.oMaxRaw (s : State) : Int := 16 * ((s.depth : Int) - s.lat - s.fld R.ARR_CFG_AHEAD - 17) - 1

/-- O_max (R101). -/
def State.oMax (s : State) : Nat := s.oMaxRaw.toNat

/-! ### The lag of the chunk in progress (R119) -/

def chn0 : Page := pg .chn0
def chn1 : Page := ⟨.chn1, 0⟩

/-- The raw lag of the chunk in progress in frame periods. -/
def State.chunkLag (s : State) : Option Int :=
  s.chn.chunk.map (fun c => seqDiff 48 s.now (c.num * c.len + s.lat))

/-- CHN1.LAG from the present NOW. -/
def State.showLag (s : State) : State :=
  let v := match s.chunkLag with | some l => (min 255 (max 0 l)).toNat | none => 0
  (s.setFld R.CHN1_LAG_CUR v).maxFld R.CHN1_LAG_MAX v

/-- BEHIND set, raised and recorded. -/
def State.behind (s : State) : State :=
  ((s.setFld R.CHN1_STAT_BEHIND 1).raise chn1 0).error chn1 0x10 0 0
    (s.chn.chunk.map (fun c => c.num * c.len))

/-- The lag above which BEHIND is set. -/
def lagLimit (q : Nat) : Int := 16 + 2 * ((q : Int) - 8)

/-- LAG follows NOW; a lag of the chunk in progress that now exceeds the limit, and did not before, sets BEHIND. -/
def State.judgeLag (s : State) : State :=
  let s := s.showLag
  match s.chn.chunk, s.chunkLag with
  | some c, some l =>
    let lag := decide (lagLimit c.len < l)
    let s := if lag && !c.beyond then s.behind else s
    { s with chn := { s.chn with chunk := some { c with beyond := lag } } }
  | _, _ => s

/-! ### The residency map (R92, R93, R99, R100) -/

/-- The residency map cleared, and the account of first reads with it; its tiles counted in a counter. -/
def State.clearResident (s : State) (ctr : Fld) : State :=
  let s := s.addFld ctr (s.fld R.ARR_RESIDENT)
  let s := s.setFld R.ARR_RESIDENT 0
  { s with arr := { s.arr with resident := [], counted := [] } }

/-- Tiles accepted and not yet placed, counted in a counter. -/
def State.dropAccepted (s : State) (ctr : Fld) : State :=
  let s := s.addFld ctr s.arr.accepted.length
  { s with arr := { s.arr with accepted := [] } }

/-- The frame whose tile set a slot's residency bit; none where the bit is clear. -/
def State.residentFrame (s : State) (σ : Nat) : Option Nat :=
  match s.arr.resident.get 0 σ with
  | 0 => none
  | f + 1 => some f

/-- A residency bit set for a frame, or cleared. -/
def State.setResident (s : State) (σ : Nat) (f : Option Nat) : State :=
  { s with arr := { s.arr with resident := s.arr.resident.put 0 σ (match f with | some f => f + 1 | none => 0) } }

/-- A run was active at a frame (R97, R190). -/
def State.runAt (s : State) (f : Nat) : Bool :=
  s.sward.runs.any (fun r => after48 f r.1 && (match r.2 with | some e => !after48 f e | none => true))

/-! ### The frame clock (R85 to R87) -/

/-- The present tick is an edge of the SYNC grid, with no realign pending (R86, R393). -/
def State.syncEdge (s : State) : Bool :=
  let p := s.fld R.TRN2_SYNC_PERIOD_FRAMES
  !s.tarn.realign && decide (p ≠ 0) && decide ((s.ticks - s.tarn.syncBase) % p = 0)

/-- The pending load, written at the present tick, shown in CTL and STAT (R87). -/
def State.setLoad (s : State) (l : LoadPend) : State :=
  let s := { s with arr := { s.arr with load := l, loadTick := s.ticks } }
  let s := (s.setBit R.ARR_CTL_LOAD_SYNC (decide (l = .sync))).setBit R.ARR_CTL_LOAD_NOW (decide (l = .now))
  s.setBit R.ARR_STAT_LOAD_PEND (decide (l ≠ .none))

/-- ARR.STAT.CFG_BLOCKED set. -/
def State.arrBlocked (s : State) : State := s.setFld R.ARR_STAT_CFG_BLOCKED 1

/-- The effect of ARR.CTL.LOAD_SYNC (R86, R87). -/
def doLoadSync (s : State) : State :=
  if s.running || (decide (s.fld R.TRN2_SYNC_PERIOD_FRAMES = 0) && !s.tarn.realign) then s.arrBlocked else s.setLoad .sync

/-- The effect of ARR.CTL.LOAD_NOW (R86, R87). -/
def doLoadNow (s : State) : State := if s.running then s.arrBlocked else s.setLoad .now

/-- The effect of ARR.CTL.LOAD_CANCEL (R87). -/
def doLoadCancel (s : State) : State := s.setLoad .none

/-- LOAD_SYNC. -/
def execLoadSync (π : Path) (s : State) : Host.Outcome State Fault Refusal := .next (s.hostCmd π 0xA0040 doLoadSync)

/-- LOAD_NOW. -/
def execLoadNow (π : Path) (s : State) : Host.Outcome State Fault Refusal := .next (s.hostCmd π 0xA0040 doLoadNow)

/-- LOAD_CANCEL. -/
def execLoadCancel (π : Path) (s : State) : Host.Outcome State Fault Refusal := .next (s.hostCmd π 0xA0040 doLoadCancel)

/-- NOW loaded from NOW_LD (R86); the account of closes starts afresh (R96), and with it that of expired frames. The lag of
a chunk in progress follows the new NOW. -/
def State.loadFrame (s : State) : State :=
  let l := s.fld R.ARR_NOW_LD
  let s := (s.setFld R.ARR_NOW l).setFld R.ARR_STAT_NOW_VALID 1
  let s := (s.clearResident R.ARR_INVAL_UNUSED).setLoad .none
  let s := { s with arr := { s.arr with floor := some ((l + m48 - s.lat) % m48), closed := none }
                    chn := { s.chn with next := none }, dly := { s.dly with nextFrame := none } }
  s.judgeLag

/-- A frame tick has come since the pending load was written (R86). -/
def State.loadRipe (s : State) : Bool := decide (s.arr.loadTick < s.ticks)

/-- The effect of NOW_LOAD: a pending load acts at this frame tick, the first or a later one since it was written, a
LOAD_SYNC only at an edge of the SYNC grid. -/
def doNowLoad (s : State) : State :=
  match s.arr.load with
  | .none => s
  | .now => if s.loadRipe then s.loadFrame else s
  | .sync => if s.loadRipe && s.syncEdge then s.loadFrame else s

/-- NOW_LOAD. -/
def execNowLoad (s : State) : Host.Outcome State Fault Refusal := .next (doNowLoad s)

/-! ### Enable (R92) -/

/-- The cause for which the enable of ARR is refused (R101, ARR.CFG). -/
def State.arrRefused (s : State) : Option Nat :=
  let e := s.fld R.ARR_CFG_DEPTH_EXP
  if e < 6 ∨ 12 < e then some 1
  else if s.depth < s.lat + s.fld R.ARR_CFG_AHEAD + 18 then some 2
  else none

/-- The effect of setting ARR PG_CTL.ENABLE (R92). -/
def doArrEnable (s : State) : State :=
  if s.bit (R.PG_CTL_ENABLE (pg .arr)) then s
  else if !s.domOn (pg .arr).domain then s.setFld (R.PG_CTL_ENABLE (pg .arr)) 1
  else match s.arrRefused with
    | some c => s.error (pg .arr) c 0 0 none
    | none =>
      let s := (s.clearResident R.ARR_INVAL_UNUSED).setFld (R.PG_CTL_ENABLE (pg .arr)) 1
      (s.setFld R.ARR_STAT_INIT_BUSY 1).setFld R.ARR_STAT_INIT_DONE 0

/-- ARR_ENABLE. -/
def execArrEnable (π : Path) (s : State) : Host.Outcome State Fault Refusal := .next (s.hostCmd π 0xA0008 doArrEnable)

/-- The area stops: no tile is placed, INIT_DONE clears (R92). Tiles accepted and not yet placed are counted unused. -/
def State.stopArr (s : State) (ctr : Fld) : State :=
  let s := s.dropAccepted ctr
  (s.setFld R.ARR_STAT_INIT_BUSY 0).setFld R.ARR_STAT_INIT_DONE 0

/-- The effect of clearing ARR PG_CTL.ENABLE. -/
def doArrDisable (s : State) : State :=
  if s.bit (R.PG_CTL_ENABLE (pg .arr)) then (s.setFld (R.PG_CTL_ENABLE (pg .arr)) 0).stopArr R.ARR_INVAL_UNUSED else s

/-- ARR_DISABLE. -/
def execArrDisable (π : Path) (s : State) : Host.Outcome State Fault Refusal := .next (s.hostCmd π 0xA0008 doArrDisable)

/-- Zeros over a stretch of DRAM addresses, within the region that holds its start. -/
def State.zeroRange (s : State) (m : Master) (addr len : Nat) : State :=
  if !s.dramOpen m then s
  else match s.rgnOf addr with
    | none => s
    | some (r, o) =>
      s.zeroStretch m ⟨.zero, s.rgnOrder r, s.rgnChans r, s.rgnCbase r, o, min (o + len) (s.rgnSize r)⟩

/-- The effect of INIT_DONE: every directory entry is written with VALID = 0 (R92). -/
def doInitDone (s : State) : State :=
  if !s.bit R.ARR_STAT_INIT_BUSY then s else
    let q := framesPerSlot (s.fld R.ARR_GEOM_MODE)
    let s := s.zeroRange .arrive (s.fld R.ARR_DIR_BASE * 4096) (s.depth / q * 65536)
    ((s.setFld R.ARR_STAT_INIT_BUSY 0).setFld R.ARR_STAT_INIT_DONE 1).raise (pg .arr) 3

/-- INIT_DONE. -/
def execInitDone (s : State) : Host.Outcome State Fault Refusal := .next (doInitDone s)

/-! ### Expiry, close, placement (R89 to R97) -/

/-- A resident slot of frame h expires: OVERRUN or UNUSED (R97). The first component says whether it counted OVERRUN. -/
def State.expireSlot (s : State) (σ h : Nat) : Bool × State :=
  let nb := groupsOf (s.geomN h)
  let k := σ % max 1 (s.slotsPer h)
  let ovr := s.runAt h && s.inAnyTileSet h (k % max 1 nb) (k / max 1 nb)
  let s := (s.setResident σ none).subFld R.ARR_RESIDENT 1
  (ovr, s.addFld (if ovr then R.ARR_INVAL_OVERRUN else R.ARR_INVAL_UNUSED) 1)

/-- What an expiry that counted an overrun does once (R97). -/
def State.overrun (s : State) (h : Nat) : State :=
  ((s.setFld R.ARR_STAT_OVERRUN 1).error (pg .arr) 0x10 0 0 (some h)).raise (pg .arr) 1

/-- The effect of SLOT_EXPIRY: the slots of frame NOW − D + AHEAD expire (R97); while ENABLE is 0 the residency bits stay as
they are (R92). -/
def doSlotExpiry (s : State) : State :=
  if !s.bit R.ARR_STAT_NOW_VALID || !s.bit (R.PG_CTL_ENABLE (pg .arr)) then s else
    let h := (s.now + m48 + s.fld R.ARR_CFG_AHEAD - s.depth) % m48
    let σs := (s.arr.resident.filter (fun e => decide (e.2 = h + 1))).map (fun e => e.1)
    let r := σs.foldl (fun (x : Bool × State) σ => let y := x.2.expireSlot σ h; (x.1 || y.1, y.2)) (false, s)
    if r.1 then r.2.overrun h else r.2

/-- SLOT_EXPIRY. -/
def execSlotExpiry (s : State) : Host.Outcome State Fault Refusal := .next (doSlotExpiry s)

/-- The descriptor of a tile (R91). -/
def descBytes (t : TileIn) : List Byte :=
  leBytes 6 t.frame ++ leBytes 1 (t.group % 64 + 64 * t.fmt) ++ leBytes 1 t.link ++ leBytes 2 (t.chan + 0x8000) ++
  leBytes 2 t.cnt ++ leBytes 4 t.pcrc

/-- A signed value taken into an extreme pair (LEAD.MIN, LEAD.MAX; R469). -/
def State.signedExt (s : State) (f : Fld) (v : Int) (better : Int → Int → Bool) : State :=
  if f.key ∈ s.exts then (if better v (s.sfld f) then s.setFld f (unsgn f.w v) else s)
  else { s.setFld f (unsgn f.w v) with exts := f.key :: s.exts }

/-- The lead of a placed tile against NOW (ARR.LEAD). -/
def State.lead (s : State) (f : Nat) : State :=
  let d := seqDiff 48 f s.now
  (s.signedExt R.ARR_LEAD_MIN d (fun a b => decide (a < b))).signedExt R.ARR_LEAD_MAX d (fun a b => decide (b < a))

/-- The effect of TILE_PLACE: the oldest accepted tile is placed in its slot, or counted a duplicate (R89, R91, R95). -/
def doTilePlace (s : State) : State :=
  match s.arr.accepted with
  | [] => s
  | t :: rest =>
    let s := { s with arr := { s.arr with accepted := rest } }
    let σ := s.slotOf t.frame t.group t.chan
    match s.residentFrame σ with
    | some f =>
      if f = t.frame then s.addFld R.ARR_INVAL_DUP 1
      else
        let r := s.expireSlot σ f
        let s := if r.1 then r.2.overrun f else r.2
        placeTile s σ t
    | none => placeTile s σ t
where
  /-- The tile written: payload, then descriptor; its residency bit set (R89, R93). -/
  placeTile (s : State) (σ : Nat) (t : TileIn) : State :=
    let s := (s.writeDram .arrive (s.payAddr t.frame t.group t.chan) t.payload).2
    let s := (s.writeDram .arrive (s.descAddr t.frame t.group t.chan) (descBytes t)).2
    ((s.setResident σ (some t.frame)).addFld R.ARR_RESIDENT 1).lead t.frame

/-- TILE_PLACE. -/
def execTilePlace (s : State) : Host.Outcome State Fault Refusal := .next (doTilePlace s)

/-- Every accepted tile placed, oldest first: a tile accepted in the window is placed before the next close of a frame and
before the counters of the page are latched (R94, R99). -/
def State.placeAll (s : State) : State := s.arr.accepted.foldl (fun s _ => doTilePlace s) s

/-- The slots of frame f in the active tile set that hold no tile of it (R96). -/
def State.missingSlots (s : State) (f : Nat) : Nat :=
  let nb := groupsOf (s.geomN f)
  ((List.range (s.slotsPer f)).filter (fun k =>
    s.inAnyTileSet f (k % max 1 nb) (k / max 1 nb) &&
    s.residentFrame (s.slotPeriod f * s.slotsPer f + k) != some f)).length

/-- The effect of FRAME_CLOSE: frame NOW − LAT closes, once, unless it lay below the window at the last load (R96); the tiles
accepted before it are placed first (R94). In CPLX4 direct ingest a slot closes with its first frame. -/
def doFrameClose (s : State) : State :=
  let s := s.placeAll
  let f := (s.now + m48 - s.lat) % m48
  let past := match s.arr.floor with | some l => decide (0 < seqDiff 48 f l) | none => true
  if !s.arrOpen || !past || decide (s.arr.closed = some f) then s
  else
    let s := { s with arr := { s.arr with closed := some f } }
    let n := if framesPerSlot (s.geomMode f) = 2 ∧ f % 2 = 1 then 0 else s.missingSlots f
    if n = 0 then s
    else ((s.addFld R.ARR_MISSING_SLOTS n).error (pg .arr) 0x11 0 0 (some f)).raise (pg .arr) 2

/-- FRAME_CLOSE. -/
def execFrameClose (s : State) : Host.Outcome State Fault Refusal := .next (doFrameClose s)

/-! ### The verified read of a slot (R99, R110, R111) -/

/-- Causes of invalid samples, in order of precedence (R111); 0 is valid. -/
def cForced : Nat := 1
def cExpired : Nat := 2
def cClamp : Nat := 3
def cOverrun : Nat := 4
def cMissing : Nat := 5
def cPoison : Nat := 6
def cCrc : Nat := 7
def cCode : Nat := 8
def cSettle : Nat := 9

/-- The cause a descriptor gives, read without poison, for the tile of frame f (R111 orders 4 and 5). -/
def descCause (d : List Byte) (f ig cc : Nat) : Nat :=
  let fr := leAt d 0 6
  if 0 < seqDiff 48 fr f then cOverrun
  else if leAt d 8 2 < 0x8000 ∨ fr ≠ f ∨ leAt d 6 1 % 64 ≠ ig ∨ leAt d 8 2 % 4096 ≠ cc then cMissing
  else 0

/-- The counting of a read (R99, R110, R116): the first read of the tile that set the bit clears it and is counted by its
outcome, while the area is enabled (R92). A priming read is a later read whatever the bit: each failure of one is counted,
and each failure of a read of a slot whose tile has been counted. -/
def State.countRead (s : State) (prime : Bool) (σ f cause : Nat) : State :=
  if s.residentFrame σ = some f ∧ prime = false then
    if s.bit (R.PG_CTL_ENABLE (pg .arr)) then
      let s := (s.setResident σ none).subFld R.ARR_RESIDENT 1
      let s := { s with arr := { s.arr with counted := s.arr.counted.put 0 σ (f + 1) } }
      s.addFld (if cause = cPoison then R.ARR_INVAL_POISON else if cause = 0 then R.ARR_CONSUMED else R.ARR_INVAL_CRC) 1
    else s
  else if cause ≠ 0 ∧ (prime = true ∨ s.arr.counted.get 0 σ = f + 1) then s.addFld R.ARR_REREAD_FAIL 1
  else s

/-- The read of the slot of frame f, input group ig, coarse channel cc, a priming read or not: its cause (0 where good) and
its payload, which is read only where the descriptor stands for the slot (R110, R314). In CPLX4 direct ingest a slot carries the label of its even frame. -/
def State.readSlot (s : State) (prime : Bool) (f ig cc : Nat) : (Nat × List Byte) × State :=
  let f := if framesPerSlot (s.geomMode f) = 2 then f - f % 2 else f
  let σ := s.slotOf f ig cc
  let (d, s) := s.readDram .chanRd (s.descAddr f ig cc) 16
  let c := if d.bad then cPoison else descCause d.bytes f ig cc
  if c ≠ 0 then ((c, List.replicate 2048 0), s.countRead prime σ f c)
  else
    let (p, s) := s.readDram .chanRd (s.payAddr f ig cc) 2048
    let c := if p.bad then cPoison else if crc32c p.bytes ≠ leAt d.bytes 12 4 then cCrc else 0
    ((c, p.bytes), s.countRead prime σ f c)

/-- The effect of SLOT_READ: a read of a slot by the channeliser (R99, R110). A frame that has not closed is not read. -/
def doSlotRead (f ig cc : Nat) (s : State) : State :=
  if !s.bit R.ARR_STAT_NOW_VALID || decide (groupsOf (s.geomN f) ≤ ig) || decide (s.geomCc f ≤ cc)
    || decide (seqDiff 48 s.now f < s.lat) then s
  else (s.readSlot false f ig cc).2

/-- SLOT_READ. -/
def execSlotRead (f ig cc : Nat) (s : State) : Host.Outcome State Fault Refusal := .next (doSlotRead f ig cc s)

end Sys2Proof.Machine
end

