-- ==== Sys2Proof/Machine/Float.lean ====
section
/-! DEFINITION. IEEE 754 arithmetic on bit patterns: binary64 and binary32, round to nearest even, through exact
dyadic numbers. The spec uses binary64 fma (R105), one binary64 product (R106) and binary32 sums. -/

namespace Sys2Proof.Machine

/-- A floating-point datum: NaN, an infinity, or ± m × 2^e. -/
inductive FVal where
  | nan
  | inf (neg : Bool)
  | fin (neg : Bool) (m : Nat) (e : Int)
  deriving DecidableEq, Repr

/-- A format: precision, exponent field width, least exponent of the last place. -/
structure FFmt where
  p : Nat
  w : Nat
  emin : Int
  deriving DecidableEq, Repr

def f64 : FFmt := ⟨53, 11, -1074⟩
def f32 : FFmt := ⟨24, 8, -149⟩

/-- The datum that a bit pattern holds. -/
def FFmt.decode (f : FFmt) (bits : Nat) : FVal :=
  let frac := bits % 2 ^ (f.p - 1)
  let ex := bits / 2 ^ (f.p - 1) % 2 ^ f.w
  let neg := decide (bits / 2 ^ (f.p - 1 + f.w) % 2 = 1)
  if ex = 2 ^ f.w - 1 then (if frac = 0 then .inf neg else .nan)
  else if ex = 0 then .fin neg frac f.emin
  else .fin neg (frac + 2 ^ (f.p - 1)) (f.emin + ex - 1)

/-- Bits of a number: the least n with v < 2^n. -/
def bitLen (v : Nat) : Nat := if v = 0 then 0 else Nat.log2 v + 1

/-- v × 2^e rounded to an integer, to nearest, ties to even. -/
def rneNat (v : Nat) (e : Int) : Nat :=
  if 0 ≤ e then v * 2 ^ e.toNat
  else
    let sh := (-e).toNat
    let q := v / 2 ^ sh
    let r := v % 2 ^ sh
    let h := 2 ^ (sh - 1)
    if h < r ∨ (r = h ∧ q % 2 = 1) then q + 1 else q

/-- The signed form of `rneNat`: to nearest, ties to even. -/
def rneInt (v : Int) (e : Int) : Int := if v < 0 then -(rneNat v.natAbs e : Int) else (rneNat v.natAbs e : Int)

/-- floor(v × 2^e). -/
def floorDyadic (v : Int) (e : Int) : Int := if 0 ≤ e then v * 2 ^ e.toNat else v / 2 ^ (-e).toNat

/-- The payload of a NaN that an operation makes: free. -/
def nanBits (f : FFmt) : Nat :=
  (2 ^ f.w - 1) * 2 ^ (f.p - 1) + 2 ^ (f.p - 2) + Config.nanPayload f.p f.w % 2 ^ (f.p - 2)

/-- A datum rounded to a format, to nearest even; overflow gives an infinity. -/
def FFmt.encode (f : FFmt) : FVal → Nat
  | .nan => nanBits f
  | .inf neg => (if neg then 2 ^ (f.p - 1 + f.w) else 0) + (2 ^ f.w - 1) * 2 ^ (f.p - 1)
  | .fin neg m e =>
    let s := if neg then 2 ^ (f.p - 1 + f.w) else 0
    if m = 0 then s
    else
      let e' := max (e + bitLen m - f.p) f.emin
      let m' := rneNat m (e - e')
      let (m', e') := if m' = 2 ^ f.p then (2 ^ (f.p - 1), e' + 1) else (m', e')
      if m' < 2 ^ (f.p - 1) then s + m'
      else
        let ex := (e' - f.emin + 1).toNat
        if 2 ^ f.w - 1 ≤ ex then s + (2 ^ f.w - 1) * 2 ^ (f.p - 1)
        else s + ex * 2 ^ (f.p - 1) + (m' - 2 ^ (f.p - 1))

/-- The exact sum of two data. An exact zero of opposite signs is +0 (round to nearest). -/
def FVal.add : FVal → FVal → FVal
  | .nan, _ => .nan
  | _, .nan => .nan
  | .inf a, .inf b => if a = b then .inf a else .nan
  | .inf a, _ => .inf a
  | _, .inf b => .inf b
  | .fin a m e, .fin b n g =>
    let k := min e g
    let x : Int := (m * 2 ^ (e - k).toNat : Nat)
    let y : Int := (n * 2 ^ (g - k).toNat : Nat)
    let v := (if a then -x else x) + (if b then -y else y)
    if v = 0 then .fin (a && b && decide (m = 0 ∧ n = 0)) 0 k else .fin (decide (v < 0)) v.natAbs k

/-- The exact product of two data. -/
def FVal.mul : FVal → FVal → FVal
  | .nan, _ => .nan
  | _, .nan => .nan
  | .inf a, .inf b => .inf (a != b)
  | .inf a, .fin b n _ => if n = 0 then .nan else .inf (a != b)
  | .fin a m _, .inf b => if m = 0 then .nan else .inf (a != b)
  | .fin a m e, .fin b n g => .fin (a != b) (m * n) (e + g)

/-- fma(a, b, c) in a format. -/
def FFmt.fma (f : FFmt) (a b c : Nat) : Nat := f.encode (((f.decode a).mul (f.decode b)).add (f.decode c))

/-- a × b in a format. -/
def FFmt.mulBits (f : FFmt) (a b : Nat) : Nat := f.encode ((f.decode a).mul (f.decode b))

/-- a + b in a format. -/
def FFmt.addBits (f : FFmt) (a b : Nat) : Nat := f.encode ((f.decode a).add (f.decode b))

/-- a − b in a format. -/
def FFmt.subBits (f : FFmt) (a b : Nat) : Nat :=
  f.encode ((f.decode a).add (match f.decode b with | .nan => .nan | .inf n => .inf (!n) | .fin n m e => .fin (!n) m e))

/-- An integer as a datum, exact. -/
def FVal.ofInt (v : Int) : FVal := .fin (decide (v < 0)) v.natAbs 0

/-- A finite datum as signed mantissa and exponent; none for NaN and infinities. -/
def FVal.dyadic? : FVal → Option (Int × Int)
  | .fin neg m e => some (if neg then -(m : Int) else (m : Int), e)
  | _ => none

/-- The datum is finite. -/
def FVal.finite (v : FVal) : Bool := v.dyadic?.isSome

end Sys2Proof.Machine
end

