-- ==== Sys2Proof/Machine/Delay.lean ====
section
/-! DEFINITION. The delay-model evaluator and the read offsets (spec/03, R101 to R109). A delay is a pure function of the
sets in force; UPDATE_INTERVAL counts, flags and latches what an interval gives. -/

namespace Sys2Proof.Machine

/-- What the evaluator gives one input over one update interval (R105, R106): D_int, D_frac, phi_ref, whether tau and the
product are finite, the value PROBE_DINT reads, whether the interval is expired, and the entry's COARSE, MODEL in force
and FORCE_INVALID. -/
structure DlyVal where
  dint : Int
  dfrac : Nat
  phi : Nat
  ok : Bool
  probe : Int
  expired : Bool
  coarse : Nat
  modelled : Bool
  forced : Bool
  deriving DecidableEq, Repr

/-- D_int and D_frac of a finite tau, m × 2^e (R106). -/
def splitTau (m e : Int) : Int × Nat :=
  let fl := floorDyadic m e
  let fr := if 0 ≤ e then 0 else m - fl * 2 ^ (-e).toNat
  let d := rneInt fr (e + 24)
  if d = 2 ^ 24 then (fl + 1, 0) else (fl, d.toNat)

/-- The fraction of m × 2^e in [0, 1), rounded to nearest at 2^-32 (R106). DESIGN CHOICE: a tie goes to even, and a result of
2^32 is 0 turns. -/
def fracTurn (m e : Int) : Nat :=
  let fl := floorDyadic m e
  let fr := if 0 ≤ e then 0 else m - fl * 2 ^ (-e).toNat
  (rneInt fr (e + 32)).toNat % m32

/-- tau of an input at the evaluation point x (R105): Horner's rule with binary64 fma. -/
def tauBits (c0 c1 c2 c3 : Nat) (x : Int) : Nat :=
  let xb := f64.encode (FVal.ofInt x)
  f64.fma (f64.fma (f64.fma c3 xb c2) xb c1) xb c0

/-- The signed 32-bit range. -/
def sat32 (v : Int) : Int := max (-2147483648) (min 2147483647 v)

/-- D_int, D_frac, phi_ref, whether they stand, and PROBE_DINT, of a tau (R106). -/
def tauParts (tau sky : Nat) : Int × Nat × Nat × Bool × Int :=
  match (f64.decode tau).dyadic? with
  | none => (0, 0, 0, false, -2147483648)
  | some (m, e) =>
    let fl := floorDyadic m e
    match (f64.decode (f64.mulBits sky tau)).dyadic? with
    | none => (0, 0, 0, false, sat32 fl)
    | some (pm, pe) =>
      if fl < -2147483648 ∨ 2147483647 < fl then (0, 0, 0, false, sat32 fl)
      else let d := splitTau m e; (d.1, d.2, fracTurn pm pe, true, d.1)

/-- U of the set in force at a frame (R105). -/
def State.updLen (s : State) (f : Nat) : Nat := 2 ^ s.fldAt (pg .dly) f R.DLY_CFG_UPD_EXP

/-- The signed difference f_j − ORIGIN of the interval that holds a coarse sample, under the set in force at f. -/
def State.segDelta (s : State) (f smp : Nat) : Int :=
  seqDiff 48 (smp / s.updLen f * s.updLen f / 16) (s.fldAt (pg .dly) f R.DLY_ORIGIN)

/-- The interval is expired under the set in force at f (R108). -/
def State.segExpired (s : State) (f smp : Nat) : Bool :=
  s.bitAt (pg .dly) f R.DLY_CFG_MODEL_EN && decide ((s.fldAt (pg .dly) f R.DLY_SEG_LEN_FRAMES : Int) ≤ s.segDelta f smp)

/-- A 64-bit entry of an armed table at a frame. -/
def State.tab64At (s : State) (p : Page) (f off : Nat) : Nat := s.tabAt p f off + m32 * s.tabAt p f (off + 4)

/-- What the evaluator gives input i for the interval that holds coarse sample smp, under the set in force at f. -/
def State.dlyVal (s : State) (f i smp : Nat) : DlyVal :=
  let p := pg .dly
  let ent := s.tabAt p f (0x1044000 + 4 * i)
  let on := s.bitAt p f R.DLY_CFG_MODEL_EN && ent.testBit 14
  let c (k : Nat) : Nat := s.tab64At p f (0x1020000 + 32 * i + 8 * k)
  let x := 16 * s.segDelta f smp + (s.updLen f / 2 : Nat)
  let q := if on then tauParts (tauBits (c 0) (c 1) (c 2) (c 3) x) (s.fldAt p f R.DLY_SKY_REF) else (0, 0, 0, true, 0)
  ⟨q.1, q.2.1, q.2.2.1, q.2.2.2.1, q.2.2.2.2, s.segExpired f smp, ent % 16384, on, ent.testBit 15⟩

/-- d_i = COARSE_i + D_int (R101); none where the delay is not finite or out of range. -/
def DlyVal.offset (v : DlyVal) : Option Int := if v.ok then some (v.coarse + v.dint) else none

/-! ### The channeliser's limit (R116, R117) -/

/-- H (R116). -/
def histLen (mode k m taps : Nat) : Nat :=
  if mode = 0 then (taps - 1) * 2 ^ (k + m) + 46 * (2 ^ m - 1) else 0

/-- O_ch for values of MODE, K, M_ZOOM, TAPS and CHUNK_EXP (R117). -/
def State.oChOf (s : State) (mode k m taps ce : Nat) : Int :=
  (if s.oMaxRaw < 0 then s.oMaxRaw else (s.oMax : Int)) - histLen mode k m taps - 32 * ((2 ^ ce : Nat) - 8 : Int)

/-- O_ch of the active configuration. -/
def State.oCh (s : State) : Int :=
  s.oChOf (s.fld R.ARR_GEOM_MODE) (s.fld R.CHN0_CFG_K) (s.fld R.CHN0_CFG_M_ZOOM) (s.fld R.CHN0_CFG_TAPS)
    (s.fld R.CHN0_CFG_CHUNK_EXP)

/-- O_ch of the sets in force at a frame (R32). -/
def State.oChAt (s : State) (f : Nat) : Int :=
  s.oChOf (s.geomMode f) (s.fldAt chn0 f R.CHN0_CFG_K) (s.fldAt chn0 f R.CHN0_CFG_M_ZOOM)
    (s.fldAt chn0 f R.CHN0_CFG_TAPS) (s.fldAt chn0 f R.CHN0_CFG_CHUNK_EXP)

/-- A read offset is applied at a frame: it lies in 0..O_max and not above O_ch (R101, R117). -/
def State.offsetOk (s : State) (f : Nat) (o : Option Int) : Bool :=
  match o with
  | none => false
  | some d => decide (0 ≤ d) && decide (d ≤ s.oMaxRaw) && decide (d ≤ s.oChAt f)

/-! ### UPDATE_INTERVAL (R105 to R109) -/

/-- How many of the `n` frames from frame fj have been counted as expired: those before the first uncounted one. -/
def State.expiredSkip (s : State) (fj n : Nat) : Nat :=
  match s.dly.nextFrame with
  | some x => min (seqDiff 48 x fj).toNat n
  | none => 0

/-- The expiry of the interval that covers `n` frames from frame fj (R108): its frames are counted once. -/
def State.countExpired (s : State) (fj n : Nat) : State :=
  let skip := s.expiredSkip fj n
  let s := s.addFld R.DLY_EXPIRED_FRAMES (n - skip)
  let s := if skip < n then { s with dly := { s.dly with nextFrame := some ((fj + n) % m48) } } else s
  (s.setFld R.DLY_STAT_EXPIRED 1).raise (pg .dly) 1

/-- What the probe latches of an input: zeros of one at or above N, whose entries are ignored (R114). -/
def State.probeVal (s : State) (f smp : Nat) : DlyVal :=
  let i := s.fld R.DLY_PROBE_IN_INPUT
  if i < s.geomN f then s.dlyVal f i smp else ⟨0, 0, 0, true, 0, false, 0, false, false⟩

/-- The probe latch (R109). -/
def State.probe (s : State) (f smp : Nat) : State :=
  let v := s.probeVal f smp
  let s := s.setFld R.DLY_PROBE_DINT (unsgn 32 v.probe)
  (s.setFld R.DLY_PROBE_DFRAC v.dfrac).setFld R.DLY_PROBE_PHASE v.phi

/-- The inputs whose read offset is not applied at a frame (R101). -/
def State.clampedAt (s : State) (f : Nat) : List Nat :=
  (List.range (s.geomN f)).filter (fun i => !s.offsetOk f (s.dlyVal f i (16 * f)).offset)

/-- The frames at which the read offsets of the n frames from fj are to be judged: the first, and each at which a set of
the delay model, the channeliser or the arrival area takes effect (R32). -/
def State.judgeFrames (s : State) (fj n : Nat) : List Nat :=
  fj :: ((s.actives.filter (fun a => (a.page == pg .dly || a.page == chn0 || a.page == pg .arr) &&
    decide (0 < seqDiff 48 a.frame fj) && decide (seqDiff 48 a.frame fj < n))).map (fun a => a.frame)).eraseDups

/-- The inputs clamped at some frame of the n frames from fj. -/
def State.clampedInputs (s : State) (fj n : Nat) : List Nat := ((s.judgeFrames fj n).flatMap s.clampedAt).eraseDups

/-- Input-intervals counted as clamped: each once (R101). -/
def State.countClamps (s : State) (is : List Nat) : State :=
  let s := { s with dly := { s.dly with clamped := is ++ s.dly.clamped } }
  if is = [] then s
  else ((s.addFld R.DLY_CLAMP_CNT is.length).setFld R.DLY_STAT_CLAMPED 1).raise (pg .dly) 2

/-- A set applied inside the interval last judged clamps further inputs of it. -/
def State.armClamps (s : State) : State :=
  let new := (s.clampedInputs s.dly.first s.dly.frames).filter (fun i => !s.dly.clamped.contains i)
  if s.dly.frames = 0 ∨ new = [] then s else s.countClamps new

/-- The effect of UPDATE_INTERVAL: interval j of the active UPD_EXP is evaluated, with the set in force at its first
frame. -/
def doUpdateInterval (j : Nat) (s : State) : State :=
  let u := 2 ^ s.fld R.DLY_CFG_UPD_EXP
  let smp := j * u
  let f := smp / 16 % m48
  let s := { s with dly := { s.dly with first := f, frames := u / 16, clamped := [] } }
  let s := s.countClamps (s.clampedInputs f (u / 16))
  let s := if s.segExpired f smp then s.countExpired f (u / 16)
    else s.setFld R.DLY_STAT_EXPIRED 0
  s.probe f smp

/-- UPDATE_INTERVAL. -/
def execUpdateInterval (j : Nat) (s : State) : Host.Outcome State Fault Refusal := .next (doUpdateInterval j s)

end Sys2Proof.Machine
end

