-- ==== Sys2Proof/Machine/Dsp.lean ====
section
/-! DEFINITION. The arithmetic of the channeliser (spec/04, R121 to R131): sines and cosines rounded from an exact enough
fixed-point series, the zoom stages, the filter bank, the FFT, and gain, rotation and requantisation. Saturating
stages answer how many components they saturated. -/

namespace Sys2Proof.Machine

/-- A complex number of integers: real, imaginary. -/
abbrev Cx := Int × Int

/-- 2π in units of 2^-128. -/
def twoPi : Int := 2138057168129933495719360746323741566601

/-- The Taylor series of cosine and sine in units of 2^-128: terms left, index of the present term, the term, the sums. -/
def taylor (x : Int) : Nat → Nat → Int → Int → Int → Cx
  | 0, _, _, c, s => (c, s)
  | n + 1, k, t, c, s =>
    let c' := if k % 4 = 0 then c + t else if k % 4 = 2 then c - t else c
    let s' := if k % 4 = 1 then s + t else if k % 4 = 3 then s - t else s
    taylor x n (k + 1) (t * x / 2 ^ 128 / (k + 1)) c' s'

/-- Cosine and sine of u / 2^lg turns, in units of 2^-128. -/
def cosSin (u lg : Nat) : Cx :=
  let n := 2 ^ lg
  let v := u % n * 4
  let x := twoPi * (v % n : Nat) / 2 ^ (lg + 2)
  let cs := taylor x 48 0 (2 ^ 128) 0 0
  match v / n with
  | 0 => cs
  | 1 => (-cs.2, cs.1)
  | 2 => (-cs.1, -cs.2)
  | _ => (cs.2, -cs.1)

/-- rne(2^b × cos), rne(−2^b × sin) of u / 2^lg turns: the factor exp(−j 2π u / 2^lg). -/
def rotFactor (b u lg : Nat) : Cx :=
  let cs := cosSin u lg
  (rneInt cs.1 (b - 128 : Int), rneInt (-cs.2) (b - 128 : Int))

/-- A component saturated to ±lim, with whether it was. -/
def satTo (lim v : Int) : Int × Nat := if lim < v then (lim, 1) else if v < -lim then (-lim, 1) else (v, 0)

/-- Both components saturated. -/
def satCx (lim : Int) (z : Cx) : Cx × Nat :=
  let a := satTo lim z.1
  let b := satTo lim z.2
  ((a.1, b.1), a.2 + b.2)

def cxAdd (a b : Cx) : Cx := (a.1 + b.1, a.2 + b.2)
def cxMul (a b : Cx) : Cx := (a.1 * b.1 - a.2 * b.2, a.1 * b.2 + a.2 * b.1)
def cxRne (a : Cx) (e : Int) : Cx := (rneInt a.1 e, rneInt a.2 e)

/-- Results of a saturating stage over a list, and the components saturated in all. -/
def satAll (lim : Int) (zs : List Cx) : List Cx × Nat :=
  let r := zs.map (satCx lim)
  (r.map (fun x => x.1), (r.map (fun x => x.2)).sum)

/-! ### Zoom (R121, R122) -/

/-- The NCO output for a sample at absolute index pos (R121). -/
def nco (zoom : Int) (pos : Nat) (x : Cx) : Cx :=
  let ψ := (zoom * pos % 4294967296).toNat
  let u := rneNat ψ (-12) % 2 ^ 20
  let f := rotFactor 15 u 20
  cxRne (cxMul x (max (-32768) (min 32767 f.1), max (-32768) (min 32767 f.2))) (-8)

/-- The half-band coefficients at the odd distances 3 to 23 from the centre: eleven 18-bit values that stay open, of which DC gain 1
asks that the one at distance 1 is an 18-bit value too (R122). The bounds of R122 on passband and stopband are not imposed on
them (UNVERIFIED). -/
def hbFree : List Int :=
  let l := (List.range 11).map (fun n => sgn 18 (Config.halfBand n % 262144).toNat)
  if -131072 ≤ 32768 - l.sum ∧ 32768 - l.sum ≤ 131071 then l else List.replicate 11 0

/-- Coefficient t of the half-band filter in units of 2^-17, by its distance from the centre tap 23: one half at the centre,
0 at the other even distances, the same on both sides, and the sum of all is the DC gain of 1 (R122). -/
def hbCoef (t : Nat) : Int :=
  let d := if t ≤ 23 then 23 - t else t - 23
  if d = 0 then 65536
  else if d % 2 = 0 then 0
  else if d = 1 then 32768 - hbFree.sum
  else hbFree.getD ((d - 3) / 2) 0

/-- One half-band stage over samples at positions p0, p0 + st, … : its outputs at the multiples of 2 × st that have 47
samples behind them. -/
def halfBandStage (p0 st : Nat) (xs : List Cx) : Nat × List Cx × Nat :=
  let ok (t : Nat) : Bool := decide (46 ≤ t) && decide ((p0 + st * t) % (2 * st) = 0)
  let idx := (List.range xs.length).filter ok
  let y (t : Nat) : Cx := ((List.range 47).map (fun u =>
    let x := xs.getD (t - u) (0, 0)
    ((hbCoef u * x.1, hbCoef u * x.2) : Cx))).foldl cxAdd (0, 0)
  let r := satAll 32767 (idx.map (fun t => cxRne (y t) (-17)))
  (p0 + st * idx.headD 0, r.1, r.2)

/-- The cascade of stages: position of the first sample, samples, saturations so far. -/
def halfBands : Nat → Nat → Nat → List Cx → Nat → Nat × List Cx × Nat
  | 0, _, p0, xs, c => (p0, xs, c)
  | m + 1, st, p0, xs, c =>
    let r := halfBandStage p0 st xs
    halfBands m (2 * st) r.1 r.2.1 (c + r.2.2)

/-! ### Filter bank and FFT (R124, R125) -/

/-- The sums acc[b], over taps still to come. -/
def pfbAcc (p : Nat) : Nat → List Int → List Cx → List Cx → List Cx
  | 0, _, _, acc => acc
  | m + 1, h, u, acc =>
    let prod := List.zipWith (fun (c : Int) (x : Cx) => ((c * x.1, c * x.2) : Cx)) (h.take p) (u.take p)
    pfbAcc p m (h.drop p) (u.drop p) (List.zipWith cxAdd acc prod)

/-- v[b] (R124): coefficients h, the M × P samples of the support in order. -/
def pfb (p m shift : Nat) (h : List Int) (u : List Cx) : List Cx × Nat :=
  satAll 524287 ((pfbAcc p m h u (List.replicate p (0, 0))).map (fun z => cxRne z (-(shift : Int))))

/-- The k low bits of an index in reverse order. -/
def bitRev : Nat → Nat → Nat
  | 0, _ => 0
  | k + 1, b => b % 2 * 2 ^ k + bitRev k (b / 2)

/-- The butterflies of stage s over the groups still to come; h is the halving bit (R125). -/
def fftGroups (s h : Nat) : Nat → List Cx → List Cx
  | 0, _ => []
  | g + 1, xs =>
    let n := 2 ^ s
    let a := xs.take n
    let e := (xs.drop n).take n
    let we := List.zipWith (fun m z => cxMul (rotFactor 17 m (s + 1)) z) (List.range n) e
    let out (sgnE : Int) : List Cx := List.zipWith (fun (x w : Cx) =>
      cxRne (x.1 * 131072 + sgnE * w.1, x.2 * 131072 + sgnE * w.2) (-(17 + h : Int))) a we
    out 1 ++ out (-1) ++ fftGroups s h g (xs.drop (2 * n))

/-- The stages from s on, with the saturations so far. -/
def fftStages (k shifts : Nat) : Nat → List Cx → Nat → List Cx × Nat
  | 0, xs, c => (xs, c)
  | r + 1, xs, c =>
    let s := k - (r + 1)
    let y := satAll 524287 (fftGroups s (if shifts.testBit s then 1 else 0) (2 ^ (k - (s + 1))) xs)
    fftStages k shifts r y.1 (c + y.2)

/-- X[j] in ascending frequency (R125). -/
def fft (k shifts : Nat) (v : List Cx) : List Cx × Nat :=
  let alt := List.zipWith (fun (b : Nat) (z : Cx) => if b % 2 = 1 then ((-z.1, -z.2) : Cx) else z) (List.range v.length) v
  fftStages k shifts k ((List.range (2 ^ k)).map (fun b => alt.getD (bitRev k b) (0, 0))) 0

/-! ### Gain, rotation, requantisation (R131) -/

/-- q of a bin: gain, rotation by theta in 2^-20 turn, requantisation; the components w saturated, and whether q clamps. -/
def correct (x gain : Cx) (theta rq : Nat) : Cx × Nat × Bool :=
  let w := satCx 8388607 (cxRne (cxMul x gain) (-12))
  let f := rotFactor 17 theta 20
  let r := cxRne (cxMul w.1 ((satTo 131071 f.1).1, (satTo 131071 f.2).1)) (-17)
  let q := satCx 7 (cxRne r (-(rq : Int)))
  (q.1, w.2, q.2 != 0)

end Sys2Proof.Machine
end

