-- ==== Sys2Proof/Machine/Chan.lean ====
section
/-! DEFINITION. The fine channeliser (spec/04): chunks, the samples of a pair through the read offsets, validity, the
datapath, the counts and the rows. Sample and frame numbers inside a pair are counted from 2^48 frames before frame 0, so
that history before frame 0 has a number. -/

namespace Sys2Proof.Machine

/-! ### Chunks (R115, R119) -/

/-- Frame f has closed: NOW is LAT or more past it, and it lay in the window or above it at the last load (R94, R96). -/
def State.frameClosed (s : State) (f : Nat) : Bool :=
  decide ((s.lat : Int) ≤ seqDiff 48 s.now f) &&
  (match s.arr.floor with | some l => decide (0 < seqDiff 48 f l) | none => true)

/-- The stretches of equal configuration that frames lo up to hi fall into. -/
def State.segments (s : State) (lo hi : Nat) : List (Cfg × Nat × Nat) :=
  let cuts := ((s.cfgs.map (fun c => c.f0)).filter (fun f => decide (lo < f) && decide (f < hi))).mergeSort.eraseDups
  (List.zip (lo :: cuts) (cuts ++ [hi])).map (fun x => (s.cfgAt x.1, x.1, x.2))

/-- The pairs of a chunk in the order of R115. -/
def State.chunkPairs (s : State) (lo hi : Nat) : List (Nat × Nat) :=
  let segs := s.segments lo hi
  let ncc := segs.foldl (fun m x => max m x.1.nCC) 0
  let nb := segs.foldl (fun m x => max m (groupsOf x.1.n)) 0
  ((List.range ncc).flatMap (fun cc => (List.range nb).map (fun g => (cc, g)))).filter
    (fun q => segs.any (fun x => decide (q.1 < x.1.nCC) && decide (q.2 < groupsOf x.1.n)))

/-- Q of the set in force at a frame (R32). -/
def State.chunkLen (s : State) (f : Nat) : Nat := 2 ^ s.fldAt chn0 f R.CHN0_CFG_CHUNK_EXP

/-- The chunk to start next: its length, its number, and the first frame of it that no earlier chunk covered. Its length is
that of the set in force at that frame; before any chunk, of the set in force at the last closed frame. -/
def State.nextChunk (s : State) : Nat × Nat × Nat :=
  match s.chn.next with
  | some f => let q := s.chunkLen f; (q, f / q, f)
  | none =>
    let q := s.chunkLen (s.now - s.lat)
    let a := (s.now + 1 - s.lat) / q - 1
    (q, a, a * q)

/-- The effect of CHUNK_START: the next chunk starts once its last frame has closed and no chunk is in progress. -/
def doChunkStart (s : State) : State :=
  let (q, a, lo) := s.nextChunk
  let hi := (a + 1) * q
  if s.chn.chunk.isSome || !s.arrOpen || !s.domOn chn0.domain || !s.frameClosed (hi - 1) then s
  else
    let s := { s with chn := { s.chn with chunk := some ⟨a, q, lo, s.chunkPairs lo hi, false⟩, next := some (hi % m48) } }
    (s.setFld R.CHN1_STAT_RUNNING 1).judgeLag

/-- CHUNK_START. -/
def execChunkStart (s : State) : Host.Outcome State Fault Refusal := .next (doChunkStart s)

/-! ### Coarse samples (R101 to R104, R110, R111) -/

/-- A coarse sample as the channeliser gets it: cause (0 where valid), value, read offset (R111; R102). -/
structure Coarse where
  cause : Nat
  val : Cx
  off : Option Int
  deriving DecidableEq, Repr

/-- What the pair processing reads of slots: by even or single frame and physical group, cause and payload. -/
abbrev Slots := List ((Nat × Nat) × (Nat × List Byte))

/-- The bias of sample numbers: 2^48 frames. -/
def biasFrames : Nat := m48

/-- The frame whose sets decide for a biased frame of configuration c: not before F_0 (R120). -/
def setFrame (c : Cfg) (f : Nat) : Nat := let l := f % m48; if after48 l c.f0 then l else c.f0

/-- The read of input i over a biased frame: the cause that stops it, or the physical input and the offset. -/
def State.readPlan (s : State) (c : Cfg) (i f : Nat) : Except (Nat × Option Int) (Nat × Nat) :=
  let fe := setFrame c f
  let v := s.dlyVal fe i (16 * f)
  if v.forced then .error (cForced, v.offset)
  else if v.expired && v.modelled && s.bitAt (pg .dly) fe R.DLY_CFG_EXPIRE_INVAL then .error (cExpired, v.offset)
  else if !s.offsetOk fe v.offset then .error (cClamp, v.offset)
  else .ok (s.tabAt (pg .arr) fe (0x1054000 + 4 * i) % 4096, (v.offset.getD 0).toNat)

/-- The slot that a biased sample lies in: frame label (the even one in CPLX4) and the sample's index in it. -/
def slotIdx (mode smp : Nat) : Nat × Nat :=
  if mode = 2 then (smp / 32 * 2 % m48, smp % 32) else (smp / 16 % m48, smp % 16)

/-- The slots that the inputs of a group need over biased frames lo up to hi, in ascending frame and group. -/
def State.slotsNeeded (s : State) (c : Cfg) (inputs : List Nat) (lo hi : Nat) : List (Nat × Nat) :=
  let keys := inputs.flatMap (fun i => (List.range (hi - lo)).flatMap (fun k =>
    match s.readPlan c i (lo + k) with
    | .error _ => []
    | .ok (phys, d) =>
      let a := 16 * (lo + k) - d
      [((slotIdx c.mode a).1, phys / 64), ((slotIdx c.mode (a + 15)).1, phys / 64)]))
  keys.eraseDups.mergeSort (fun x y => decide (x.1 < y.1) || (x.1 == y.1 && decide (x.2 ≤ y.2)))

/-- The reads of a list of slots, priming reads or reads of the chunk itself (R116). -/
def readSlots (prime : Bool) (cc : Nat) : List (Nat × Nat) → State → Slots × State
  | [], s => ([], s)
  | (f, g) :: t, s =>
    let (r, s) := s.readSlot prime f g cc
    let (rs, s) := readSlots prime cc t s
    (((f, g), r) :: rs, s)

/-- A payload's sample at an index for a position of the group (R69). -/
def unpackSample (mode : Nat) (pay : List Byte) (idx pos : Nat) : Nat × Cx :=
  if mode = 2 then
    let b := leAt pay (64 * idx + pos) 1
    if b / 16 = 8 ∨ b % 16 = 8 then (cCode, (0, 0)) else (0, (sgn 4 (b / 16), sgn 4 (b % 16)))
  else
    let a := leAt pay (128 * idx + 2 * pos) 1
    let b := leAt pay (128 * idx + 2 * pos + 1) 1
    if a = 128 ∨ b = 128 then (cCode, (0, 0)) else (0, (sgn 8 a, sgn 8 b))

/-- The 16 coarse samples of input i over a biased frame. -/
def State.coarseFrame (s : State) (c : Cfg) (slots : Slots) (i f : Nat) : List Coarse :=
  match s.readPlan c i f with
  | .error (cause, o) => List.replicate 16 ⟨cause, (0, 0), o⟩
  | .ok (phys, d) => (List.range 16).map (fun t =>
      let (fr, idx) := slotIdx c.mode (16 * f + t - d)
      match slots.lookup (fr, phys / 64) with
      | none => ⟨cMissing, (0, 0), some d⟩
      | some (cause, pay) =>
        if cause ≠ 0 then ⟨cause, (0, 0), some d⟩
        else let r := unpackSample c.mode pay idx (phys % 64); ⟨r.1, r.2, some d⟩)

/-! ### The shape of a pair (R116, R120, R126, R127) -/

/-- Channelised, P, M, new samples per fine sample, support, kept bins, first kept bin. -/
def Cfg.chan (c : Cfg) : Bool := c.mode == 0
def Cfg.pts (c : Cfg) : Nat := if c.chan then 2 ^ c.k else 1
def Cfg.zm (c : Cfg) : Nat := if c.chan then c.m else 0
def Cfg.mt (c : Cfg) : Nat := if c.chan then c.taps else 1
def Cfg.newLen (c : Cfg) : Nat := 2 ^ c.zm * c.pts
def Cfg.support (c : Cfg) : Nat := c.mt * c.newLen + 46 * (2 ^ c.zm - 1)
def Cfg.edge (c : Cfg) : Bool := c.chan && c.os != 0 && c.m == 0
def Cfg.fk (c : Cfg) : Nat := if c.edge then 3 * c.pts / 4 else c.pts
def Cfg.bin0 (c : Cfg) : Nat := if c.edge then ceilDiv c.pts 8 else 0
def Cfg.cFine (c : Cfg) : Nat := c.nCC * c.fk
def Cfg.hist (c : Cfg) : Nat := histLen c.mode c.k c.m c.taps

/-- The rotation phase theta in 2^-20 turn (R130). -/
def thetaOf (c : Cfg) (fringe fdly phase : Bool) (cc j ph : Nat) (v : DlyVal) : Nat :=
  let g4 : Int := if c.chan && c.os != 0 then 3 else 4
  let a : Int := if fringe then v.phi * 2 ^ 24 + g4 * cc * (v.dint * 2 ^ 24 + v.dfrac) * 2 ^ 30 else 0
  let nu : Int := (if c.zm = 0 then 0 else sgn 32 c.zoom) + ((j : Int) - (c.pts / 2 : Nat)) * 2 ^ (32 - c.zm - c.k)
  let b : Int := if fdly && c.chan then nu * v.dfrac else 0
  let p : Int := if phase then ph * 2 ^ 40 else 0
  (rneInt ((a + b + p) % 2 ^ 56) (-36)).toNat % 2 ^ 20

/-- A gain read of a pair: the bank's bytes and the poison marks of its words (R132). -/
abbrev Gains := List (Nat × RdRes)

/-- The address of a pair's entries in a gain table (R132). -/
def State.gainAddr (s : State) (c : Cfg) (bank cc g : Nat) : Nat :=
  (if bank = 0 then s.fld R.CHN0_GAIN_BASE0 else s.fld R.CHN0_GAIN_BASE1) * 4096
    + 4 * ((cc * groupsOf c.n + g) * 64 * c.fk)

/-- The gain entry of bin f, position p, and whether its word is poison (R133). -/
def gainOf (gs : Gains) (bank f p : Nat) : Cx × Bool :=
  match gs.lookup bank with
  | none => ((4096, 0), false)
  | some r =>
    let e := 4 * (f * 64 + p)
    ((sgn 16 (leAt r.bytes e 2), sgn 16 (leAt r.bytes (e + 2) 2)), r.decode || r.marks.getD (e / 32) false)

/-- What one fine sample of one input gives over its kept bins: cause and value per bin, clamps, and the saturations of
filter bank, FFT and gain. -/
structure FineRes where
  bins : List (Nat × Cx)
  clamps : Nat
  pfb : Nat
  fft : Nat
  gain : Nat
  deriving DecidableEq, Repr

/-- Bits of CHN0.CFG in force at a frame that the datapath uses. -/
structure FineCfg where
  eq : Bool
  fdly : Bool
  fringe : Bool
  phase : Bool
  coef : Nat
  gainBank : Nat
  fftShift : Nat
  pfbShift : Nat
  rqShift : Nat
  deriving DecidableEq, Repr

/-- The frame-level settings in force at a frame (R129, R140). -/
def State.fineCfg (s : State) (f : Nat) : FineCfg :=
  ⟨s.bitAt chn0 f R.CHN0_CFG_EQ_EN, s.bitAt chn0 f R.CHN0_CFG_FDLY_EN, s.bitAt chn0 f R.CHN0_CFG_FRINGE_EN,
   s.bitAt chn0 f R.CHN0_CFG_PHASE_EN, s.fldAt chn0 f R.CHN0_CFG_COEF_BANK, s.fldAt chn0 f R.CHN0_CFG_GAIN_BANK,
   s.fldAt chn0 f R.CHN0_SCALE_FFT_SHIFT, s.fldAt chn0 f R.CHN0_SCALE_PFB_SHIFT, s.fldAt chn0 f R.CHN0_SCALE_RQ_SHIFT⟩

/-- The first n coefficients of a bank (R128). -/
def State.coefs (s : State) (bank n : Nat) : List Int :=
  (List.range n).map (fun e => sgn 18 (s.tab (0x1100000 + 0x40000 * bank + 4 * e) % 262144))

/-- Every bin of a fine sample invalid for one cause. -/
def deadFine (c : Cfg) (cause : Nat) : FineRes := ⟨List.replicate c.fk (cause, (0, 0)), 0, 0, 0, 0⟩

/-- The bins X of a fine sample, with the saturations of filter bank and FFT (R124 to R126, R138). -/
def fineBins (c : Cfg) (k : FineCfg) (h : List Int) (u : List Cx) : List Cx × Nat × Nat :=
  if c.chan then
    let a := pfb c.pts c.mt k.pfbShift h u
    let b := fft c.k k.fftShift a.1
    ((b.1.drop c.bin0).take c.fk, a.2, b.2)
  else (u, 0, 0)

/-- A fine sample whose support holds a DISCONT: per bin POISON where its gain entry is poison, else SETTLE (R135). -/
def settleFine (c : Cfg) (k : FineCfg) (p : Nat) (gs : Gains) : FineRes :=
  ⟨(List.range c.fk).map (fun f => (if k.eq && (gainOf gs k.gainBank f p).2 then cPoison else cSettle, (0, 0))), 0, 0, 0, 0⟩

/-- A fine sample of a valid support: correction of every kept bin (R130, R131, R133, R139). -/
def fineSample (c : Cfg) (k : FineCfg) (cc p ph : Nat) (v : DlyVal) (gs : Gains) (h : List Int) (u : List Cx) : FineRes :=
  if c.mode = 2 then ⟨u.map (fun z => (0, z)), 0, 0, 0, 0⟩
  else
    let x := fineBins c k h u
    let one (f : Nat) (z : Cx) : (Nat × Cx) × Nat × Bool :=
      let g := if k.eq then gainOf gs k.gainBank f p else ((4096, 0), false)
      if g.2 then ((cPoison, (0, 0)), 0, false)
      else let r := correct z g.1 (thetaOf c k.fringe k.fdly k.phase cc (f + c.bin0) ph v) k.rqShift
           ((0, r.1), r.2.1, r.2.2)
    let rs := List.zipWith one (List.range c.fk) x.1
    ⟨rs.map (fun r => r.1), (rs.filter (fun r => r.2.2)).length, x.2.1, x.2.2, (rs.map (fun r => r.2.1)).sum⟩

/-- One input's samples in decimated form: position of the first, samples, half-band saturations (R121, R122). -/
def zoomed (c : Cfg) (lo : Nat) (xs : List Cx) : Nat × List Cx × Nat :=
  if c.zm = 0 then (lo, if c.chan then xs.map (fun x => (x.1 * 128, x.2 * 128)) else xs, 0)
  else halfBands c.zm 1 lo (List.zipWith (fun t x => nco (sgn 32 c.zoom) (lo + t) x) (List.range xs.length) xs) 0

/-- The first cause in a support, in the order of R111; 0 where every sample is valid (R135). -/
def firstCause (sup : List Coarse) : Nat :=
  sup.foldl (fun m x => if x.cause = 0 then m else if m = 0 then x.cause else min m x.cause) 0

/-- A read offset changes inside a support (R102, R134). -/
def discont : List Coarse → Bool
  | a :: b :: t => a.off != b.off || discont (b :: t)
  | _ => false

/-- All fine samples of one input over a segment: base and range of n, column of coarse samples from position lo. -/
def State.fineInput (s : State) (c : Cfg) (cc i base nLo nHi lo : Nat) (gs : Gains) (col : List Coarse) :
    List FineRes × Nat :=
  let z := zoomed c lo (col.map (fun x => x.val))
  let st := 2 ^ c.zm
  let len := c.mt * c.pts
  (((List.range (nHi - nLo)).map (fun k =>
    let sn := base + c.newLen * (nLo + k)
    let sup := (col.drop (sn + c.newLen - c.support - lo)).take c.support
    let cause := firstCause sup
    if cause ≠ 0 then deadFine c cause
    else
      let f := sn / 16 % m48
      let fc := s.fineCfg f
      if c.chan && discont sup then settleFine c fc (i % 64) gs else
      let h := if c.chan then s.coefs fc.coef len else []
      let u := (z.2.1.drop ((sn + c.newLen - len * st - z.1) / st)).take len
      fineSample c fc cc (i % 64) (s.tabAt chn0 f (0x11E4000 + 4 * i) % 65536) (s.dlyVal f i sn) gs h u)), z.2.2)

/-! ### Delivery (R136, R137) -/

/-- The counter r of input i in the window of R141. -/
def inputCtr (i r : Nat) : Fld := ⟨0x1180000 + 96 * i + 8 * r, 0, 48⟩

/-- A CPLX4 byte: I in [7:4], Q in [3:0]. -/
def packCx (z : Cx) : Byte := BitVec.ofNat 8 (unsgn 4 z.1 * 16 + unsgn 4 z.2)

/-- The rows of a segment: for each fine sample in ascending order, each bin in ascending order (R137). -/
def pairRows (c : Cfg) (cc g base nLo nHi : Nat) (res : List (List FineRes)) : List Row :=
  (List.range (nHi - nLo)).flatMap (fun k =>
    let smp := res.map (fun l => (l.getD k (deadFine c cForced)).bins)
    (List.range c.fk).map (fun f =>
      let v := smp.map (fun b => b.getD f (cForced, (0, 0)))
      let bytes := v.map (fun x => if x.1 = 0 then packCx x.2 else 0)
      { chan := cc * c.fk + f, group := g, n := nLo + k, frame := (base + c.newLen * (nLo + k)) / 16 % m48
        bytes := sliceBytes bytes 0 64
        valid := (List.zipWith (fun p (x : Nat × Cx) => if x.1 = 0 then 2 ^ p else 0) (List.range 64) v).sum }))

/-- The counts of one input over a segment (R136): those of its fine samples whose frame lies in a run. -/
def State.countInput (s : State) (c : Cfg) (i base nLo : Nat) (res : List FineRes) : State :=
  let live := (List.zip (List.range res.length) res).filter
    (fun x => s.runAt ((base + c.newLen * (nLo + x.1)) / 16 % m48))
  let causes := live.flatMap (fun x => x.2.bins.map (fun b => b.1))
  let s := s.addFld (inputCtr i 0) causes.length
  let s := (List.range 10).foldl (fun s r =>
    let n := (causes.filter (fun x => decide (x = r))).length
    if n = 0 then s else s.addFld (inputCtr i (r + 1)) n) s
  let q := (res.map (fun x => x.clamps)).sum
  if q = 0 then s else s.addFld (inputCtr i 11) q

/-- A saturation counter advanced. -/
def State.addSat (s : State) (f : Fld) (n : Nat) : State := if n = 0 then s else s.addFld f n

/-- One read of a bank's entries for the pair, where a fine sample of the segment uses the bank (R132, R133). -/
def State.readGains (s : State) (c : Cfg) (cc g : Nat) : List Nat → Gains × State
  | [] => ([], s)
  | b :: t =>
    let (r, s) := s.readDram .chanRd (s.gainAddr c b cc g) (256 * c.fk)
    let s := if r.bad then ((s.setFld R.CHN1_STAT_GAIN_POISON 1).error chn1 0x11 0 (cc * c.fk) none).raise chn1 2 else s
    let (gs, s) := s.readGains c cc g t
    ((b, r) :: gs, s)

/-- The samples before frame lo of a segment of configuration c, counted from the bias: the first of its grid, whose start lies the
signed difference of the frame numbers before lo (R120). -/
def Cfg.gridBase (c : Cfg) (lo : Nat) : Nat := 16 * (lo + biasFrames - (seqDiff 48 lo c.f0).toNat)

/-- The first fine sample whose new samples end after the start of a frame (R120). -/
def Cfg.fineAt (c : Cfg) (lo f : Nat) : Nat := (16 * (f + biasFrames) - c.gridBase lo) / c.newLen

/-- The inputs of a group that a configuration has. -/
def Cfg.groupInputs (c : Cfg) (g : Nat) : List Nat := ((List.range 64).map (fun p => 64 * g + p)).filter (fun i => decide (i < c.n))

/-- The results of a pair over one segment of a chunk, frames lo up to hi of configuration c: each input of the group with its fine
samples and its half-band saturations. DESIGN CHOICE: where a fine sample straddles the segment's first sample, so that its
support reaches further back than the H samples of R116, the priming reads start at the support's first sample. -/
def State.segResult (s : State) (cc g : Nat) (c : Cfg) (lo hi : Nat) : List (Nat × List FineRes × Nat) × State :=
  let bl := 16 * (lo + biasFrames)
  let bh := 16 * (hi + biasFrames)
  let base := c.gridBase lo
  let nLo := c.fineAt lo lo
  let nHi := c.fineAt lo hi
  let start := min (bl - c.hist) (base + c.newLen * (nLo + 1) - c.support)
  let inputs := c.groupInputs g
  let (pr, s) := readSlots true cc (s.slotsNeeded c inputs (start / 16) (ceilDiv bl 16)) s
  let (mr, s) := readSlots false cc (s.slotsNeeded c inputs (bl / 16) (bh / 16)) s
  let banks := ((List.range (nHi - nLo)).map (fun k => s.fineCfg ((base + c.newLen * (nLo + k)) / 16 % m48))
    |>.filter (fun k => k.eq)).map (fun k => k.gainBank) |>.eraseDups
  let (gs, s) := s.readGains c cc g (if c.mode = 2 then [] else banks)
  (inputs.map (fun i =>
    let col := ((List.range (ceilDiv bl 16 - start / 16)).flatMap (fun k => s.coarseFrame c pr i (start / 16 + k))).take
      (bl - start / 16 * 16) |>.drop (start % 16)
    let col := col ++ (List.range (bh / 16 - bl / 16)).flatMap (fun k => s.coarseFrame c mr i (bl / 16 + k))
    (i, s.fineInput c cc i base nLo nHi start gs col)), s)

/-- The saturations of a pair counted, and shown by the page's interrupt. -/
def State.countSats (s : State) (res : List (Nat × List FineRes × Nat)) : State :=
  let all := res.flatMap (fun r => r.2.1)
  let hb := (res.map (fun r => r.2.2)).sum
  let pf := (all.map (fun x => x.pfb)).sum
  let ff := (all.map (fun x => x.fft)).sum
  let ga := (all.map (fun x => x.gain)).sum
  let rq := (all.map (fun x => x.clamps)).sum
  let s := (((((s.addSat R.CHN1_HB_SAT hb).addSat R.CHN1_PFB_SAT pf).addSat R.CHN1_FFT_SAT ff).addSat R.CHN1_GAIN_SAT ga).addSat
    R.CHN1_REQ_SAT rq)
  if hb + pf + ff + ga + rq = 0 then s else s.raise chn1 1

/-- A pair over one segment of a chunk: its rows delivered, its samples counted (R136, R137). -/
def State.doSegment (s : State) (cc g : Nat) (c : Cfg) (lo hi : Nat) : State :=
  if c.nCC ≤ cc || groupsOf c.n ≤ g then s else
    let (res, s) := s.segResult cc g c lo hi
    let rows := pairRows c cc g (c.gridBase lo) (c.fineAt lo lo) (c.fineAt lo hi) (res.map (fun x => x.2.1))
    let s : State := { s with chn := { s.chn with rows := s.chn.rows ++ rows } }
    (res.foldl (fun s x => s.countInput c x.1 (c.gridBase lo) (c.fineAt lo lo) x.2.1) s).countSats res

/-- The effect of CHUNK_PAIR: the next pair of the chunk is read, processed and delivered. -/
def doChunkPair (s : State) : State :=
  match s.chn.chunk with
  | none => s
  | some c =>
    match c.pairs with
    | [] => s
    | (cc, g) :: rest =>
      let s := (s.segments c.lo ((c.num + 1) * c.len)).foldl (fun s x => s.doSegment cc g x.1 x.2.1 x.2.2) s
      { s with chn := { s.chn with chunk := some { c with pairs := rest } } }

/-- CHUNK_PAIR. -/
def execChunkPair (s : State) : Host.Outcome State Fault Refusal := .next (doChunkPair s)

end Sys2Proof.Machine
end

