-- ==== Sys2Proof/Machine/Plan.lean ====
section
/-! DEFINITION. The arithmetic of a configuration (spec/01 R20 to R25; spec/05 R160 to R163; spec/06 R168 to R171;
spec/08 R231 to R235): shape, sub-passes, placements, costs, memory plan and traffic. -/

namespace Sys2Proof.Machine

/-! ### Samples, passes, integrations (R18 to R20, R23) -/

/-- T: fine samples of a channel in a span. -/
def Cfg.tLen (c : Cfg) : Nat := 16 * c.span / c.newLen

/-- Input groups of the ingest and of the X side. -/
def Cfg.nb (c : Cfg) : Nat := groupsOf c.n
def Cfg.nbX (c : Cfg) : Nat := groupsOf c.nX

/-- The first frame of a pass (R18). -/
def Cfg.passFrame (c : Cfg) (j : Nat) : Nat := (c.f0 + (j - c.pass0) * c.span) % m48

/-- P_int' (R213). -/
def Cfg.pEff (c : Cfg) : Nat :=
  if c.fmt = 2 ∧ c.autoSplit = true ∧ 0 < c.eX then max 1 (min c.pInt (2 ^ 20 / max 1 c.shape.d)) else c.pInt

/-- The integration of a pass, and the first pass of an integration (R19). -/
def Cfg.intOf (c : Cfg) (j : Nat) : Nat := c.int0 + (j - c.pass0) / max 1 c.pEff
def Cfg.intFirst (c : Cfg) (j : Nat) : Nat := c.pass0 + (j - c.pass0) / max 1 c.pEff * c.pEff

/-! ### Rounds and shape (R22) -/

/-- Blocks of round j, and the first block of it. -/
def roundBlocks (nblk nr j : Nat) : Nat := nblk / nr + if j < nblk % nr then 1 else 0
def roundStart (nblk nr j : Nat) : Nat := ((List.range j).map (roundBlocks nblk nr)).sum

/-- w and u of n blocks on e engines in s slices. -/
def wOf (n e : Nat) : Nat := n / (2 * e)
def uOf (n e s : Nat) : Nat := ceilDiv ((n - wOf n e * (2 * e)) * s) (2 * e)

/-- The cost 16 c and the most contexts of a candidate (rounds, slices); none where a half does not fit. -/
def candidate (nblk e nr s : Nat) : Option (Nat × Nat) :=
  let rs := (List.range nr).map (fun j => let n := roundBlocks nblk nr j; (wOf n e, uOf n e s))
  if rs.any (fun x => decide (18 < x.1 + x.2)) then none
  else some ((rs.map (fun x => 16 * x.1 + 16 * x.2 / s)).sum, rs.foldl (fun m x => max m (x.1 + x.2)) 0)

/-- The best slices for a round count: the least cost, the smaller S on a tie. -/
def bestOf (t nblk e nr : Nat) : Option (Nat × Nat × Nat) :=
  [1, 2, 4, 8, 16].foldl (fun b s =>
    if t % (32 * s) ≠ 0 then b
    else match candidate nblk e nr s with
      | none => b
      | some (c, x) => match b with
        | none => some (s, c, x)
        | some (_, cb, _) => if c < cb then some (s, c, x) else b) none

/-- The shape of R22 and R23 for T samples, n_b groups on e engines; none where no slice count divides T. -/
def shapeOf (t nb e : Nat) : Option Shape :=
  if e = 0 then some { nblk := 0 }
  else
    let nblk := nb * (nb + 1) / 2
    (List.range (max 1 (ceilDiv nblk 36))).findSome? (fun i =>
      (bestOf t nblk e (i + 1)).map (fun b => ⟨b.1, i + 1, ceilDiv t 65536, b.2.1, b.2.2, nblk⟩))

/-- Sub-pass δ: its first sample and its length T_d (R23). -/
def Cfg.subLen (c : Cfg) (δ : Nat) : Nat :=
  let q := c.tLen / (32 * c.shape.s)
  (q / c.shape.d + if δ < q % c.shape.d then 1 else 0) * (32 * c.shape.s)
def Cfg.subOff (c : Cfg) (δ : Nat) : Nat := ((List.range δ).map c.subLen).sum

/-! ### Placement (R168, R169) -/

/-- The row and column group of block b: b = q(q+1)/2 + p. -/
def blockPQ (nb b : Nat) : Nat × Nat :=
  match (List.range nb).find? (fun q => decide (b < (q + 1) * (q + 2) / 2)) with
  | some q => (b - q * (q + 1) / 2, q)
  | none => (0, 0)

/-- A context of a half: context, half, block, whether it holds a slice, which slice. -/
structure Place where
  ctx : Nat
  half : Nat
  block : Nat
  sliced : Bool
  slice : Nat
  deriving DecidableEq, Repr

/-- The block or slice that context z of half η holds in round j of pass number π. -/
def Cfg.placeIn (c : Cfg) (j π η z : Nat) : Option (Nat × Bool × Nat) :=
  let h := 2 * c.eX
  let n := roundBlocks c.shape.nblk c.shape.nr j
  let b0 := roundStart c.shape.nblk c.shape.nr j
  let w := wOf n c.eX
  let x := (η + h - π % h) % h
  if z < w then some (b0 + z * h + x, false, 0)
  else
    let v := (z - w) * h + x
    if v < (n - w * h) * c.shape.s then some (b0 + w * h + v / c.shape.s, true, v % c.shape.s) else none

/-- What logical engine e holds in round j of a pass, by its sequence number, in record order (R183). -/
def Cfg.places (c : Cfg) (j pass e : Nat) : List Place :=
  (List.range 18).flatMap (fun z => (List.range 2).filterMap (fun s =>
    (c.placeIn j (c.shown pass) (2 * e + s) z).map (fun b => ⟨z, s, b.1, b.2.1, b.2.2⟩)))

/-! ### The B side (R231 to R235) -/

def Cfg.nbs (c : Cfg) : Nat := ceilDiv c.beams 128
def Cfg.nbb (c : Cfg) : Nat := groupsOf c.nB
def Cfg.nUnits (c : Cfg) : Nat := c.nbs * c.nbb
def Cfg.uE (c : Cfg) : Nat := if c.eB = 0 then 0 else ceilDiv c.nUnits c.eB
def Cfg.gSize (c : Cfg) : Nat := 4 * 2 ^ c.bGroup

/-- The units of B-side engine e'. -/
def Cfg.unitsOf (c : Cfg) (e : Nat) : List Nat :=
  (List.range (min ((e + 1) * c.uE) c.nUnits)).filter (fun u => decide (e * c.uE ≤ u))

/-- The beam sets B-side engine e' holds units of. -/
def Cfg.setsOf (c : Cfg) (e : Nat) : List Nat := ((c.unitsOf e).map (fun u => u / max 1 c.nbb)).eraseDups

/-- c_b (R234). -/
def Cfg.cB (c : Cfg) : Nat :=
  max (2 * c.uE) (((List.range c.nbs).map (fun s =>
    ceilDiv ((List.range c.eB).filter (fun e => decide (s ∈ c.setsOf e))).length c.gSize)).sum)

/-- t_wl (R235). -/
def Cfg.tWl (c : Cfg) : Nat := ceilDiv (c.nUnits * 16384) 384

/-- Channel ch is beamformed (R230). -/
def Cfg.beamed (c : Cfg) (ch : Nat) : Bool := decide (0 < c.eB) && decide (c.bChan0 ≤ ch) && decide (ch < c.bChan0 + c.bChans)

/-- 16 c_0: w_0 + u_0 / S of round 0. -/
def Cfg.c016 (c : Cfg) : Nat :=
  if c.eX = 0 then 0
  else let n := roundBlocks c.shape.nblk c.shape.nr 0; 16 * wOf n c.eX + 16 * uOf n c.eX c.shape.s / c.shape.s

/-- t_ch of a channel without its load term (R235). -/
def Cfg.chanBase (c : Cfg) (ch : Nat) : Nat :=
  let x := c.tLen * c.shape.c16 / 16 + 1088 * c.shape.nr * c.shape.d
  if c.beamed ch then
    (if c.eX = 0 then c.tLen * c.cB + 96
     else c.tLen * (c.shape.c16 - c.c016 + max c.c016 (16 * c.cB)) / 16 + 1088 * c.shape.nr * c.shape.d)
  else if c.eX = 0 then 0 else x

/-- t_ch (R235). -/
def Cfg.chanCost (c : Cfg) (ch : Nat) : Nat :=
  let prev := if ch = 0 then c.cFine - 1 else ch - 1
  c.chanBase ch + if c.beamed ch then c.tWl - c.chanBase prev else 0

/-- The planned cycles of a pass (R24, R235; XS.PLAN_CYC). -/
def Cfg.planCyc (c : Cfg) : Nat :=
  if c.eB = 0 then c.cFine * (if c.eX = 0 then 0 else c.tLen * c.shape.c16 / 16 + 1088 * c.shape.nr * c.shape.d)
  else ((List.range c.cFine).map c.chanCost).sum

/-- The budget of a pass (XS.BUDGET_CYC). -/
def Cfg.budget (c : Cfg) : Nat := 16384 * c.span

/-! ### Memory plan (R160, R161) -/

def Cfg.bv (c : Cfg) : Nat := if c.fmt = 0 then 8 else 16
def Cfg.vch (c : Cfg) : Nat := 32 * c.nbX * (64 * c.nbX + 1)
def Cfg.tiles (c : Cfg) : Nat := c.cFine * (c.tLen / 32) * c.nb
def Cfg.nComp (c : Cfg) : Nat := if c.bPow = 2 then 4 else 1
def Cfg.nRec (c : Cfg) : Nat := if c.bPow = 2 then c.beams / 2 else c.beams
def Cfg.lPt (c : Cfg) : Nat := 32 * c.bBinTiles
def Cfg.nPt (c : Cfg) : Nat := c.pEff * c.tLen / max 1 c.lPt
def Cfg.recLen (c : Cfg) : Nat := 8 * c.nComp + 4

/-- An area of the plan: page type and offset of its base register, base, size, the order it needs (0 CHI, 1 BGF, 9 any). -/
structure Area where
  type : Nat
  off : Nat
  base : Nat
  size : Nat
  order : Nat
  deriving DecidableEq, Repr

/-- The areas of a configuration with gains on or off, in the order of R160. -/
def State.areas (s : State) (c : Cfg) (eq : Bool) : List Area :=
  let q := framesPerSlot c.mode
  let arrT := PageKind.arr.type
  let mT := PageKind.mere.type
  let bT := PageKind.bas.type
  let cT := PageKind.chn0.type
  let wT := PageKind.bm.type
  let bank := c.cFine * c.vch * (c.bv + 4)
  let gain := 256 * c.nb * c.nCC * c.fk
  let bwt := if c.eB = 0 then 0 else c.beams * c.nB * c.bChans * 2
  let bvl := if c.eB = 0 ∨ c.bVolt = false then 0 else c.beams * c.bChans * c.tLen * 2
  let bpw := if c.eB = 0 ∨ c.bPow = 0 then 0 else c.nPt * c.bChans * c.nRec * c.recLen
  let l : List Area := [⟨arrT, 0x4C, s.fld R.ARR_PAY_BASE * 4096, s.depth / q * (c.nb * c.nCC) * 2048, 0⟩,
    ⟨arrT, 0x54, s.fld R.ARR_DIR_BASE * 4096, s.depth / q * 65536, 0⟩,
    ⟨mT, 0x120, c.spanBase0, c.tiles * 2048, 0⟩,
    ⟨mT, 0x128, c.spanBase1, c.tiles * 2048, 0⟩,
    ⟨mT, 0x130, c.dirBase, 2 * c.tiles * 16, 0⟩] ++
   (if c.eX = 0 then [] else [⟨bT, 0x58, c.bank0, bank, 1⟩, ⟨bT, 0x60, c.bank1, bank, 1⟩]) ++
   (if eq then [⟨cT, 0x58, s.fld R.CHN0_GAIN_BASE0 * 4096, gain, 9⟩, ⟨cT, 0x60, s.fld R.CHN0_GAIN_BASE1 * 4096, gain, 9⟩]
    else []) ++
   [⟨wT, 0x6C, s.fld R.BM_BWT_BASE0 * 4096, bwt, 9⟩, ⟨wT, 0x74, s.fld R.BM_BWT_BASE1 * 4096, bwt, 9⟩,
    ⟨wT, 0x7C, c.bV0, bvl, 9⟩, ⟨wT, 0x84, c.bV1, bvl, 9⟩, ⟨wT, 0x9C, c.bP0, bpw, 9⟩, ⟨wT, 0xA4, c.bP1, bpw, 9⟩,
    ⟨PageKind.map.type, 0xF0, s.rgnBase 7, 2 ^ 32, 9⟩,
    ⟨bT, 0x78, s.fld R.BAS_RING_BASE * 4096, s.fld R.BAS_RING_SIZE * 4096, 9⟩]
  l.filter (fun a => decide (a.size ≠ 0))

/-- The active capacity of a region (R161, R305). -/
def State.rgnActive (s : State) (r : Nat) : Nat :=
  if s.rgnOrder r = 2 then s.rgnCsize r else s.fld R.MAP_STAT_ACT_CH * s.rgnCsize r

/-- An area lies in one region, within its active capacity, in the order it needs. The fixed area in region 7 counts as
occupied, and is not placed by a driver (R284). -/
def State.areaOk (s : State) (a : Area) : Bool :=
  a.type == PageKind.map.type || match s.rgnOf a.base with
  | none => false
  | some (r, o) => decide (o + a.size ≤ min (s.rgnSize r) (s.rgnActive r)) && (a.order == 9 || a.order == s.rgnOrder r)

/-- Two areas overlap. -/
def Area.meets (a b : Area) : Bool := decide (a.base < b.base + b.size) && decide (b.base < a.base + a.size)

/-- The base register of the first area that fails R161, in the order of R160: type and offset. Region 7 counts as occupied: an area
that reaches into it fails, whatever their order (R284). DESIGN CHOICE: of two other areas that overlap, the later one fails. -/
def State.planFails (s : State) (c : Cfg) (eq : Bool) : Option (Nat × Nat) :=
  let as := s.areas c eq
  let fixed (a : Area) : Bool := a.type == PageKind.map.type
  (as.zipIdx.find? (fun (a, i) => !fixed a && (!s.areaOk a || (as.take i).any (fun b => a.meets b) ||
    as.any (fun b => fixed b && a.meets b)))).map (fun x => (x.1.type, x.1.off))

/-- PLAN_MEM in MiB, rounded up (R160). -/
def State.planMem (s : State) (c : Cfg) (eq : Bool) : Nat :=
  ceilDiv (((s.areas c eq).map (fun a => a.size)).sum) (2 ^ 20)

/-- The traffic of a configuration in bytes per frame period (R162). -/
def Cfg.traffic (c : Cfg) (eq : Bool) : Rat :=
  let q : Rat := framesPerSlot c.mode
  let slots : Rat := (c.nb * c.nCC : Nat)
  let ch : Rat := (2 ^ c.chunkExp : Nat)
  let span : Rat := (max 1 c.span : Nat)
  let store : Rat := (c.cFine * c.vch * (c.bv + 4) : Nat)
  let arr := 2 * slots / q * 2064
  let pri := 2048 * slots * c.hist / (16 * ch)
  let gain := if eq then 256 * c.fk * slots / ch else 0
  let mere := (1 + c.shape.nr) * (c.tiles : Rat) * 2064 / span
  let bas := if c.eX = 0 then 0 else 2 * c.shape.d * store / span
  let out := if c.eX = 0 then 0 else store / (max 1 c.pEff * span)
  let beam := if c.eB = 0 then 0 else (c.beams * c.nB * c.bChans * 2 : Nat) / span
  let volt := if c.eB = 0 ∨ c.bVolt = false then 0 else 4 * (c.beams * c.bChans * c.tLen : Nat) / span
  arr + pri + gain + mere + bas + out + beam + volt

/-- PLAN_BW in GB/s, rounded up and saturating (R162): a frame period is 10.24 µs. -/
def Cfg.planBw (c : Cfg) (eq : Bool) : Nat := min 65535 ((c.traffic eq * (3125000 / 32) / 1000000000).ceil).toNat

/-! ### The configuration that registers spell -/

/-- The configuration of the shadow sets of the pages for which `sh` holds, and of the active sets of the others. -/
def State.buildCfg (s : State) (sh : PageKind → Bool) : Cfg :=
  let g (k : PageKind) (a b : Fld) : Nat := s.fld (if sh k then a else b)
  let c : Cfg :=
    { n := g .arr R.ARR_GEOM_SH_N R.ARR_GEOM_N
      mode := g .arr R.ARR_GEOM_SH_MODE R.ARR_GEOM_MODE
      nCC := g .arr R.ARR_GEOM_SH_N_CC R.ARR_GEOM_N_CC
      k := g .chn0 R.CHN0_CFG_SH_K R.CHN0_CFG_K
      m := g .chn0 R.CHN0_CFG_SH_M_ZOOM R.CHN0_CFG_M_ZOOM
      os := g .chn0 R.CHN0_CFG_SH_OS_RATIO R.CHN0_CFG_OS_RATIO
      taps := g .chn0 R.CHN0_CFG_SH_TAPS R.CHN0_CFG_TAPS
      chunkExp := g .chn0 R.CHN0_CFG_SH_CHUNK_EXP R.CHN0_CFG_CHUNK_EXP
      zoom := g .chn0 R.CHN0_ZOOM_SH R.CHN0_ZOOM
      eX := g .xs R.XS_CFG_SH_E_X R.XS_CFG_E_X
      eB := g .xs R.XS_CFG_SH_E_B R.XS_CFG_E_B
      run := g .xs R.XS_CFG_SH_RUN R.XS_CFG_RUN != 0
      nX := g .xs R.XS_N_X_SH_N_X R.XS_N_X
      span := g .xs R.XS_SPAN_SH_F_SPAN R.XS_SPAN_F_SPAN
      fmt := g .bas R.BAS_INT_CTL_SH_FMT R.BAS_INT_CTL_FMT
      autoSplit := g .bas R.BAS_INT_CTL_SH_AUTO_SPLIT R.BAS_INT_CTL_AUTO_SPLIT != 0
      pInt := g .bas R.BAS_P_INT_SH_PASSES R.BAS_P_INT_PASSES
      bank0 := g .bas R.BAS_BANK_BASE0_SH R.BAS_BANK_BASE0 * 4096
      bank1 := g .bas R.BAS_BANK_BASE1_SH R.BAS_BANK_BASE1 * 4096
      spanBase0 := g .mere R.MERE_SPAN_BASE0_SH R.MERE_SPAN_BASE0 * 4096
      spanBase1 := g .mere R.MERE_SPAN_BASE1_SH R.MERE_SPAN_BASE1 * 4096
      dirBase := g .mere R.MERE_DIR_BASE_SH R.MERE_DIR_BASE * 4096
      nB := g .bm R.BM_N_B_SH_N_B R.BM_N_B
      beams := g .bm R.BM_CFG_SH_BEAMS R.BM_CFG_BEAMS
      bVolt := g .bm R.BM_CFG_SH_VOLT_EN R.BM_CFG_VOLT_EN != 0
      bPow := g .bm R.BM_CFG_SH_POW R.BM_CFG_POW
      bGroup := g .bm R.BM_CFG_SH_GROUP R.BM_CFG_GROUP
      bVrel := g .bm R.BM_CFG_SH_VREL_MODE R.BM_CFG_VREL_MODE
      bChan0 := g .bm R.BM_CH_BASE_SH_BASE R.BM_CH_BASE_BASE
      bChans := g .bm R.BM_CH_CNT_SH_C_B R.BM_CH_CNT_C_B
      bBinTiles := g .bm R.BM_PW_BIN_SH_TILES R.BM_PW_BIN_TILES
      bV0 := g .bm R.BM_VBASE0_SH R.BM_VBASE0 * 4096
      bV1 := g .bm R.BM_VBASE1_SH R.BM_VBASE1 * 4096
      bP0 := g .bm R.BM_PBANK0_SH R.BM_PBANK0 * 4096
      bP1 := g .bm R.BM_PBANK1_SH R.BM_PBANK1 * 4096 }
  { c with shape := (shapeOf c.tLen c.nbX c.eX).getD {} }

/-- EQ_EN of the set that a check or evaluation uses. -/
def State.eqOf (s : State) (sh : Bool) : Bool := s.bit (if sh then R.CHN0_CFG_SH_EQ_EN else R.CHN0_CFG_EQ_EN)

/-- The plan of the configuration in force shown: PLAN_BW behind BW_WARN always, the registers while PLAN_SRC is 0. -/
def State.showPlan (s : State) (c : Cfg) : State :=
  let eq := s.eqOf false
  let s := if s.bit R.MERE_STAT_PLAN_SRC then s
    else (s.setFld R.MERE_PLAN_MEM_MIB (s.planMem c eq)).setFld R.MERE_PLAN_BW_GBPS (c.planBw eq)
  { s with mere := { s.mere with actBw := c.planBw eq } }.refreshCeiling

/-! ### PLAN_EVAL (R160, R162) -/

/-- The effect of MERE.CTL.PLAN_EVAL. -/
def doPlanEval (s : State) : State :=
  { s.setFld R.MERE_CTL_PLAN_EVAL 1 with sward := { s.sward with planBusy := true } }

/-- PLAN_EVAL. -/
def execPlanEval (π : Path) (s : State) : Host.Outcome State Fault Refusal := .next (s.hostCmd π 0xC0040 doPlanEval)

/-- The effect of PLAN_EVAL_DONE: PLAN_MEM and PLAN_BW show the shadow sets of all pages. -/
def doPlanEvalDone (s : State) : State :=
  if !s.sward.planBusy then s else
    let c := s.buildCfg (fun _ => true)
    let mem := s.planMem c (s.eqOf true)
    let bw := c.planBw (s.eqOf true)
    let s := { s.setFld R.MERE_CTL_PLAN_EVAL 0 with sward := { s.sward with planBusy := false } }
    let s := (s.setFld R.MERE_PLAN_MEM_MIB mem).setFld R.MERE_PLAN_BW_GBPS bw
    s.setFld R.MERE_STAT_PLAN_SRC 1

/-- PLAN_EVAL_DONE. -/
def execPlanEvalDone (s : State) : Host.Outcome State Fault Refusal := .next (doPlanEvalDone s)

/-! ### EVAL (R189) -/

/-- R22 can evaluate the configuration: E_x > 0, no field that it uses reserved, a shape exists. DESIGN CHOICE: those are the fields that
the shape or the tile length depends on; reserved encodings of the BAS, BM, PK and DLY shadow fields do not blank it (R189). -/
def Cfg.evaluable (c : Cfg) : Bool :=
  decide (0 < c.eX) && decide (c.eX ≤ 64) && decide (c.eB ≤ 64) && decide (0 < c.nX) && decide (c.nX ≤ 4096) && decide (0 < c.n)
  && decide (c.n ≤ 4096) && decide (c.mode < 3) && decide (0 < c.nCC) && decide (c.nCC ≤ 4096) && decide (c.k ≤ 12)
  && decide (c.m ≤ 4) && decide (0 < c.taps) && decide (c.taps ≤ 16) && decide (3 ≤ c.chunkExp) && decide (0 < c.span)
  && decide (c.span ≤ 65536) && decide (16 * c.span % c.newLen = 0) && decide (0 < c.tLen) && (shapeOf c.tLen c.nbX c.eX).isSome

/-- The shape registers of a configuration written, to the _SH set or to the active one (R189). -/
def State.showShape (s : State) (sh : Bool) (c : Cfg) : State :=
  let g (a b : Fld) : Fld := if sh then a else b
  let z := !c.evaluable && (sh || decide (c.eX = 0))
  let v (x : Nat) : Nat := if z then 0 else x
  let n0 := roundBlocks c.shape.nblk c.shape.nr 0
  let s := s.setFld (g R.XS_SHAPE_SH_S_EXP R.XS_SHAPE_S_EXP) (v (Nat.log2 c.shape.s))
  let s := s.setFld (g R.XS_SHAPE_SH_CTX R.XS_SHAPE_CTX) (v c.shape.ctx)
  let s := s.setFld (g R.XS_SHAPE_SH_N_R R.XS_SHAPE_N_R) (v c.shape.nr)
  let s := s.setFld (g R.XS_SHAPE_SH_D R.XS_SHAPE_D) (v c.shape.d)
  let s := s.setFld (g R.XS_BLK_SH_N_BLK R.XS_BLK_N_BLK) (v c.shape.nblk)
  let s := s.setFld (g R.XS_BLK_SH_W R.XS_BLK_W) (v (wOf n0 c.eX))
  let s := s.setFld (g R.XS_BLK_SH_U R.XS_BLK_U) (v (uOf n0 c.eX c.shape.s))
  let s := s.setFld (g R.XS_COST_SH_C16 R.XS_COST_C16) (v c.shape.c16)
  let cyc := if sh && z then 0 else min 4294967295 c.planCyc
  let bud := if sh && z then 0 else min 4294967295 c.budget
  (s.setFld (g R.XS_PLAN_CYC_SH_CYC R.XS_PLAN_CYC_CYC) cyc).setFld (g R.XS_BUDGET_CYC_SH_CYC R.XS_BUDGET_CYC_CYC) bud

/-- The effect of XS.CTL.EVAL: ignored while the XS arm is CHECKING. -/
def doEval (s : State) : State :=
  if s.fld (R.ARM_STATUS_STATE 0x160100) = 1 then s
  else { s.setFld R.XS_CTL_EVAL 1 with sward := { s.sward with evalBusy := true } }

/-- EVAL. -/
def execEval (π : Path) (s : State) : Host.Outcome State Fault Refusal := .next (s.hostCmd π 0x160040 doEval)

/-- The effect of EVAL_DONE. -/
def doEvalDone (s : State) : State :=
  if !s.sward.evalBusy then s else
    let s := { s.setFld R.XS_CTL_EVAL 0 with sward := { s.sward with evalBusy := false } }
    s.showShape true (s.buildCfg (fun _ => true))

/-- EVAL_DONE. -/
def execEvalDone (s : State) : Host.Outcome State Fault Refusal := .next (doEvalDone s)

end Sys2Proof.Machine
end

