-- ==== Sys2Proof/Machine/Mere.lean ====
section
/-! DEFINITION. The Mere (spec/05): the writer and its open tiles, the close of spans, the verified read of a tile,
release of channels. -/

namespace Sys2Proof.Machine

def merePg : Page := pg .mere

/-! ### Places (R147) -/

/-- The tile index u. -/
def Cfg.tileIdx (c : Cfg) (chan tau group : Nat) : Nat := (chan * (c.tLen / 32) + tau) * c.nb + group

/-- The key of a tile: half and tile index. -/
def tileKey (h u : Nat) : Nat := h * 2 ^ 32 + u

/-- An error that concerns a pass: its label is the pass's first frame (R437). -/
def State.passError (s : State) (p : Page) (code pass chan : Nat) : State :=
  let c := s.cfgOfPass pass
  s.error p code (c.shown pass) chan (some (c.passFrame pass))

/-- The addresses of a tile's payload and descriptor in half h. -/
def Cfg.tileAddr (c : Cfg) (h u : Nat) : Nat := (if h = 0 then c.spanBase0 else c.spanBase1) + 2048 * u
def Cfg.tileDesc (c : Cfg) (h u : Nat) : Nat := c.dirBase + 16 * (h * c.tiles + u)

/-- FR_EXP (R143). -/
def Cfg.frExp (c : Cfg) : Nat := if c.chan then c.m + c.k + 1 else 1

/-- The frame of the first fine sample of a tile of a pass (R120, R143). -/
def Cfg.tileFrame (c : Cfg) (pass tau : Nat) : Nat :=
  (c.f0 + (c.newLen * ((pass - c.pass0) * c.tLen + 32 * tau)) / 16) % m48

/-- Two configurations place the Mere alike (R155). -/
def Cfg.sameMere (a b : Cfg) : Bool :=
  a.cFine == b.cFine && a.tLen == b.tLen && a.nb == b.nb && a.spanBase0 == b.spanBase0 && a.spanBase1 == b.spanBase1
    && a.dirBase == b.dirBase

/-- A pass waits in the list of those whose half is not wholly released. -/
def State.holdHalf (s : State) (j : Nat) : State :=
  if s.mere.unrel.any (fun x => x.pass == j) then s
  else { s with mere := { s.mere with unrel := s.mere.unrel ++ [⟨j, []⟩] } }

/-- A pass has released its whole half. -/
def State.freeHalf (s : State) (j : Nat) : State :=
  { s with mere := { s.mere with unrel := s.mere.unrel.filter (fun x => x.pass != j) } }

/-- The pass that holds a tile of pass j and channel chan as it opens: an earlier pass of its half that has not released
the channel, or, for the first span of a configuration that places the Mere anew, the whole half (R153, R155). -/
def State.tileHeldBy (s : State) (c : Cfg) (j chan : Nat) : Option Nat :=
  let whole := c.mereNew && decide (j = c.pass0)
  (s.mere.unrel.find? (fun x => decide (x.pass < j) && decide (x.pass % 2 = j % 2) &&
    (whole || (decide (chan < (s.cfgOfPass x.pass).cFine) && decide (chan ∉ x.chans))))).map (fun x => x.pass)

/-! ### Integrations -/

/-- The integration record that a pass belongs to, changed. -/
def State.onInt (s : State) (pass : Nat) (f : IntSt → IntSt) : State :=
  { s with bas := { s.bas with ints := s.bas.ints.map (fun x =>
      if x.firstPass ≤ pass ∧ pass < x.firstPass + x.len then f x else x) } }

/-- A bit of a number set. -/
def orBit (n i : Nat) : Nat := putBit n i true

/-- A flag of R226 set for the integration of a pass. -/
def State.intFlag (s : State) (pass bit : Nat) : State := s.onInt pass (fun x => { x with flags := orBit x.flags bit })

/-! ### The writer (R142 to R146, R153, R157, R158) -/

/-- An entry of the tile state table. -/
def State.openTile (s : State) (k : Nat) : Option OpenTile := s.mere.opens.get none k
def State.setOpen (s : State) (k : Nat) (o : Option OpenTile) : State :=
  { s with mere := { s.mere with opens := s.mere.opens.put none k o } }

/-- The first hold that pass p causes (R153). -/
def State.lateHold (s : State) (p chan : Nat) : State :=
  if p ∈ s.mere.lateFor then s else
    let s := { s with mere := { s.mere with lateFor := p :: s.mere.lateFor } }
    let s := (s.addFld R.MERE_PASSES_LATE 1).setFld R.MERE_STAT_LATE 1
    (s.passError merePg 0x10 p chan).raise merePg 1

/-- A tile opens with its first row. -/
def State.openNew (s : State) (c : Cfg) (pass tau : Nat) (r : Row) : OpenTile × State :=
  let held := s.tileHeldBy c pass r.chan
  let s := s.holdHalf pass
  let s := s.addFld R.MERE_PRODUCED 1
  let s := (s.addFld R.MERE_OPEN_COUNT 1)
  let s := s.maxFld R.MERE_OPEN_MAX_COUNT (s.fld R.MERE_OPEN_COUNT)
  let s := match held with | some p => s.lateHold p r.chan | none => s
  (⟨pass, r.chan, tau, r.group, 0xFFFFFFFF#32, 2 ^ 64 - 1, 0, held.isSome, false, r.frame⟩, s)

/-- The write of a row, which the memory accepts or answers with an error response. -/
def State.putRow (s : State) (addr : Nat) (bytes : List Byte) (fault : Bool) : Bool × State :=
  if fault then
    match s.placeOf .mereWr addr with
    | some p => (true, s.failRequest ⟨.mereWr, addr, true, 64, bytes, 0, 3⟩ p)
    | none => (true, s)
  else let r := s.writeDram .mereWr addr bytes; (decide (r.1 ≠ .ok), r.2)

/-- A row of a run taken by the writer. -/
def State.writeRow (s : State) (c : Cfg) (r : Row) (fault : Bool) : State :=
  let t := max 1 c.tLen
  let pass := c.pass0 + r.n / t
  let h := pass % 2
  let tau := r.n % t / 32
  let u := c.tileIdx r.chan tau r.group
  let k := tileKey h u
  let (o, s) := match s.openTile k with
    | some o => (o, s)
    | none => s.openNew c pass tau r
  let (bad, s) := if o.held then (false, s) else s.putRow (c.tileAddr h u + 64 * (r.n % 32)) r.bytes fault
  let o := { o with crc := crcRun o.crc r.bytes, mask := o.mask &&& r.valid, rows := o.rows + 1, fault := o.fault || bad }
  if o.rows = 32 ∧ o.held = true then
    (((s.setOpen k none).subFld R.MERE_OPEN_COUNT 1).addFld R.MERE_DISC_HELD 1)
  else s.setOpen k (some o)

/-- The tile that a row belongs to waits for its descriptor with all its rows written. -/
def State.tileFull (s : State) (c : Cfg) (r : Row) : Bool :=
  let t := max 1 c.tLen
  let k := tileKey ((c.pass0 + r.n / t) % 2) (c.tileIdx r.chan (r.n % t / 32) r.group)
  match s.openTile k with | some o => decide (o.rows = 32) | none => false

/-- The effect of MERE_ROW_WRITE: the oldest row goes to its tile; rows of no run are dropped (R157). It waits while the entry
of its tile still waits for the descriptor of the pass two before (R144). -/
def doMereRowWrite (fault : Bool) (s : State) : State :=
  match s.chn.rows with
  | [] => s
  | r :: rest =>
    let t := { s with chn := { s.chn with rows := rest } }
    if !s.runAt r.frame then t
    else
      let c := s.cfgAt r.frame
      if s.tileFull c r then s else t.writeRow c r fault

/-- MERE_ROW_WRITE. -/
def execMereRowWrite (fault : Bool) (s : State) : Host.Outcome State Fault Refusal := .next (doMereRowWrite fault s)

/-- The 16 bytes of a descriptor (R143). -/
def mereDesc (c : Cfg) (o : OpenTile) : List Byte :=
  leBytes 4 (o.crc ^^^ 0xFFFFFFFF#32).toNat ++ leBytes 8 (if o.fault then 0 else o.mask) ++
  leBytes 4 (o.frame % 2 ^ 27 + c.frExp * 2 ^ 27)

/-- The effect of MERE_DESCRIPTOR_WRITE: a tile whose 32 rows are written gets its descriptor (R144), not before the
directory has been zeroed (R315). -/
def doMereDescriptorWrite (k : Nat) (s : State) : State :=
  if s.mere.filling then s
  else match s.openTile k with
    | none => s
    | some o =>
      if o.rows ≠ 32 then s else
        let c := s.cfgOfPass o.pass
        let h := o.pass % 2
        let s := (s.writeDram .mereWr (c.tileDesc h (c.tileIdx o.chan o.tau o.group)) (mereDesc c o)).2
        let s := (s.setOpen k none).subFld R.MERE_OPEN_COUNT 1
        let s := (s.addFld R.MERE_WRITTEN 1).addFld R.MERE_RESIDENT 1
        { s with mere := { s.mere with resident := k :: s.mere.resident } }

/-- MERE_DESCRIPTOR_WRITE. -/
def execMereDescriptorWrite (k : Nat) (s : State) : Host.Outcome State Fault Refusal :=
  .next (doMereDescriptorWrite k s)

/-- The effect of MERE_DIR_FILL_DONE: the directory of both halves is zero (R315). -/
def doMereDirFillDone (s : State) : State :=
  if !s.mere.filling then s else
    let c := s.cfgAt s.now
    let s := s.zeroRange .fill c.dirBase (2 * c.tiles * 16)
    { s with mere := { s.mere with filling := false } }

/-- MERE_DIR_FILL_DONE. -/
def execMereDirFillDone (s : State) : Host.Outcome State Fault Refusal := .next (doMereDirFillDone s)

/-! ### The end of a chunk (R115, R151) -/

/-- The passes whose span's last frame lies in frames lo up to hi of a run. -/
def State.spansIn (s : State) (lo hi : Nat) : List Nat :=
  (List.range (hi - lo)).filterMap (fun t =>
    let f := lo + t
    let c := s.cfgAt f
    let d := (seqDiff 48 (f + 1) c.f0).toNat
    if s.runAt f && c.run && decide (d % max 1 c.span = 0) then some (c.pass0 + d / max 1 c.span - 1) else none)

/-- The span of a pass closes: its half waits for that pass to release it. -/
def State.closeSpan (s : State) (j : Nat) : State :=
  ({ s with mere := { s.mere with closed := s.mere.closed ++ [(j, s.ticks)] } }).holdHalf j

/-- Every tile of the rows delivered has been written or held as far as it goes. -/
def State.writerIdle (s : State) : Bool :=
  s.chn.rows.isEmpty && s.mere.opens.all (fun e => match e.2 with | some o => decide (o.rows < 32) | none => true)

/-- The effect of CHUNK_END: the last pair of the chunk has completed. -/
def doChunkEnd (s : State) : State :=
  match s.chn.chunk with
  | none => s
  | some c =>
    if !c.pairs.isEmpty || !s.writerIdle then s else
      let s := { s with chn := { s.chn with chunk := none } }
      let s := ((s.addFld R.CHN1_CHUNKS 1).setFld R.CHN1_STAT_RUNNING 0).showLag
      (s.spansIn c.lo ((c.num + 1) * c.len)).foldl (fun s j => s.closeSpan j) s

/-- CHUNK_END. -/
def execChunkEnd (s : State) : Host.Outcome State Fault Refusal := .next (doChunkEnd s)

/-! ### The verified read of a tile (R148 to R150, R158) -/

/-- A failed read: its counter, its error, READ_FAIL and the integration's flag (R149, R164, R226). -/
def State.readFail (s : State) (ctr : Fld) (code : Option Nat) (pass chan : Nat) : State :=
  let s := (s.addFld ctr 1).intFlag pass 7
  let s := match code with | some e => s.passError merePg e pass chan | none => s
  s.raise merePg 4

/-- The payload with every position outside the mask at zero (R150). -/
def maskPayload (mask : Nat) (bs : List Byte) : List Byte :=
  List.zipWith (fun i b => if mask.testBit (i % 64) then b else 0) (List.range bs.length) bs

/-- A tile's first read by its own pass is counted (R158). -/
def State.countTile (s : State) (k : Nat) : State :=
  if k ∈ s.mere.resident then
    let s := (s.addFld R.MERE_CONSUMED 1).subFld R.MERE_RESIDENT 1
    { s with mere := { s.mere with resident := s.mere.resident.filter (fun x => x != k), seen := k :: s.mere.seen } }
  else s

/-- The payload that a descriptor leads to: a descriptor that is still zero leads to none (R314, R315), and its read fails STALE. -/
def State.readTileData (s : State) (c : Cfg) (h u : Nat) (d : RdRes) : RdRes × State :=
  if !d.bad && d.bytes.all (fun b => b == 0) then (⟨List.replicate 2048 0, [], false⟩, s) else s.readDram .pool (c.tileAddr h u) 2048

/-- The read of a tile by pass j: its effective mask, and its payload masked. -/
def State.readMereTile (s : State) (c : Cfg) (j chan tau group : Nat) : (Nat × List Byte) × State :=
  let h := j % 2
  let u := c.tileIdx chan tau group
  let k := tileKey h u
  let s := s.countTile k
  let (d, s) := s.readDram .pool (c.tileDesc h u) 16
  let (p, s) := s.readTileData c h u d
  let own := decide (k ∈ s.mere.seen)
  if d.bad || p.bad then ((0, List.replicate 2048 0), s.readFail R.MERE_READ_POISON (some 0x13) j chan)
  else if leAt d.bytes 12 4 ≠ c.tileFrame j tau % 2 ^ 27 + c.frExp * 2 ^ 27 then
    ((0, List.replicate 2048 0), s.readFail R.MERE_READ_STALE (if own then some 0x14 else none) j chan)
  else if crc32c p.bytes ≠ leAt d.bytes 0 4 then
    ((0, List.replicate 2048 0), s.readFail R.MERE_READ_CRC (some 0x12) j chan)
  else let m := leAt d.bytes 4 8; ((m, maskPayload m p.bytes), s)

/-- The reader may take a tile of a sweep: it lies in one of the two sets from the step in progress, and is not held
(R173). -/
def State.mayRead (s : State) (c : Cfg) (w : SweepKey) (tau group : Nat) : Bool :=
  let per := c.subLen w.sub / (32 * c.shape.s)
  let t0 := c.subOff w.sub / 32
  let lam := (tau - t0) % max 1 per
  decide (t0 ≤ tau) && decide (tau < t0 + c.subLen w.sub / 32) && decide (group < c.nb)
    && decide (s.sward.step / 32 ≤ lam) && decide (lam ≤ s.sward.step / 32 + 1)
    && !(s.sward.staging.any (fun x => x.tau == tau && x.group == group))

/-- The blocks of a sweep that are neither committed nor zeroed as its first tile is read. -/
def State.sweepBlocks (s : State) (c : Cfg) (w : SweepKey) : Nat :=
  if c.eX = 0 then 0 else
    let b0 := roundStart c.shape.nblk c.shape.nr w.round
    ((List.range (roundBlocks c.shape.nblk c.shape.nr w.round)).filter (fun i => decide ((w, b0 + i) ∉ s.bas.zeroed))).length

/-- A sweep has its slot of the mask store, or needs none. -/
def State.maskReady (s : State) (c : Cfg) (w : SweepKey) : Bool :=
  s.bas.masks.any (fun x => x.key == w) || decide (s.sweepBlocks c w = 0)

/-- The slot of the mask store that the first read of a sweep takes, where one of the three is free (R201). -/
def State.openMask (s : State) (c : Cfg) (w : SweepKey) : State :=
  if s.maskReady c w ∨ 3 ≤ s.bas.masks.length then s
  else { s with bas := { s.bas with masks := s.bas.masks ++ [⟨w, [], [], s.sweepBlocks c w⟩] } }

/-- The mask of a tile put into the mask store's slot of its sweep (R201). -/
def State.putMask (s : State) (w : SweepKey) (tau group mask : Nat) : State :=
  { s with bas := { s.bas with masks := s.bas.masks.map (fun x =>
      if x.key = w then { x with masks := x.masks.put 0 (tau * 64 + group) mask } else x) } }

/-- The POOL port on which a tile of a group is read (R173). -/
def poolPort (group : Nat) : Nat := group % 8

/-- The effect of MERE_READ: a tile of the sweep in progress is read and staged. The first waits for a slot of the mask
store. -/
def doMereRead (tau group : Nat) (s : State) : State :=
  match s.sward.sweep with
  | none => s
  | some w =>
    let c := s.cfgOfPass w.pass
    let s := if s.mayRead c w tau group then s.openMask c w else s
    if !(s.mayRead c w tau group && s.maskReady c w) then s else
      let (r, s) := s.readMereTile c w.pass w.chan tau group
      let s := s.putMask w tau group r.1
      { s with sward := { s.sward with staging := ⟨tau, group, r.2, r.1, poolPort group⟩ :: s.sward.staging } }

/-- MERE_READ. -/
def execMereRead (tau group : Nat) (s : State) : Host.Outcome State Fault Refusal := .next (doMereRead tau group s)

/-! ### Release (R152) -/

/-- A channel of the half of a pass released; the whole half once every channel is. -/
def State.releaseChan (s : State) (j chan : Nat) : State :=
  let add (x : HalfSt) : HalfSt := if x.pass = j ∧ chan ∉ x.chans then { x with chans := chan :: x.chans } else x
  let l := (s.mere.unrel.map add).filter (fun x => x.pass != j || decide (x.chans.length < (s.cfgOfPass j).cFine))
  { s with mere := { s.mere with unrel := l } }

/-- The effect of CHANNEL_RELEASE: the oldest accepted channel-pass of that channel releases its half. -/
def doChannelRelease (chan : Nat) (s : State) : State :=
  match s.bas.accepted.find? (fun a => a.2 == chan) with
  | none => s
  | some a =>
    ({ s with bas := { s.bas with accepted := s.bas.accepted.filter (fun x => x != a) } }).releaseChan a.1 chan

/-- CHANNEL_RELEASE. -/
def execChannelRelease (chan : Nat) (s : State) : Host.Outcome State Fault Refusal := .next (doChannelRelease chan s)

/-- A reset or switch-off of the Mere (R159). -/
def State.stopMere (s : State) : State :=
  let s := s.addFld R.MERE_LOST_OPEN (s.fld R.MERE_OPEN_COUNT)
  let s := s.addFld R.MERE_LOST_RESET (s.fld R.MERE_RESIDENT)
  let s := ((s.setFld R.MERE_OPEN_COUNT 0).setFld R.MERE_RESIDENT 0)
  { s with mere := {}, sward := { s.sward with planBusy := false } }

end Sys2Proof.Machine
end

