-- ==== Sys2Proof/Machine/Store.lean ====
section
/-! DEFINITION. The visibility store and the sums of the Basin (spec/07): formats, compensated adds, weights, the commit of
a block, zeroed contributions, slices and the mask store. -/

namespace Sys2Proof.Machine

def basPg : Page := pg .bas

/-! ### Formats and adds (R207 to R210) -/

/-- The marker of a signed width, and an add that keeps it (R208, R209). -/
def stickyAdd (w old : Nat) (x : Int) : Nat :=
  if old = 2 ^ (w - 1) then old
  else
    let v := sgn w old + x
    if v < -(2 : Int) ^ (w - 1) ∨ (2 : Int) ^ (w - 1) - 1 < v then 2 ^ (w - 1) else unsgn w v

/-- The compensated add of a binary32 term to (S, e) (R210). -/
def compAdd (S e x : Nat) : Nat × Nat :=
  let s := f32.addBits S x
  let bp := f32.subBits s S
  let t := f32.addBits (f32.subBits S (f32.subBits s bp)) (f32.subBits x bp)
  (s, f32.addBits e t)

/-- The four bytes of a binary32 or 32-bit word, as numbers of a record: VIS32 and VIS64 hold Re and Im, VISC the sums
and errors of both. -/
abbrev RecVal := List Nat

/-- The widths in bytes of a record's words. -/
def recWidths (fmt : Nat) : List Nat := if fmt = 0 then [4, 4] else if fmt = 1 then [8, 8] else [4, 4, 4, 4]

/-- A record as bytes, and the record that bytes spell. -/
def recBytes (fmt : Nat) (v : RecVal) : List Byte := (List.zipWith leBytes (recWidths fmt) v).flatten
def recOfBytes (fmt : Nat) (bs : List Byte) : RecVal :=
  if fmt = 0 then [leAt bs 0 4, leAt bs 4 4] else if fmt = 1 then [leAt bs 0 8, leAt bs 8 8]
  else [leAt bs 0 4, leAt bs 4 4, leAt bs 8 4, leAt bs 12 4]

/-- The record of value 0. -/
def recZero (fmt : Nat) : RecVal := (recWidths fmt).map (fun _ => 0)

/-- A calibration gain as the words of its table entry (R229). -/
abbrev Gain := Nat × Nat

/-- Exact complex products on binary32 data, each part rounded once (R210). -/
def cxMulF (ar ai br bi : FVal) : Nat × Nat :=
  let neg : FVal → FVal := fun v => match v with | .nan => .nan | .inf n => .inf (!n) | .fin n m e => .fin (!n) m e
  (f32.encode ((ar.mul br).add (neg (ai.mul bi))), f32.encode ((ar.mul bi).add (ai.mul br)))

/-- G = g_i × conj(g_k) (R210). -/
def calGain (gi gk : Gain) : Gain :=
  let neg : FVal → FVal := fun v => match v with | .nan => .nan | .inf n => .inf (!n) | .fin n m e => .fin (!n) m e
  cxMulF (f32.decode gi.1) (f32.decode gi.2) (f32.decode gk.1) (neg (f32.decode gk.2))

/-- The term x of a partial: P × G, or P (R210). -/
def visTerm (p : Int × Int) (g : Option Gain) : Nat × Nat :=
  match g with
  | some g => cxMulF (FVal.ofInt p.1) (FVal.ofInt p.2) (f32.decode g.1) (f32.decode g.2)
  | none => (f32.encode (FVal.ofInt p.1), f32.encode (FVal.ofInt p.2))

/-- A record's first commit, and a later one (R205, R208 to R210). -/
def recFirst (fmt : Nat) (p : Int × Int) (g : Option Gain) : RecVal :=
  if fmt = 0 then [unsgn 32 p.1, unsgn 32 p.2] else if fmt = 1 then [unsgn 64 p.1, unsgn 64 p.2]
  else let x := visTerm p g; [x.1, 0, x.2, 0]
def recAdd (fmt : Nat) (old : RecVal) (p : Int × Int) (g : Option Gain) : RecVal :=
  match fmt, old with
  | 0, [a, b] => [stickyAdd 32 a p.1, stickyAdd 32 b p.2]
  | 1, [a, b] => [stickyAdd 64 a p.1, stickyAdd 64 b p.2]
  | _, [a, b, c, d] =>
    let x := visTerm p g
    let r := compAdd a b x.1
    let i := compAdd c d x.2
    [r.1, r.2, i.1, i.2]
  | _, old => old

/-- A weight written or added, staying at its top (R204). -/
def weightAdd (old w : Nat) : Nat := min 4294967295 (old + w)

/-! ### Places of the store (R205, R206) -/

/-- The cells (r, c') of a block that the store holds, in record order: all, or the upper half of a diagonal block. -/
def storedCells (diag : Bool) : List (Nat × Nat) :=
  (List.range 64).flatMap (fun r => (List.range 64).filterMap (fun c => if diag && decide (c < r) then none else some (r, c)))

/-- The address of channel ch in the bank of an integration. -/
def Cfg.chanArea (c : Cfg) (seq ch : Nat) : Nat :=
  (if seq % 2 = 0 then c.bank0 else c.bank1) + ch * (c.vch * (c.bv + 4))

/-- O(b) of block (p, q). -/
def recordOf (b q : Nat) : Nat := 4096 * b - 2016 * q

/-- What a read of records gives: values, weights, poison marks of the words read. -/
structure StoreRead where
  vals : RdRes
  wts : RdRes
  deriving DecidableEq, Repr

/-- The marks of words as a test by index. -/
def RdRes.markAt (r : RdRes) (i : Nat) : Bool := r.decode || r.marks.getD i false

/-! ### Weights (R201 to R203) -/

/-- n_ik × 32 of a product over a sub-pass: tiles in which both mask bits are 1. -/
def tileWeight (c : Cfg) (δ : Nat) (masks : SMap Nat) (p q r k : Nat) : Nat :=
  let t0 := c.subOff δ / 32
  32 * ((List.range (c.subLen δ / 32)).filter (fun t =>
    (masks.get 0 ((t0 + t) * 64 + p)).testBit r && (masks.get 0 ((t0 + t) * 64 + q)).testBit k)).length

/-- The effective masks of a sweep, or of its replay read. -/
def State.masksOf (s : State) (w : SweepKey) (replay : Bool) : SMap Nat :=
  match s.bas.masks.find? (fun x => x.key == w) with
  | some x => if replay then x.rep else x.masks
  | none => []

/-- A block of a sweep is committed or zeroed: its mask slot is freed with the last one (R201). -/
def State.blockDone (s : State) (w : SweepKey) : State :=
  let ms := s.bas.masks.map (fun x => if x.key = w then { x with left := x.left - 1 } else x)
  { s with bas := { s.bas with masks := ms.filter (fun x => !(x.key == w && x.left == 0)) } }

/-! ### The commit of a block (R203 to R211) -/

/-- The integration record of a pass. -/
def State.intOfPass (s : State) (pass : Nat) : Option IntSt :=
  s.bas.ints.find? (fun x => decide (x.firstPass ≤ pass) && decide (pass < x.firstPass + x.len))

/-- The calibration gain of an input in force for a pass (R211). -/
def State.gainAt (s : State) (f i : Nat) : Gain := (s.tabAt basPg f (0x1208000 + 8 * i), s.tabAt basPg f (0x1208004 + 8 * i))

/-- Is a commit of a sweep the first of its integration (R205)? -/
def IntSt.first (x : IntSt) (w : SweepKey) : Bool := x.firstAcc == some w.pass && w.sub == 0

/-- A first commit to a channel of integration x's bank waits for what another integration still has there (R216), the whole
bank where geometry or base differ (R217). -/
def State.bankHeld (s : State) (x : IntSt) (chan : Nat) : Bool :=
  let base (y : IntSt) : Nat := if x.seq % 2 = 0 then y.cfg.bank0 else y.cfg.bank1
  (s.bas.fin ++ s.bas.ints).any (fun y => y.seq % 2 == x.seq % 2 && decide (y.seq < x.seq) && decide (y.stage = 0)
    && decide (0 < y.cfg.eX) &&
    (if y.cfg.cFine = x.cfg.cFine ∧ y.cfg.nbX = x.cfg.nbX ∧ y.cfg.fmt = x.cfg.fmt ∧ base y = base x
      then decide (y.ch ≤ chan) else true))

/-- A write of the Basin waits some cycles for the finisher (R216, R247). -/
def State.finWait (s : State) (wait : Nat) : State :=
  let s := s.addFld R.BAS_FIN_WAIT_CYC wait
  if s.bit R.BAS_STAT_FIN_WAIT then s else (s.setFld R.BAS_STAT_FIN_WAIT 1).raise basPg 6

/-- The values and weights of a block put into the store: product (r, c') of the block at r × 64 + c'. A zeroed block, and a
product of an input at or above N_x, has value 0 and weight 0, whatever the gains (R16, R198, R203). -/
def State.commitBlock (s : State) (x : IntSt) (w : SweepKey) (b : Nat) (zero : Bool) (vals : List (Int × Int)) (wts : Nat → Nat → Nat) :
    State :=
  let c := x.cfg
  let (p, q) := blockPQ c.nbX b
  let cells := storedCells (p == q)
  let n := cells.length
  let va := c.chanArea x.seq w.chan + recordOf b q * c.bv
  let wa := c.chanArea x.seq w.chan + c.vch * c.bv + recordOf b q * 4
  let f := c.passFrame w.pass
  let live (r k : Nat) : Bool := !zero && decide (64 * p + r < c.nX) && decide (64 * q + k < c.nX)
  let cal := c.fmt == 2 && s.bitAt basPg f R.BAS_INT_CTL_CAL_EN
  let gain (r k : Nat) : Option Gain :=
    if cal && live r k then some (calGain (s.gainAt f (64 * p + r)) (s.gainAt f (64 * q + k))) else none
  let val (r k : Nat) : Int × Int := if live r k then vals.getD (64 * r + k) (0, 0) else (0, 0)
  let wt (r k : Nat) : Nat := if live r k then wts r k else 0
  if x.first w then
    let s := (s.writeDram .drain va (cells.flatMap (fun z => recBytes c.fmt (recFirst c.fmt (val z.1 z.2) (gain z.1 z.2))))).2
    (s.writeDram .drain wa (cells.flatMap (fun z => leBytes 4 (min 4294967295 (wt z.1 z.2))))).2
  else
    let (rv, s) := s.readDram .drain va (n * c.bv)
    let (rw, s) := s.readDram .drain wa (n * 4)
    let nv := (cells.zipIdx).flatMap (fun (z, i) =>
      recBytes c.fmt (recAdd c.fmt (recOfBytes c.fmt (sliceBytes rv.bytes (i * c.bv) c.bv)) (val z.1 z.2) (gain z.1 z.2)))
    let nw := (cells.zipIdx).flatMap (fun (z, i) => leBytes 4 (weightAdd (leAt rw.bytes (4 * i) 4) (wt z.1 z.2)))
    let s := (s.writeDramP .drain va nv rv.markAt).2
    (s.writeDramP .drain wa nw rw.markAt).2

/-- The Re sums of the products (i, i) of a diagonal block, for the peak finder (R251). -/
def State.addAutos (s : State) (c : Cfg) (w : SweepKey) (b : Nat) (vals : List (Int × Int)) (wts : Nat → Nat → Nat) : State :=
  let (p, q) := blockPQ c.nbX b
  if p ≠ q then s else
    (List.range 64).foldl (fun s r =>
      let i := 64 * p + r
      if c.nX ≤ i then s else
        let k := (w.pass, w.chan, i)
        let old := (s.beam.autos.lookup k).getD (0, 0)
        let new := (unsgn 32 (old.1 + (vals.getD (65 * r) (0, 0)).1), old.2 + wts r r)
        { s with beam := { s.beam with autos := (k, new) :: s.beam.autos.filter (fun e => e.1 != k) } }) s

/-- A block of a sweep committed, with the masks of its read or of its replay's: store, peak sums, mask slot. In a pass of an
integration that a reset has abandoned it adds to nothing (R220). -/
def State.commit (s : State) (w : SweepKey) (b : Nat) (vals : List (Int × Int)) (replay : Bool) : State :=
  match s.intOfPass w.pass with
  | none => s.blockDone w
  | some x =>
    let (p, q) := blockPQ x.cfg.nbX b
    let wts := tileWeight x.cfg w.sub (s.masksOf w replay) p q
    ((s.commitBlock x w b false vals wts).addAutos x.cfg w b vals wts).blockDone w

/-- The first commit of a zeroed contribution, which waits for the finisher like any other. -/
def State.zeroFirst (s : State) (x : IntSt) (w : SweepKey) (b : Nat) : State :=
  if s.bankHeld x w.chan then ({ s with bas := { s.bas with zeroLater := s.bas.zeroLater ++ [(w, b)] } }).finWait 0
  else s.commitBlock x w b true [] (fun _ _ => 0)

/-- The zeroed first commits that no longer wait are written. -/
def State.flushZeros (s : State) : State :=
  if s.bas.zeroLater.isEmpty then s
  else
    let l := s.bas.zeroLater
    let s := { s with bas := { s.bas with zeroLater := [] } }
    l.foldl (fun s z => match s.intOfPass z.1.pass with | some x => s.zeroFirst x z.1 z.2 | none => s) s

/-- A zeroed contribution (R198): the block adds nothing for its sub-pass. -/
def State.zeroBlock (s : State) (w : SweepKey) (b : Nat) : State :=
  if (w, b) ∈ s.bas.zeroed then s else
    let s := { s with bas := { s.bas with
      zeroed := (w, b) :: s.bas.zeroed
      slices := s.bas.slices.filter (fun a => !(a.key == w && a.block == b)) } }
    let s := s.addFld R.BAS_BLOCKS_ZEROED 1
    let s := s.onInt w.pass (fun x => { x with zeroed := min 4294967295 (x.zeroed + 1), flags := orBit x.flags 5 })
    let s := match s.intOfPass w.pass with
      | some x => if x.first w then s.zeroFirst x w b else s
      | none => s
    s.blockDone w

/-- What logical engine e held in a sweep becomes a zeroed contribution, once (R198). -/
def State.zeroSweep (s : State) (c : Cfg) (w : SweepKey) (e : Nat) : State :=
  if (w, e) ∈ s.bas.done then s else
    let s := (c.places w.round w.pass e).foldl (fun s p => s.zeroBlock w p.block) s
    { s with bas := { s.bas with done := (w, e) :: s.bas.done } }

/-! ### Buffers committed (R195, R200, R214) -/

/-- The record data at place i of a buffer. -/
def Buf.record (b : Buf) (i : Nat) : List Byte := sliceBytes b.bytes (512 + 24576 * i) 24576

/-- The products that record bytes spell. -/
def productsOf : List Byte → List (Int × Int)
  | a :: b :: c :: d :: e :: f :: t => (sgn 24 (leNat [a, b, c]), sgn 24 (leNat [d, e, f])) :: productsOf t
  | _ => []

/-- A slice added to its block's assembly; the block is committed with its last slice (R200, R214), and weighted by the replay's
masks if any slice was replayed, whichever comes last (R204). -/
def State.addSlice (s : State) (c : Cfg) (w : SweepKey) (b : Nat) (vals : List (Int × Int)) (replay : Bool) : State :=
  let a := (s.bas.slices.find? (fun a => a.key == w && a.block == b)).getD ⟨w, b, 0, List.replicate 4096 (0, 0), false⟩
  let a := { a with
    got := a.got + 1
    sums := List.zipWith (fun (x y : Int × Int) => (x.1 + y.1, x.2 + y.2)) a.sums vals
    rep := a.rep || replay }
  let rest := s.bas.slices.filter (fun x => !(x.key == w && x.block == b))
  if a.got < c.shape.s then { s with bas := { s.bas with slices := a :: rest } }
  else ({ s with bas := { s.bas with slices := rest } }).commit w b a.sums a.rep

/-- One record of a buffer: of a block that is already a zeroed contribution it adds nothing (R198). -/
def State.commitRecord (s : State) (c : Cfg) (b : Buf) (p : Place) (i : Nat) : State :=
  if (b.key, p.block) ∈ s.bas.zeroed then s
  else
    let v := productsOf (b.record i)
    if p.sliced then s.addSlice c b.key p.block v b.replay else s.commit b.key p.block v b.replay

/-- A buffer's records enter the sums. -/
def State.commitData (s : State) (b : Buf) : State :=
  let c := s.cfgOfPass b.key.pass
  let s := (c.places b.key.round b.key.pass b.logical).zipIdx.foldl (fun s x => s.commitRecord c b x.1 x.2) s
  let s := (s.addFld R.BAS_COMMITTED 1).subFld R.BAS_IN_CB 1
  { s with bas := { s.bas with done := (b.key, b.logical) :: s.bas.done } }

/-- Two passes lie in one integration. -/
def State.sameInt (s : State) (j k : Nat) : Bool := decide ((s.cfgOfPass j).intOf j = (s.cfgOfPass k).intOf k)

/-- A zeroed first commit of a buffer's channel and integration still waits. -/
def State.behindZero (s : State) (b : Buf) : Bool :=
  s.bas.zeroLater.any (fun z => decide (z.1.chan = b.key.chan) && s.sameInt z.1.pass b.key.pass)

/-- The commit of a buffer follows a sweep of an earlier pass of its integration and channel that is still pending, whose replay
takes its place in the order (R214), or a zeroed first commit that waits. -/
def State.mustFollow (s : State) (b : Buf) : Bool :=
  !b.replay && (s.behindZero b || s.bas.pend.any (fun p =>
    decide (p.key.chan = b.key.chan) && decide (p.key.pass < b.key.pass) && s.sameInt p.key.pass b.key.pass))

/-- A first commit that waits for the finisher, or a commit behind a zeroed one that does. -/
def State.commitHeld (s : State) (b : Buf) : Bool :=
  match s.intOfPass b.key.pass with
  | some x => (x.first b.key && s.bankHeld x b.key.chan) || s.behindZero b
  | none => false

/-- A write of the Basin waits for the finisher: a zeroed first commit, the zero bins of a skipped pass, or the commit of the next
buffer (R216, R217, R247). -/
def State.finWaits (s : State) : Bool :=
  !s.bas.zeroLater.isEmpty || !s.beam.zeroBinsLater.isEmpty || (match s.bas.cbs with | b :: _ => s.commitHeld b | [] => false)

/-- STAT.FIN_WAIT falls once no write waits for the finisher. -/
def State.finWaitOver (s : State) : State := if s.finWaits then s else s.setFld R.BAS_STAT_FIN_WAIT 0

/-- The buffers of a list whose turn has come are committed. -/
def flushEach : List Buf → State → State
  | [], s => s
  | b :: t, s =>
    if s.mustFollow b then flushEach t s
    else flushEach t (({ s with bas := { s.bas with late := s.bas.late.filter (fun x => x != b) } }).commitData b)

/-- The buffers that waited for a pending sweep are committed once it is resolved. -/
def State.flushLate (s : State) : State := flushEach s.bas.late s

/-! ### Sweeps in order (R172) -/

/-- The sweep after one, within its pass. -/
def Cfg.succ (c : Cfg) (w : SweepKey) : Option SweepKey :=
  if w.round + 1 < c.shape.nr then some { w with round := w.round + 1 }
  else if w.sub + 1 < c.shape.d then some { w with sub := w.sub + 1, round := 0 }
  else if w.chan + 1 < c.cFine then some { w with chan := w.chan + 1, sub := 0, round := 0 }
  else none

/-- The sweeps of a channel-pass. -/
def Cfg.sweepsOf (c : Cfg) (pass chan : Nat) : List SweepKey :=
  (List.range c.shape.d).flatMap (fun δ => (List.range c.shape.nr).map (fun j => ⟨pass, chan, δ, j⟩))

/-- The order of sweeps: pass, channel, sub-pass, round. -/
def SweepKey.le (a b : SweepKey) : Bool :=
  if a.pass ≠ b.pass then decide (a.pass < b.pass)
  else if a.chan ≠ b.chan then decide (a.chan < b.chan)
  else if a.sub ≠ b.sub then decide (a.sub < b.sub) else decide (a.round ≤ b.round)

end Sys2Proof.Machine
end

