-- ==== Sys2Proof/Machine/Group.lean ====
section
/-! DEFINITION. Groups of engines and their supervisors (spec/09): the logical map, engine resets, failure signs, orphaned
slots, and the supervisor's commands. -/

namespace Sys2Proof.Machine

def engPg (n : Nat) : Page := ⟨.eng, n⟩
def gsvPg (g : Nat) : Page := ⟨.gsv, g⟩
def bmPg : Page := pg .bm
def xsPg : Page := pg .xs

/-- An engine and a group, and their replacement. -/
def State.eng (s : State) (n : Nat) : EngSt := s.sward.engs.get {} n
def State.setEng (s : State) (n : Nat) (e : EngSt) : State :=
  { s with sward := { s.sward with engs := s.sward.engs.put {} n e } }
def State.gsv (s : State) (g : Nat) : GsvSt := s.gsvs.get {} g
def State.setGsv (s : State) (g : Nat) (x : GsvSt) : State := { s with gsvs := s.gsvs.put {} g x }

/-- States of ENG.STAT.STATE. -/
def esOff : Nat := 0
def esIdle : Nat := 1
def esXRun : Nat := 2
def esBRun : Nat := 3
def esDrain : Nat := 4
def esCredit : Nat := 5
def esStarve : Nat := 6
def esTest : Nat := 7
def esStandby : Nat := 8
def esFailed : Nat := 9
def esLocked : Nat := 10

/-- The number of physical engines of the ordering code. -/
def State.nEngs (s : State) : Nat := PageKind.eng.count s.dev.code

/-- The state of an engine apart from a self-test that runs. -/
def State.engBase (s : State) (n : Nat) : Nat := if (s.eng n).testing then (s.eng n).testFrom else s.fld (R.ENG_STAT_STATE n)

/-- FAILED or LOCKED_OUT. -/
def State.engDead (s : State) (n : Nat) : Bool := s.engBase n == esFailed || s.engBase n == esLocked

/-- The supervisor or the schedule gives an engine a state; a self-test that runs stops (R187). -/
def State.setEngState (s : State) (n v : Nat) : State :=
  let s := if (s.eng n).testing then (s.setEng n { s.eng n with testing := false }).setFld (R.ENG_STAT_ST_ABORTED n) 1 else s
  s.setFld (R.ENG_STAT_STATE n) v

/-! ### The logical map (R258 to R260) -/

/-- MAP nibble of a logical slot. -/
def mapFld (g sl : Nat) : Fld := ⟨0x150000 + 0x1000 * g + 0x54, 4 * sl, 4⟩

/-- The group and slot of a logical engine. -/
def Cfg.position (c : Cfg) (e : Nat) : Nat × Nat :=
  match c.positions with
  | some l => l.getD e (99, 0)
  | none => (e / 8, e % 8)

/-- The X-side logical engine at a position. -/
def Cfg.xAt (c : Cfg) (p : Nat × Nat) : Option Nat := (List.range c.eX).find? (fun e => c.position e == p)

/-- The physical engine that bears a logical engine. -/
def State.bearer (s : State) (c : Cfg) (e : Nat) : Option Nat :=
  let (g, sl) := c.position e
  if s.nGroups ≤ g then none
  else
    let b := s.fld (mapFld g sl)
    if b = 15 then none else some (9 * g + b)

/-- The logical engine that a physical engine bears. -/
def State.logicalOf (s : State) (c : Cfg) (n : Nat) : Option Nat :=
  (List.range (c.eX + c.eB)).find? (fun e => s.bearer c e == some n)

/-- The configuration of the pass in progress, or of the next one. -/
def State.passCfg (s : State) : Cfg :=
  match s.mere.pass with
  | some j => s.cfgOfPass j
  | none => s.cfgOfPass s.mere.next

/-- The engines that take part in the lockstep: logical engine and bearer that is not FAILED or LOCKED_OUT. -/
def State.activeEngs (s : State) (c : Cfg) : List (Nat × Nat) :=
  (List.range (c.eX + c.eB)).filterMap (fun e =>
    match s.bearer c e with
    | some n => if s.engDead n then none else some (e, n)
    | none => none)

/-- Logical engines without a working bearer. -/
def State.orphans (s : State) (c : Cfg) : List Nat :=
  (List.range (c.eX + c.eB)).filter (fun e => s.bearer c e == none)

/-- The slot of a group's Fallow, in STANDBY (R258, R264). -/
def State.spareSlot (s : State) (g : Nat) : Option Nat :=
  match (s.gsv g).fallow with
  | some f => if s.engBase (9 * g + f) = esStandby then some f else none
  | none => none

/-- STAT of a group from its engines and map: a slot with no bearer is orphaned while the position list names it, else
it was given up in a re-plan (R260, R273). -/
def State.refreshGroup (s : State) (g : Nat) : State :=
  let w := ((List.range 9).filter (fun i => !s.engDead (9 * g + i))).length
  let bare := (List.range 8).filter (fun sl => s.fld (mapFld g sl) == 15)
  let c := s.passCfg
  let orphan := bare.any (fun sl => (List.range (8 * s.nGroups)).any (fun e => c.position e == (g, sl)))
  let ff := match (s.gsv g).fallow with
    | some f => ((List.range 8).find? (fun sl => s.fld (mapFld g sl) == f)).getD 15
    | none => 15
  let s := (s.setFld (R.GSV_STAT_WORKING g) w).setFld (R.GSV_STAT_FALLOW_FOR g) ff
  let s := s.setBit (R.GSV_STAT_SPARE_AVAIL g) (s.spareSlot g).isSome
  (s.setBit (R.GSV_STAT_ORPHAN g) orphan).setBit (R.GSV_STAT_DEGRADED g) (!bare.isEmpty)

/-- The physical slots of a group whose engine works and bears nothing; the Fallow last, and not while it is to take over. -/
def State.freeSlots (s : State) (g : Nat) : List Nat :=
  let l := (List.range 9).filter (fun i => !s.engDead (9 * g + i) && (List.range 8).all (fun sl => s.fld (mapFld g sl) != i))
  let f := (s.gsv g).fallow
  l.filter (fun i => f != some i) ++ l.filter (fun i => f == some i && (s.gsv g).takeover.isNone)

/-- A slot without a bearer is given one of its group's engines that work and bear nothing, if there is one. -/
def State.rebearSlot (s : State) (g sl : Nat) : State :=
  if s.fld (mapFld g sl) ≠ 15 then s
  else match s.freeSlots g with
    | i :: _ => (s.setFld (mapFld g sl) i).setEngState (9 * g + i) esIdle
    | [] => s

/-- DESIGN CHOICE: a new configuration finds a bearer for every slot whose group has an engine to spare, so that its position list
has a slot for each of the A engines that the arm may use (R41, R260, R274). -/
def State.rebear (s : State) : State :=
  (List.range s.nGroups).foldl (fun s g => ((List.range 8).foldl (fun s sl => s.rebearSlot g sl) s).refreshGroup g) s

/-- A of R274. -/
def State.workingTotal (s : State) : Nat :=
  ((List.range s.nGroups).map (fun g => min 8 (s.fld (R.GSV_STAT_WORKING g)))).sum

/-- ROLE and STATE of every engine under a configuration (R259, R260). -/
def State.assignRoles (s : State) (c : Cfg) : State :=
  (List.range s.nEngs).foldl (fun s n =>
    match s.logicalOf c n with
    | some e =>
      let s := ((s.setFld (R.ENG_ROLE_LOGICAL n) e).setFld (R.ENG_ROLE_ASSIGNED n) 1).setBit (R.ENG_ROLE_MODE n) (decide (c.eX ≤ e))
      if (s.eng n).testing && !s.engDead n then s.setEngState n esIdle else s
    | none =>
      let s := ((s.setFld (R.ENG_ROLE_LOGICAL n) 0).setFld (R.ENG_ROLE_ASSIGNED n) 0).setFld (R.ENG_ROLE_MODE n) 0
      if s.engBase n ∈ [esXRun, esBRun, esDrain, esCredit, esStarve] then s.setEngState n esIdle else s) s

/-! ### Engine reset (R13, R182) -/

/-- An engine reset: contexts zeroed and staging emptied, a partly written buffer discarded, class B fields of the page but
STATE cleared. A buffer handed over, and the credit, stay as they are. DESIGN CHOICE: the record 0x11 of the discarded buffer
follows the clear, so that PG_ERR_CODE shows it. -/
def State.engineReset (s : State) (n : Nat) : State :=
  let e := s.eng n
  let st := s.fld (R.ENG_STAT_STATE n)
  let s := s.clearRegs (fun k => keyPage k == some (engPg n) && keyClass k == .B)
  let s := s.setFld (R.ENG_STAT_STATE n) st
  let s := if e.buf.isEmpty then s else
    match s.sward.sweep with
    | some w => s.passError (engPg n) 0x11 w.pass w.chan
    | none => s.error (engPg n) 0x11 0 0 none
  s.setEng n { e with ctx := [], buf := [], phase := 0, testing := false, lost := s.sward.sweep.isSome && decide (e.phase ≠ 0) }

/-- The effect of a soft reset of an ENG page: a self-test that runs ends with it. -/
def doEngineReset (n : Nat) (s : State) : State :=
  if s.nEngs ≤ n then s
  else if (s.eng n).testing then (s.engineReset n).setFld (R.ENG_STAT_STATE n) (s.eng n).testFrom
  else s.engineReset n

/-- ENGINE_RESET. -/
def execEngineReset (π : Path) (n : Nat) (s : State) : Host.Outcome State Fault Refusal :=
  .next (s.hostCmd π (0x100008 + 0x1000 * n) (doEngineReset n))

/-! ### Resolution without replay (R198, R266, R273) -/

/-- A channel-pass of an X-side logical engine resolved without replay, from a sweep on. -/
def State.zeroCp (s : State) (g : Nat) (c : Cfg) (e pass chan : Nat) (w0 : Option SweepKey) : State :=
  let ws := (c.sweepsOf pass chan).filter (fun w => (match w0 with | some k => k.le w | none => true) && decide ((w, e) ∉ s.bas.done))
  if ws.isEmpty then s else
    let s := ws.foldl (fun s w => s.zeroSweep c w e) s
    if s.nGroups ≤ g then s else ((s.addFld (R.GSV_ZEROED_CP g) 1).passError (gsvPg g) 0x11 pass chan).raise (gsvPg g) 3

/-- The channels from one up to, not including, another. -/
def chansFrom (j lo hi : Nat) : List (Nat × Nat) := (List.range (hi - lo)).map (fun i => (j, lo + i))

/-- The channel-passes from one to another, in order; none where the first lies after the other. -/
def State.cpsBetween (s : State) (a b : Nat × Nat) : List (Nat × Nat) :=
  if b.1 < a.1 then []
  else if a.1 = b.1 then chansFrom a.1 a.2 (b.2 + 1)
  else
    chansFrom a.1 a.2 (s.cfgOfPass a.1).cFine ++
    (List.range (b.1 - a.1 - 1)).flatMap (fun i => chansFrom (a.1 + 1 + i) 0 (s.cfgOfPass (a.1 + 1 + i)).cFine) ++
    chansFrom b.1 0 (b.2 + 1)

/-- The position of a logical engine in the pass of a sweep: a device arm may number the same slot anew (R260). -/
def State.seatOf (s : State) (w : SweepKey) (e : Nat) : Nat × Nat := (s.cfgOfPass w.pass).position e

/-- The pending entry of what a logical slot bears. -/
def State.pendAt (s : State) (p : Nat × Nat) : Option Pend := s.bas.pend.find? (fun x => s.seatOf x.key x.logical == p)

/-- A pending entry opened (R197), unless one stands. -/
def State.openPend (s : State) (e : Nat) (w : SweepKey) : State :=
  if (s.pendAt (s.seatOf w e)).isSome then s else
    let s := { s with bas := { s.bas with pend := s.bas.pend ++ [({ logical := e, key := w } : Pend)] } }
    s.setFld R.BAS_PENDING_COUNT s.bas.pend.length

/-- A pending entry closed; replays of it that have not been handed over are given up, and the commits that waited for it are
made. -/
def State.closePend (s : State) (p : Nat × Nat) : State :=
  let s := { s with
    bas := { s.bas with pend := s.bas.pend.filter (fun x => s.seatOf x.key x.logical != p) }
    sward := { s.sward with reps := s.sward.reps.filter (fun r => s.seatOf r.key r.logical != p) } }
  (s.setFld R.BAS_PENDING_COUNT s.bas.pend.length).flushLate

/-- The first sweep to resolve of a channel-pass: from the one a pending entry names, where it names one of this channel-pass. -/
def SweepKey.from_ (w : SweepKey) (cp : Nat × Nat) : Option SweepKey := if cp = (w.pass, w.chan) then some w else none

/-- Everything pending of a logical slot, up to the last channel-pass begun, resolved without replay; in each pass it is what the
slot's logical engine of that pass held. -/
def State.zeroPending (s : State) (p : Nat × Nat) : State :=
  match s.pendAt p, s.sward.begun with
  | some x, some b =>
    ((s.cpsBetween (x.key.pass, x.key.chan) b).foldl (fun s cp =>
      match (s.cfgOfPass cp.1).xAt p with
      | some e => s.zeroCp p.1 (s.cfgOfPass cp.1) e cp.1 cp.2 (x.key.from_ cp)
      | none => s) s).closePend p
  | _, _ => s.closePend p

/-- The first sweep of a logical engine not committed when its bearer fails, where it has no buffer waiting: the sweep in progress
unless its buffer has passed, else the sweep that comes next. -/
def State.firstUndone (s : State) (c : Cfg) (e : Nat) : Option SweepKey :=
  match s.sward.sweep with
  | some w =>
    if (w, e) ∈ s.bas.done ∨ ((s.bas.cbs ++ s.bas.late).any (fun b => b.key == w && b.logical == e)) = true
    then (match c.succ w with | some x => some x | none => (s.passAfter w.pass).map (fun j => { pass := j, chan := 0, sub := 0, round := 0 }))
    else some w
  | none => s.sward.next

/-! ### Beam sets that fail (R241) -/

/-- The channel-pass in progress: of the sweep that runs, or between two sweeps of it. -/
def State.openSweep (s : State) : Option SweepKey :=
  match s.sward.sweep with
  | some w => some w
  | none => s.sward.next.bind (fun w => if w.sub = 0 ∧ w.round = 0 then none else some w)

/-- The beam sets of a B-side logical engine are invalid to the end of the channel-pass; the first such engine of a channel-pass has
it recorded. -/
def State.failBeams (s : State) (c : Cfg) (e : Nat) : State :=
  match s.openSweep with
  | none => s
  | some w =>
    let sets := c.setsOf (e - c.eX)
    if !c.beamed w.chan || sets.isEmpty then s else
      let first := s.beam.failSets.isEmpty
      let s := { s with beam := { s.beam with
        failSets := (s.beam.failSets ++ sets).eraseDups
        passFlags := s.beam.passFlags.put 0 w.pass (orBit (s.beam.passFlags.get 0 w.pass) 3)
        intFlags := s.beam.intFlags.put 0 (c.intOf w.pass) (orBit (s.beam.intFlags.get 0 (c.intOf w.pass)) 3) } }
      if first then (s.passError bmPg 0x12 w.pass w.chan).raise bmPg 4 else s

/-! ### Failure signs (R262 to R264, R273) -/

/-- A logical slot loses its bearer: the group is degraded (R273). -/
def State.orphanSlot (s : State) (g sl : Nat) : State :=
  let s := s.setFld (mapFld g sl) 15
  let s := (s.error (gsvPg g) 0x12 0 0 none).raise (gsvPg g) 6
  ({ s with sward := { s.sward with replanDue := true } }).zeroPending (g, sl)

/-- What a sign records of the engine's slot (R263). -/
def State.signMarks (s : State) (g sl cause : Nat) : State :=
  let s := s.addFld (R.GSV_HIST_FAILS g sl) 1
  let s := (s.setFld (R.GSV_HEALTH_LAST_CAUSE g sl) cause).setFld (R.GSV_HEALTH_FAILED g sl) 1
  ((s.setFld (R.GSV_STAT_SIGN g) 1).error (gsvPg g) 0x10 0 0 none).raise (gsvPg g) 0

/-- A pending entry for the oldest buffer of engine n that has not been collected (R196, R197). -/
def State.pendWaiting (s : State) (n : Nat) : State :=
  match (s.bas.copying.toList ++ s.bas.waiting).find? (fun b => b.phys == n && !b.replay) with
  | some b => s.openPend b.logical b.key
  | none => s

/-- What a sign leaves to be replayed, or invalid, of the logical engine its bearer n bore (R197, R241). -/
def State.signWork (s : State) (c : Cfg) (n : Nat) : Option Nat → State
  | none => s.pendWaiting n
  | some e =>
    let s := s.pendWaiting n
    if c.eX ≤ e then s.failBeams c e
    else match s.firstUndone c e with
      | some w => (match (s.cfgOfPass w.pass).xAt (c.position e) with | some x => s.openPend x w | none => s)
      | none => s

/-- The engine goes to FAILED (R191, R196, R263); a self-test that runs is stopped (R187). -/
def State.signEngine (s : State) (n : Nat) : State :=
  let testing := (s.eng n).testing
  let s := ((s.engineReset n).setFld (R.ENG_STAT_STATE n) esFailed).raise (engPg n) 1
  let s := if testing then s.setFld (R.ENG_STAT_ST_ABORTED n) 1 else s
  { s with bas := { s.bas with failed := if n ∈ s.bas.failed then s.bas.failed else n :: s.bas.failed } }

/-- The time of the sign, and what the slot bore. -/
def State.signTimes (s : State) (g sl : Nat) (bore : Nat) : State :=
  let x := s.gsv g
  s.setGsv g { x with lastSign := x.lastSign.put 0 sl s.ticks, bore := x.bore.put 0 sl bore }

/-- The logical slot l of a failed engine in slot sl: a takeover by the Fallow is scheduled, or it has no bearer (R264,
R265, R273). -/
def State.signBearer (s : State) (g sl l : Nat) (fallowOk : Bool) : State :=
  if fallowOk then s.setGsv g { s.gsv g with takeover := some (l, sl) } else s.orphanSlot g l

/-- A Fallow that fails while it is the spare: a takeover scheduled for it leaves that slot without a bearer (R264). -/
def State.signSpare (s : State) (g : Nat) : State :=
  let s := s.raise (gsvPg g) 7
  match (s.gsv g).takeover with
  | some (l, _) => (s.setGsv g { s.gsv g with takeover := none }).orphanSlot g l
  | none => s

/-- A failure sign of a cause for an engine n that is not dead. The slot that MAP gives the engine passes to the Fallow or is left
without a bearer whether or not a configuration assigns its logical engine (R265, R273); a Fallow that fails while it bears a
slot stays the group's Fallow, one that fails as the spare leaves the group without (R264, R270). DESIGN CHOICE: a second bearer of a
group that fails while a takeover is scheduled finds the Fallow taken, though it still reads STANDBY, and its slot loses its bearer
at once (R273 rather than R265). -/
def State.signLive (s : State) (n cause : Nat) : State :=
  let g := n / 9
  let sl := n % 9
  let c := s.passCfg
  let le := s.logicalOf c n
  let slot := (List.range 8).find? (fun l => s.fld (mapFld g l) == sl)
  let fallowOk := (s.spareSlot g).isSome && decide (s.spareSlot g ≠ some sl) && decide ((s.gsv g).takeover = none)
  let wasSpare := decide (s.spareSlot g = some sl)
  let s := (s.signMarks g sl cause).signWork c n le
  let s := s.signEngine n
  let s := match slot with
    | some l => (s.signTimes g sl (l + 1)).signBearer g sl l fallowOk
    | none => s.signTimes g sl 0
  let s := if wasSpare then (s.setGsv g { s.gsv g with fallow := none }).signSpare g else s
  s.refreshGroup g

/-- A failure sign of a cause for physical engine n (R262, R263). -/
def State.sign (s : State) (n cause : Nat) : State :=
  if s.nEngs ≤ n then s else
    let s := s.addFld (R.GSV_SIGNS (n / 9)) 1
    if s.engDead n then s else s.signLive n cause

/-- An engine's token of the channel-pass is missing (R262): the engine takes part in the sweep at whose end it sends one,
holds its credit again, and another active engine's token has been sent. -/
def State.tokenMissing (s : State) (n : Nat) : Bool :=
  match s.sward.sweep with
  | none => false
  | some w =>
    let c := s.cfgOfPass w.pass
    match (s.activeEngs c).find? (fun x => x.2 == n) with
    | none => false
    | some x =>
      decide (x.1 ∉ s.sward.tokens) && !s.sward.tokens.isEmpty && (s.eng n).credit && decide (w.sub + 1 = c.shape.d)
        && (if c.eX ≤ x.1 then c.beamed w.chan else decide (w.round + 1 = c.shape.nr))

/-- The effect of TOKEN_TIMEOUT: TOKEN_DL cycles have passed since an engine's token was due (R262). -/
def doTokenTimeout (n : Nat) (s : State) : State := if s.tokenMissing n then s.sign n 1 else s

/-- An engine has not finished a step that every other active engine has (R262): it takes part in a sweep of which a step has
begun and has not gone on to its drain or switch, or a reset has taken its staging. Every other active engine finishes a step as it is
taken, unless a reset has taken its staging too. -/
def State.stepMissing (s : State) (n : Nat) : Bool :=
  let as := s.activeEngs s.passCfg
  s.sward.sweep.isSome && as.any (fun x => x.2 == n) && !as.any (fun x => x.2 != n && (s.eng x.2).lost) &&
    ((s.eng n).lost || (decide (0 < s.sward.step) && decide ((s.eng n).phase = 1) && decide (s.fld (R.ENG_STAT_STATE n) ≠ esCredit)))

/-- The effect of STEP_TIMEOUT: STEP_DL cycles have passed since every other active engine finished the step (R262). -/
def doStepTimeout (n : Nat) (s : State) : State := if s.stepMissing n then s.sign n 2 else s

/-! ### Commands of GSV.CTL (R262, R269, R271) -/

/-- A command for the slot that CTL names, or CMD_BAD. -/
def State.gsvCmd (s : State) (g sl : Nat) (k : Nat → State → State) : State :=
  let s := s.setFld (R.GSV_CTL_SLOT g) sl
  if 8 < sl then s.setFld (R.GSV_STAT_CMD_BAD g) 1 else k (9 * g + sl) s

/-- The effect of GSV.CTL.FAIL. -/
def doFail (g sl : Nat) (s : State) : State := s.gsvCmd g sl (fun n s => s.sign n 7)

/-- The effect of GSV.CTL.UNLOCK: a LOCKED_OUT engine becomes FAILED, with its history of reverts cleared (R271); in any other
state the command is ignored. -/
def doUnlock (g sl : Nat) (s : State) : State :=
  s.gsvCmd g sl (fun n s =>
    if s.engBase n ≠ esLocked then s.setFld (R.GSV_STAT_CMD_BAD g) 1 else
      let s := ((s.setEngState n esFailed).setFld (R.GSV_HEALTH_PASS_RUN g sl) 0).setFld (R.GSV_HEALTH_REVERTS g sl) 0
      let s := s.setFld (R.GSV_HIST_LOCKED_OUT g sl) 0
      s.setGsv g { s.gsv g with reverts := (s.gsv g).reverts.put [] sl [] })

/-- UNLOCK. -/
def execUnlock (π : Path) (g sl : Nat) (s : State) : Host.Outcome State Fault Refusal :=
  .next (s.hostCmd π (0x150040 + 0x1000 * g) (doUnlock g sl))

/-! ### Self-tests (R186, R187, R269) -/

/-- A self-test starts, from the engine's present state. -/
def State.startTest (s : State) (n : Nat) : State :=
  let st := s.fld (R.ENG_STAT_STATE n)
  (s.setEng n { s.eng n with testing := true, testFrom := st }).setFld (R.ENG_STAT_STATE n) esTest

/-- ENG.CTL.SELFTEST, or the supervisor's order: started in IDLE, STANDBY or FAILED with no buffer out, else refused. -/
def doSelftest (n : Nat) (s : State) : State :=
  let st := s.fld (R.ENG_STAT_STATE n)
  if (st = esIdle ∨ st = esStandby ∨ st = esFailed) ∧ s.bit (R.ENG_STAT_BUF_FULL n) = false then s.startTest n
  else s.setFld (R.ENG_STAT_ST_REFUSED n) 1

/-- SELFTEST. -/
def execSelftest (π : Path) (n : Nat) (s : State) : Host.Outcome State Fault Refusal :=
  .next (s.hostCmd π (0x100040 + 0x1000 * n) (doSelftest n))

/-- The effect of GSV.CTL.RETEST; ignored unless the slot is FAILED or STANDBY. -/
def doRetest (g sl : Nat) (s : State) : State :=
  s.gsvCmd g sl (fun n s =>
    let st := s.fld (R.ENG_STAT_STATE n)
    if (st = esStandby ∨ st = esFailed) ∧ s.bit (R.ENG_STAT_BUF_FULL n) = false then s.startTest n
    else s.setFld (R.GSV_STAT_CMD_BAD g) 1)

/-- RETEST. -/
def execRetest (π : Path) (g sl : Nat) (s : State) : Host.Outcome State Fault Refusal :=
  .next (s.hostCmd π (0x150040 + 0x1000 * g) (doRetest g sl))

/-- The effect of SELFTEST_DONE: the result is shown and counted; a failure is a sign, a pass of a FAILED engine or of a
Fallow in STANDBY counts in PASS_RUN (R186, R269). DESIGN CHOICE: the test's own drain takes no injection that is armed (R188). -/
def doSelftestDone (n : Nat) (ok : Bool) (s : State) : State :=
  let e := s.eng n
  if !e.testing then s else
    let g := n / 9
    let sl := n % 9
    let s := (s.setEng n { e with testing := false, ctx := [], buf := [] }).setFld (R.ENG_STAT_STATE n) e.testFrom
    let s := (s.setBit (R.ENG_STAT_ST_PASS n) ok).setBit (R.ENG_STAT_ST_FAIL n) (!ok)
    let s := s.addFld (R.ENG_ST_CNT_RUNS n) 1
    let s := if ok then s else (s.addFld (R.ENG_ST_CNT_FAILS n) 1).error (engPg n) 0x10 0 0 none
    let s := s.raise (engPg n) 0
    if ok then
      (if e.testFrom = esFailed ∨ e.testFrom = esStandby then s.setFld (R.GSV_HEALTH_PASS_RUN g sl) (min 255 (s.fld (R.GSV_HEALTH_PASS_RUN g sl) + 1)) else s)
    else (s.setFld (R.GSV_HEALTH_PASS_RUN g sl) 0).sign n 5

/-- SELFTEST_DONE. -/
def execSelftestDone (n : Nat) (ok : Bool) (s : State) : Host.Outcome State Fault Refusal := .next (doSelftestDone n ok s)

end Sys2Proof.Machine
end

