-- ==== Sys2Proof/Machine/Beam.lean ====
section
/-! DEFINITION. The B side (spec/08): weights, beam samples and their validity, voltages, power bins, and the peak finder. -/

namespace Sys2Proof.Machine

def pkPg : Page := pg .pk

/-! ### Weights (R236 to R239) -/

/-- A device arm waits for a boundary at or before a frame (R239). -/
def State.devicePendingFor (s : State) (f : Nat) : Bool :=
  decide (s.fld (R.ARM_STATUS_STATE 0x160100) = 2) && after48 f (s.arms.pages.get {} 0x160000).due

/-- An arm of BM waits for the boundary at a frame, so that its shadow set is the one active there (R239): its own, or a device arm that
it has joined. -/
def State.bmPendingFor (s : State) (f : Nat) : Bool :=
  let a := s.arms.pages.get {} 0x161000
  decide (s.fld (R.ARM_STATUS_STATE 0x161180) = 2) && after48 f a.due &&
    (if decide (bmPg ∈ s.arms.parts) then s.devicePendingFor f else decide (a.level ≠ 2))

/-- The weight bank and the exponents in force for a pass, an arm that waits for its boundary included (R238, R239). -/
def State.wtBankOf (s : State) (f : Nat) : Nat :=
  if s.bmPendingFor f then s.fld R.BM_CFG_SH_WT_BANK else s.fldAt bmPg f R.BM_CFG_WT_BANK
def State.expOf (s : State) (f k : Nat) : Int :=
  let o := k / 4 * 4
  let word := if s.bmPendingFor f then s.tab (0x1220000 + o) else s.tabAt bmPg f (0x1230000 + o)
  sgn 6 (word / 2 ^ (8 * (k % 4)) % 64)

/-- A weight part, and whether its entry is bad (R237). -/
def wtPart (b : Byte) : Int := let v := sgn 8 b.toNat; if v = -128 then 0 else v
def wtBad (re im : Byte) : Bool := decide (re.toNat = 128) || decide (im.toNat = 128)

/-- The entries that the bytes of a row spell. -/
def wtEntries : List Byte → List ((Int × Int) × Bool)
  | re :: im :: t => ((wtPart re, wtPart im), wtBad re im) :: wtEntries t
  | _ => []

/-- A flag of R249 set for the pass and its integration. -/
def State.beamFlag (s : State) (c : Cfg) (pass bit : Nat) : State :=
  { s with beam := { s.beam with
    passFlags := s.beam.passFlags.put 0 pass (orBit (s.beam.passFlags.get 0 pass) bit)
    intFlags := s.beam.intFlags.put 0 (c.intOf pass) (orBit (s.beam.intFlags.get 0 (c.intOf pass)) bit) } }

/-- A flag of R249 set for a channel of the integration of a pass. -/
def State.beamChanFlag (s : State) (c : Cfg) (pass chan bit : Nat) : State :=
  let k := c.intOf pass * 2 ^ 24 + chan
  { s with beam := { s.beam with chanFlags := s.beam.chanFlags.put 0 k (orBit (s.beam.chanFlags.get 0 k) bit) } }

/-- One row of a unit read: the weights of a beam for an input group. -/
def State.readWtRow (s : State) (c : Cfg) (base pass chan β g : Nat) : (List (Int × Int) × Bool) × State :=
  let n := min 64 (c.nB - 64 * g)
  let (r, s) := s.readDram .beamw (base + 2 * (((chan - c.bChan0) * c.beams + β) * c.nB + 64 * g)) (2 * n)
  let es := wtEntries r.bytes
  let bad := (es.filter (fun x => x.2)).length
  let s := (List.range bad).foldl (fun s _ => (s.addFld R.BM_WT_BAD 1).passError bmPg 0x11 pass chan) s
  let s := if 0 < bad then s.beamFlag c pass 4 else s
  ((es.map (fun x => x.1), r.bad), s)

/-- A unit read that met poison (R237). -/
def State.wtPoison (s : State) (c : Cfg) (pass chan : Nat) : State :=
  (((s.setFld R.BM_STAT_WT_POISON 1).passError bmPg 0x10 pass chan).raise bmPg 3).beamFlag c pass 4

/-- One unit read: the rows of its beams. -/
def State.readUnit (s : State) (c : Cfg) (base pass chan μ : Nat) :
    (List ((Nat × Nat) × List (Int × Int)) × Bool) × State :=
  let set := μ / max 1 c.nbb
  let g := μ % max 1 c.nbb
  let βs := (List.range (min 128 (c.beams - 128 * set))).map (fun r => 128 * set + r)
  let (rows, bad, s) := βs.foldl (fun (a : List ((Nat × Nat) × List (Int × Int)) × Bool × State) β =>
    let (r, s) := a.2.2.readWtRow c base pass chan β g
    (((β, g), r.1) :: a.1, a.2.1 || r.2, s)) ([], false, s)
  ((rows, bad), if bad then s.wtPoison c pass chan else s)

/-- The weights of a beamformed channel-pass read in ascending logical engine order (R239). -/
def State.readWeights (s : State) (c : Cfg) (pass chan : Nat) : WtBank × State :=
  let f := c.passFrame pass
  let base := (if s.wtBankOf f = 0 then s.fld R.BM_BWT_BASE0 else s.fld R.BM_BWT_BASE1) * 4096
  let (rows, poison, s) := (List.range c.nUnits).foldl
    (fun (a : List ((Nat × Nat) × List (Int × Int)) × List Nat × State) μ =>
      let (r, s) := a.2.2.readUnit c base pass chan μ
      (r.1 ++ a.1, if r.2 then (μ / max 1 c.nbb) :: a.2.1 else a.2.1, s)) ([], [], s)
  let w := (List.range c.beams).flatMap (fun β => (List.range c.nbb).flatMap (fun g => (rows.lookup (β, g)).getD []))
  let exps := (List.range c.beams).map (fun β => s.expOf f ((chan - c.bChan0) * c.beams + β))
  (⟨pass, chan, w, exps, poison.eraseDups⟩, s)

/-- Pages whose shadow sets a device arm takes. -/
def partKind (parts : List Page) (k : PageKind) : Bool := parts.any (fun p => decide (p.kind = k))

/-- The configuration that a device arm would put in force; a re-plan changes E_x and E_b of the active one. -/
def State.armedCfg (s : State) : Cfg :=
  match s.arms.replan with
  | some (x, b) =>
    let c := s.buildCfg (fun _ => false)
    let c := { c with eX := x, eB := b }
    { c with shape := (shapeOf c.tLen c.nbX c.eX).getD {} }
  | none => s.buildCfg (partKind (xsPg :: s.arms.parts))

/-- The configuration that pass j will have, that of a device arm that waits for its boundary included (R239). -/
def State.loadCfg (s : State) (j : Nat) : Cfg :=
  let c := s.cfgOfPass j
  if s.devicePendingFor (c.passFrame j) then { s.armedCfg with f0 := c.passFrame j, pass0 := j } else c

/-- The first channel of a pass that is not over: of the pass in progress, that of its present or next sweep. -/
def State.chanNow (s : State) (j : Nat) : Nat :=
  if s.mere.pass ≠ some j then 0
  else match s.sward.sweep, s.sward.next with
    | some w, _ => w.chan
    | none, some w => w.chan
    | none, none => 0

/-- The first beamformed channel-pass of a pass that is not over. A pass is loaded no earlier than during the one before it (R239). -/
def State.firstBeam (s : State) (j : Nat) : Option (Nat × Nat) :=
  let c := s.loadCfg j
  let ch := max c.bChan0 (s.chanNow j)
  let soon := match s.mere.pass with | some q => decide (j ≤ q + 1) | none => decide (j ≤ s.mere.next)
  if soon = true ∧ 0 < c.eB ∧ ch < c.bChan0 + c.bChans then some (j, ch) else none

/-- The beamformed channel-pass after the one in the bank in use, or the first that is not over; no earlier pass than the one in
progress. -/
def State.nextBeam (s : State) : Option (Nat × Nat) :=
  let q := s.mere.pass.getD s.mere.next
  match s.beam.cur with
  | some b =>
    let c := s.cfgOfPass b.pass
    if b.chan + 1 < c.bChan0 + c.bChans ∧ q ≤ b.pass then some (b.pass, b.chan + 1)
    else match s.passAfter b.pass with
      | some p => s.firstBeam (max p q)
      | none => if b.pass < q then s.firstBeam q else none
  | none =>
    match s.firstBeam q with
    | some x => some x
    | none => (s.passAfter q).bind (fun p => s.firstBeam p)

/-- The bank in use holds no weights, or those of a channel-pass that ends or is over. -/
def State.oldBank (s : State) : Bool :=
  match s.beam.cur with
  | none => true
  | some b =>
    let before (j ch : Nat) : Bool := decide (b.pass < j) || (decide (b.pass = j) && decide (b.chan < ch))
    match s.sward.sweep, s.sward.next with
    | some w, _ => before w.pass (w.chan + 1)
    | none, some w => before w.pass w.chan
    | none, none => before s.mere.next 0

/-- The effect of WEIGHT_LOAD: the next beamformed channel is loaded into the free bank (R239). -/
def doWeightLoad (s : State) : State :=
  if s.beam.free.isSome || !s.running then s
  else match s.nextBeam with
    | none => s
    | some (pass, chan) =>
      let (b, s) := s.readWeights (s.loadCfg pass) pass chan
      let s := { s with beam := { s.beam with free := some b, loading := some (pass, chan) } }
      s.setFld R.BM_STAT_WL_BUSY 1

/-- WEIGHT_LOAD. -/
def execWeightLoad (s : State) : Host.Outcome State Fault Refusal := .next (doWeightLoad s)

/-- The effect of WEIGHT_LOAD_DONE: the reads in progress have ended. -/
def doWeightLoadDone (s : State) : State :=
  if s.beam.loading.isNone && !s.beam.reload then s
  else { s.setFld R.BM_STAT_WL_BUSY 0 with beam := { s.beam with loading := none, reload := false } }

/-- The units of a B-side logical engine e read again into a bank (R241, R270). -/
def State.readUnits (s : State) (b : WtBank) (c : Cfg) (e : Nat) : WtBank × State :=
  let base := (if s.wtBankOf (c.passFrame b.pass) = 0 then s.fld R.BM_BWT_BASE0 else s.fld R.BM_BWT_BASE1) * 4096
  let (rows, poison, s) := (c.unitsOf (e - c.eX)).foldl
    (fun (a : List ((Nat × Nat) × List (Int × Int)) × List Nat × State) μ =>
      let (r, s) := a.2.2.readUnit c base b.pass b.chan μ
      (r.1 ++ a.1, if r.2 then (μ / max 1 c.nbb) :: a.2.1 else a.2.1, s)) ([], [], s)
  let w := (List.range c.beams).flatMap (fun β => (List.range c.nbb).flatMap (fun g =>
    (rows.lookup (β, g)).getD ((b.w.drop (β * c.nB + 64 * g)).take (min 64 (c.nB - 64 * g)))))
  ({ b with w := w, poison := (poison ++ b.poison).eraseDups }, s.setFld R.BM_STAT_WL_BUSY 1)

/-- A bank into which the units of the B-side logical engine that physical engine n has taken up are read; none where it bears no such
engine in the bank's pass. -/
def State.reloadBank (s : State) (n : Nat) (b : WtBank) : Option (WtBank × State) :=
  let c := s.loadCfg b.pass
  match s.logicalOf c n with
  | some e => if c.eX ≤ e then some (s.readUnits b c e) else none
  | none => none

/-- The units of the B-side logical engine that physical engine n has taken up are read into the bank in use, unless what it holds is
over, and into the other bank where that has been loaded. -/
def State.reloadUnits (s : State) (n : Nat) : State :=
  let s := match (if s.oldBank then none else s.beam.cur).bind (s.reloadBank n) with
    | some (b, s) => { s with beam := { s.beam with cur := some b, reload := true } }
    | none => s
  match s.beam.free.bind (s.reloadBank n) with
  | some (b, s) => { s with beam := { s.beam with free := some b, reload := true } }
  | none => s

/-- The banks that hold weights of a pass that is skipped are free again, and a load of them ends. -/
def State.dropWeights (s : State) (j : Nat) : State :=
  let keep (o : Option WtBank) : Option WtBank := match o with | some b => if b.pass = j then none else some b | none => none
  let load := match s.beam.loading with | some x => if x.1 = j then none else some x | none => none
  let s := { s with beam := { s.beam with cur := keep s.beam.cur, free := keep s.beam.free, loading := load } }
  s.setBit R.BM_STAT_WL_BUSY (load.isSome || s.beam.reload)

/-- WEIGHT_LOAD_DONE. -/
def execWeightLoadDone (s : State) : Host.Outcome State Fault Refusal := .next (doWeightLoadDone s)

/-! ### Beam samples (R232, R236, R241) -/

/-- The two halves of a CPLX4 byte. -/
def cplx4 (b : Nat) : Int × Int := (sgn 4 (b / 16 % 16), sgn 4 (b % 16))

/-- The row of fine sample t and input group g of the sweep's channel-pass, and the tile's effective mask. -/
def State.rowAt (s : State) (t g : Nat) : List Byte × Nat :=
  match s.sward.staging.find? (fun x => x.tau == t / 32 && x.group == g) with
  | some x => (sliceBytes x.bytes (64 * (t % 32)) 64, x.mask)
  | none => (List.replicate 64 0, 0)

/-- The samples of inputs 0 to n − 1 at fine sample t, with their mask bits. -/
def State.samplesAt (s : State) (t n : Nat) : List ((Int × Int) × Bool) :=
  ((List.range (groupsOf n)).flatMap (fun g =>
    let r := s.rowAt t g
    (List.range 64).map (fun k => (cplx4 (r.1.getD k 0).toNat, r.2.testBit k)))).take n

/-- b = Σ W × x, and whether every contributing input is valid (R232, R236). -/
def beamOf (ws : List (Int × Int)) (xs : List ((Int × Int) × Bool)) : (Int × Int) × Bool :=
  (ws.zip xs).foldl (fun a p =>
    let w := p.1
    let x := p.2.1
    ((a.1.1 + (w.1 * x.1 - w.2 * x.2), a.1.2 + (w.1 * x.2 + w.2 * x.1)),
      a.2 && (decide (w = (0, 0)) || p.2.2))) ((0, 0), true)

/-- How a beam sample stands: 0 valid, or invalid with cause 1 MASK, 2 FAIL, 3 WT (R250). -/
def State.beamCause (s : State) (b : WtBank) (β : Nat) (maskOk : Bool) : Nat :=
  if !maskOk then 1 else if β / 128 ∈ s.beam.failSets then 2 else if β / 128 ∈ b.poison then 3 else 0

/-- The beam samples of the bank's channel at fine sample t: value, cause. -/
def State.beamsAt (s : State) (c : Cfg) (b : WtBank) (t : Nat) : List ((Int × Int) × Nat) :=
  let xs := s.samplesAt t c.nB
  (List.range c.beams).map (fun β =>
    let r := beamOf ((b.w.drop (β * c.nB)).take c.nB) xs
    (r.1, s.beamCause b β r.2))

/-- Counted in BSAMP and in exactly one other (R250), and flagged where invalid (R249). -/
def State.countBeams (s : State) (c : Cfg) (w : SweepKey) (bs : List ((Int × Int) × Nat)) : State :=
  let n (k : Nat) : Nat := (bs.filter (fun x => x.2 == k)).length
  let s := (s.addFld R.BM_BSAMP bs.length).addFld R.BM_BVALID (n 0)
  let s := ((s.addFld R.BM_BINVAL_MASK (n 1)).addFld R.BM_BINVAL_FAIL (n 2)).addFld R.BM_BINVAL_WT (n 3)
  if n 0 = bs.length then s
  else
    let s := { s with beam := { s.beam with
      passFlags := s.beam.passFlags.put 0 w.pass (orBit (s.beam.passFlags.get 0 w.pass) 1) } }
    s.beamChanFlag c w.pass w.chan 1

/-! ### Voltages (R242, R243) -/

/-- q of R242, and whether it clamped. -/
def bv8 (v exp : Int) : Int × Bool :=
  let q := rneInt v exp
  if q < -127 then (-127, true) else if 127 < q then (127, true) else (q, false)

/-- A beam sample as BV8: I + 256 × Q, and whether a part clamped. -/
def bv8Of (x : (Int × Int) × Nat) (exp : Int) : Nat × Bool :=
  if x.2 ≠ 0 then (128 + 256 * 128, false)
  else
    let i := bv8 x.1.1 exp
    let q := bv8 x.1.2 exp
    (unsgn 8 i.1 + 256 * unsgn 8 q.1, i.2 || q.2)

/-- The voltages of fine sample t kept for the sweep's half. -/
def State.keepVolts (s : State) (c : Cfg) (b : WtBank) (t : Nat) (bs : List ((Int × Int) × Nat)) : State :=
  if !c.bVolt then s else
    (bs.zip (b.exps.zipIdx)).foldl (fun s x =>
      let q := bv8Of x.1 x.2.1
      let s := { s with beam := { s.beam with volts := s.beam.volts.put 0 (x.2.2 * 2 ^ 21 + t) q.1 } }
      if q.2 then
        let s := s.addFld R.BM_VSAT 1
        { s with beam := { s.beam with passFlags := s.beam.passFlags.put 0 b.pass (orBit (s.beam.passFlags.get 0 b.pass) 0) } }
      else s) s

/-- The half of the voltage store that pass j writes (R243). -/
def Cfg.vHalf (c : Cfg) (j : Nat) : Nat := if j % 2 = 0 then c.bV0 else c.bV1

/-- The voltages of the sweep that ends written to DRAM. -/
def State.flushVolts (s : State) (c : Cfg) (w : SweepKey) : State :=
  let o := c.subOff w.sub
  let n := c.subLen w.sub
  let s := (List.range c.beams).foldl (fun s β =>
    let bs := (List.range n).flatMap (fun t => leBytes 2 (s.beam.volts.get 0 (β * 2 ^ 21 + (o + t))))
    (s.writeDram .drain (c.vHalf w.pass + 2 * (((w.chan - c.bChan0) * c.beams + β) * c.tLen + o)) bs).2) s
  { s with beam := { s.beam with volts := [] } }

/-- The half is free for pass j (R243). -/
def State.vHalfFree (s : State) (c : Cfg) (j : Nat) : Bool :=
  (match c.vFrom with | some p => decide (j < p + 2) | none => false) || decide (j - 2 ∈ s.beam.skipped)
    || decide (0 ≤ seqDiff 32 (s.fld R.BM_VREL_PASS) (c.shown (j - 2)))

/-! ### The peak finder (R251, R252) -/

/-- The order of binary32 data that are no NaN; both zeros are equal. -/
def f32Key (b : Nat) : Int := if b < 2 ^ 31 then (b : Int) else -((b - 2 ^ 31 : Nat) : Int)
def f32IsNan (b : Nat) : Bool := f32.decode b == .nan

/-- The rank of a value under a source: 0 BEAM, 1 AUTO. -/
def peakKey (src v : Nat) : Int := if src = 0 then f32Key v else (v : Int)

/-- A candidate ranks above another (R252). -/
def Peak.above (src : Nat) (a b : Peak) : Bool :=
  if peakKey src a.value ≠ peakKey src b.value then decide (peakKey src b.value < peakKey src a.value)
  else if a.who ≠ b.who then decide (a.who < b.who)
  else if a.chan ≠ b.chan then decide (a.chan < b.chan) else decide (a.time < b.time)

/-- A candidate put into a list in rank order. -/
def insertPeak (src : Nat) (p : Peak) : List Peak → List Peak
  | [] => [p]
  | q :: t => if p.above src q then p :: q :: t else q :: insertPeak src p t

/-- A candidate of a source examined in a pass (R251, R252, R254). -/
def State.candidatePeak (s : State) (c : Cfg) (pass src : Nat) (p : Peak) : State :=
  let f := c.passFrame pass
  if s.fldAt pkPg f R.PK_CFG_K = 0 ∨ s.fldAt pkPg f R.PK_CFG_SRC ≠ src then s
  else
    let th := s.fldAt pkPg f R.PK_THRESH_VALUE
    if p.weight = 0 ∨ (src = 0 ∧ f32IsNan p.value = true) ∨ peakKey src p.value < peakKey src th then s.addFld R.PK_EXCLUDED 1
    else
      let s := s.addFld R.PK_CANDIDATES 1
      let q := c.intOf pass
      { s with beam := { s.beam with peaks := s.beam.peaks.put [] q ((insertPeak src p (s.beam.peaks.get [] q)).take 16) } }

/-! ### Detected power (R245, R246) -/

/-- An integer times a power of two, exact. -/
def dyad (v : Int) (e : Int) : FVal := .fin (decide (v < 0)) v.natAbs e
def normSq (b : Int × Int) : Int := b.1 * b.1 + b.2 * b.2

/-- The terms of a record at one sample, rounded once each (R245). -/
def powTerms (c : Cfg) (bs : List ((Int × Int) × Nat)) (exps : List Int) (ρ : Nat) : List Nat :=
  let v (k : Nat) : Int × Int := ((bs[k]?).map (fun x => x.1)).getD (0, 0)
  let e (k : Nat) : Int := exps.getD k 0
  if c.bPow = 2 then
    let x := v (2 * ρ)
    let y := v (2 * ρ + 1)
    let px := dyad (normSq x) (2 * e (2 * ρ))
    let py := normSq y
    let ey := 2 * e (2 * ρ + 1)
    let exy := e (2 * ρ) + e (2 * ρ + 1)
    [f32.encode (px.add (dyad py ey)), f32.encode (px.add (dyad (-py) ey)),
      f32.encode (dyad (2 * (x.1 * y.1 + x.2 * y.2)) exy), f32.encode (dyad (2 * (x.2 * y.1 - x.1 * y.2)) exy)]
  else [f32.encode (dyad (normSq (v ρ)) (2 * e ρ))]

/-- A record's sample is valid: both beams of a Stokes pair (R245). -/
def recValid (c : Cfg) (bs : List ((Int × Int) × Nat)) (ρ : Nat) : Bool :=
  let ok (k : Nat) : Bool := match bs[k]? with | some x => x.2 == 0 | none => false
  if c.bPow = 2 then ok (2 * ρ) && ok (2 * ρ + 1) else ok ρ

/-- t_b of fine sample t of a pass. -/
def Cfg.binOf (c : Cfg) (pass t : Nat) : Nat :=
  (pass - c.pass0) % max 1 c.pEff * (c.tLen / max 1 c.lPt) + t / max 1 c.lPt

/-- The address of a power record (R246). -/
def Cfg.binAddr (c : Cfg) (seq chan tb ρ : Nat) : Nat :=
  (if seq % 2 = 0 then c.bP0 else c.bP1) + ((chan - c.bChan0) * c.nPt + tb) * c.nRec * c.recLen + ρ * c.recLen

/-- A term added to a component: plain first, compensated later (R246). -/
def binAdd (started : Bool) (z : Nat × Nat) (x : Nat) : Nat × Nat := if started then compAdd z.1 z.2 x else (x, 0)

/-- A component has become infinite or NaN. -/
def compBad (z : Nat × Nat) : Bool := !(f32.decode z.1).finite || !(f32.decode z.2).finite

/-- A complete bin record written, and its candidate examined (R246, R251). -/
def State.writeBin (s : State) (c : Cfg) (pass : Nat) (b : BinSt) : State :=
  let bytes := b.comps.flatMap (fun z => leBytes 4 z.1 ++ leBytes 4 z.2) ++ leBytes 4 b.weight
  let s := (s.writeDram .drain (c.binAddr b.seq b.chan b.tb b.recNo) bytes).2
  let z := b.comps.headD (0, 0)
  s.candidatePeak c pass 0 ⟨f32.addBits z.1 z.2, b.weight, if c.bPow = 2 then 2 * b.recNo else b.recNo, b.chan, b.tb⟩

/-- The open bin of a record, or a new one. -/
def State.binFor (s : State) (c : Cfg) (seq chan tb ρ : Nat) : BinSt :=
  (s.beam.bins.find? (fun b => b.seq == seq && b.chan == chan && b.tb == tb && b.recNo == ρ)).getD
    ⟨seq, chan, tb, ρ, List.replicate c.nComp (0, 0), false, 0, 0⟩

/-- A sample of a record goes by. -/
def State.binSample (s : State) (c : Cfg) (w : SweepKey) (t ρ : Nat) (valid : Bool) (terms : List Nat) : State :=
  let seq := c.intOf w.pass
  let b := s.binFor c seq w.chan (c.binOf w.pass t) ρ
  let rest := s.beam.bins.filter (fun x => !(x.seq == b.seq && x.chan == b.chan && x.tb == b.tb && x.recNo == b.recNo))
  let comps := if valid then List.zipWith (binAdd b.started) b.comps terms else b.comps
  let new := ((b.comps.zip comps).filter (fun z => !compBad z.1 && compBad z.2)).length
  let b := { b with comps := comps, started := b.started || valid, weight := b.weight + (if valid then 1 else 0), seen := b.seen + 1 }
  let s := if new = 0 then s else
    (List.range new).foldl (fun s _ => (s.addFld R.BM_PW_NONFINITE 1).passError bmPg 0x14 w.pass w.chan)
      (s.beamChanFlag c w.pass w.chan 5)
  if b.seen < c.lPt then { s with beam := { s.beam with bins := b :: rest } }
  else ({ s with beam := { s.beam with bins := rest } }).writeBin c w.pass b

/-- The power terms of fine sample t. -/
def State.powerAt (s : State) (c : Cfg) (b : WtBank) (w : SweepKey) (t : Nat) (bs : List ((Int × Int) × Nat)) : State :=
  if c.bPow = 0 then s else
    (List.range c.nRec).foldl (fun s ρ => s.binSample c w t ρ (recValid c bs ρ) (powTerms c bs b.exps ρ)) s

/-- The bank in use holds the weights of a channel-pass. -/
def State.bankIs (s : State) (w : SweepKey) : Bool :=
  match s.beam.cur with | some b => decide (b.pass = w.pass) && decide (b.chan = w.chan) | none => false

/-- The beam samples of fine sample t formed and delivered; with no engine that bears units and so no bank, every sample is
invalid with cause FAIL (R241, R273). -/
def State.beamSample (s : State) (c : Cfg) (w : SweepKey) (t : Nat) : State :=
  let none_ : WtBank := ⟨w.pass, w.chan, [], List.replicate c.beams 0, []⟩
  let b := if s.bankIs w then s.beam.cur.getD none_ else none_
  let bs := if s.bankIs w then s.beamsAt c b t else List.replicate c.beams ((0, 0), 2)
  ((s.countBeams c w bs).keepVolts c b t bs).powerAt c b w t bs

/-- The power bank that integration seq writes is still needed for channel ch of an earlier integration (R247). -/
def State.powHeld (s : State) (seq ch : Nat) : Bool :=
  (s.bas.fin ++ s.bas.ints).any (fun x => x.seq % 2 == seq % 2 && decide (x.seq < seq) && decide (0 < x.cfg.eB)
    && decide (x.cfg.bPow ≠ 0) && (decide (x.stage = 0) || (decide (x.stage = 1) && decide (x.cfg.bChan0 + x.ch ≤ ch))))

/-- A bin write of the sweep's channel waits for the finisher. -/
def State.binHeld (s : State) (c : Cfg) (w : SweepKey) : Bool := s.powHeld (c.intOf w.pass) w.chan

/-- The bins of a skipped pass: no valid sample (R246). Each record is a candidate of weight 0 (R251). -/
def State.writeZeroBins (s : State) (c : Cfg) (pass : Nat) : State :=
  let per := c.tLen / max 1 c.lPt
  let s := (List.range c.bChans).foldl (fun s i =>
    (s.writeDram .drain (c.binAddr (c.intOf pass) (c.bChan0 + i) (c.binOf pass 0) 0)
      (List.replicate (per * c.nRec * c.recLen) 0)).2) s
  let f := c.passFrame pass
  if s.fldAt pkPg f R.PK_CFG_K = 0 ∨ s.fldAt pkPg f R.PK_CFG_SRC ≠ 0 then s
  else s.addFld R.PK_EXCLUDED (c.bChans * per * c.nRec)

/-- The zero bins of a skipped pass are written once the finisher has left their bank (R247). -/
def State.zeroBins (s : State) (c : Cfg) (pass : Nat) : State :=
  if c.eB = 0 ∨ c.bPow = 0 then s
  else if (List.range c.bChans).any (fun i => s.powHeld (c.intOf pass) (c.bChan0 + i)) then
    ({ s with beam := { s.beam with zeroBinsLater := s.beam.zeroBinsLater ++ [pass] } }).finWait 0
  else s.writeZeroBins c pass

/-- The zero bins that no longer wait are written. -/
def State.flushBins (s : State) : State :=
  let l := s.beam.zeroBinsLater
  l.foldl (fun s j => s.zeroBins (s.cfgOfPass j) j) { s with beam := { s.beam with zeroBinsLater := [] } }

/-! ### VREL (R243) -/

/-- The effect of a write of BM.VREL. -/
def doVrelWrite (v : Nat) (s : State) : State := s.setFld R.BM_VREL_PASS v

/-- VREL_WRITE. -/
def execVrelWrite (π : Path) (v : Nat) (s : State) : Host.Outcome State Fault Refusal :=
  .next (s.hostCmd π 0x1610BC (doVrelWrite v))

end Sys2Proof.Machine
end

