-- ==== Sys2Proof/Machine/Sward.lean ====
section
/-! DEFINITION. The Sward (spec/06): sweeps and steps, the cell, drains, the B-side switch and the end of a sweep; the
commands of the supervisors that report failure signs. -/

namespace Sys2Proof.Machine

/-! ### Sweeps and steps (R170, R171) -/

/-- Steps of a sweep: T_d / S. -/
def Cfg.steps (c : Cfg) (δ : Nat) : Nat := c.subLen δ / max 1 c.shape.s

/-- The sample t_σ of step κ within the channel-pass. -/
def Cfg.stepSample (c : Cfg) (δ σ κ : Nat) : Nat := c.subOff δ + σ * c.steps δ + κ

/-- A B-mode engine works in a sweep: round 0 of a beamformed channel (R176, R230). -/
def Cfg.bSweep (c : Cfg) (w : SweepKey) : Bool := decide (w.round = 0) && c.beamed w.chan

/-- Every row of the step lies in the staging of every active engine: in the reader's, and none has lost its own (R175, R182). -/
def State.stepStaged (s : State) (c : Cfg) (w : SweepKey) : Bool :=
  !(s.activeEngs c).any (fun x => (s.eng x.2).lost) && (List.range c.shape.s).all (fun σ => (List.range c.nb).all (fun g =>
    s.sward.staging.any (fun x => x.tau == c.stepSample w.sub σ s.sward.step / 32 && x.group == g)))

/-! ### The end of a sweep and of a pass (R156, R180) -/

/-- MERE.SLACK of a pass that took some cycles (R156). -/
def slackOf (budget cycles : Nat) : Nat :=
  let v := ((budget : Int) - cycles) / 16
  unsgn 32 (max (-(2 : Int) ^ 31) (min (2 ^ 31 - 1) v))

/-- The tiles that no pass has read are given up as the run ends (R158). -/
def State.giveUpTiles (s : State) : State :=
  let s := (s.addFld R.MERE_DISC_STOP (s.fld R.MERE_RESIDENT)).setFld R.MERE_RESIDENT 0
  { s.setFld R.XS_STAT_RUN 0 with mere := { s.mere with resident := [], closed := [] } }

/-- The weights of passes of the run that ends leave their banks. -/
def State.dropBanks (s : State) (j : Nat) : State :=
  let keep (o : Option WtBank) : Option WtBank := o.bind (fun b => if b.pass < j then none else some b)
  let load := s.beam.loading.bind (fun x => if x.1 < j then none else some x)
  ({ s with beam := { s.beam with cur := keep s.beam.cur, free := keep s.beam.free, loading := load, reload := false } }).setBit
    R.BM_STAT_WL_BUSY load.isSome

/-- A run is over: what its passes have left unread is given up (R158), RUN_STOPPED raised (R190). A run that an arm has started
in the meantime begins with its first pass. -/
def State.endRun (s : State) (e : RunEnd) : State :=
  let s := match s.runFrom e.pass with
    | some c => { s with mere := { s.mere with next := c.base } }
    | none => { s.giveUpTiles with mere := { s.giveUpTiles.mere with next := e.pass } }
  let ends := s.sward.ends.map (fun (x : RunEnd) => if x.pass = e.pass then { x with past := true } else x)
  let s := ({ s with sward := { s.sward with next := none, staging := [], ends := ends } }).dropBanks e.pass
  let s := (s.activeEngs (s.cfgOfPass (e.pass - 1))).foldl (fun s x => s.setEngState x.2 esIdle) s
  (s.info xsPg 0xE2 none e.last 0 0 0).raise xsPg 2

/-- A run whose stop is known ends once its last pass is done or skipped. -/
def State.checkRunEnd (s : State) : State :=
  s.sward.ends.foldl (fun s e => if !e.past && s.mere.pass.isNone && decide (e.pass ≤ s.mere.next) then s.endRun e else s) s

/-- The pass in progress is complete. -/
def State.endPass (s : State) (c : Cfg) (j : Nat) : State :=
  let s := (s.addFld R.XS_PASSES 1).setFld R.MERE_SLACK (slackOf c.budget s.sward.cycles)
  let s := ((s.setFld R.XS_STAT_PASS_ACTIVE 0).setFld R.MERE_STAT_RUNNING 0).setFld R.BM_STAT_B_RUN 0
  let s := { s with mere := { s.mere with pass := none, next := j + 1 } }
  (s.raise xsPg 3).checkRunEnd

/-- What the combiner does when a round-0 sweep of a beamformed channel is over (R243, R244). -/
def State.endBeams (s : State) (c : Cfg) (w : SweepKey) : State :=
  if !c.bSweep w || !c.bVolt then s else
    let s := s.flushVolts c w
    if w.chan + 1 = c.bChan0 + c.bChans ∧ w.sub + 1 = c.shape.d then
      { s with beam := { s.beam with notices := s.beam.notices ++ [(w.pass, false)] } }
    else s

/-- The cycles between the last MAC cycle of a sweep and the next one's first, where credit waits add `stall` to the drain and waits for
weights `wl` to the B-side switch (R179, R180, R240). -/
def Cfg.switchCycles (c : Cfg) (w : SweepKey) (stall wl : Nat) : Nat :=
  max (if 0 < c.eX then 1088 + stall else 0) (if c.bSweep w then 96 + wl else 0)

/-- The credit wait of the slowest X-mode engine (R180). -/
def State.slowest (s : State) (c : Cfg) : Nat :=
  ((s.activeEngs c).filter (fun x => decide (x.1 < c.eX))).foldl (fun m x => max m (s.eng x.2).waited) 0

/-- Every active engine has finished the sweep: the engines are between sweeps. -/
def State.endSweep (s : State) (c : Cfg) (w : SweepKey) : State :=
  let t := c.switchCycles w (s.slowest c) s.sward.wl
  let s := (s.endBeams c w).addFld R.XS_SWEEPS 1
  let nxt := c.succ w
  let s := { s with
    sward := { s.sward with sweep := none, step := 0, staging := [], next := nxt, cycles := s.sward.cycles + t
                            stall := t - c.switchCycles w 0 s.sward.wl, wl := 0 }
    beam := { s.beam with failSets := if (nxt.map (fun (x : SweepKey) => x.chan)) = some w.chan then s.beam.failSets else [] } }
  let s := s.setFld R.XS_STAT_SWITCHING 1
  if nxt.isNone then s.endPass c w.pass else s

/-- The sweep ends once its steps are over and no active engine is left in it (R175, R180, R263). -/
def State.settle (s : State) : State :=
  match s.sward.sweep with
  | none => s
  | some w =>
    let c := s.cfgOfPass w.pass
    if s.sward.step = c.steps w.sub ∧ (s.activeEngs c).all (fun x => decide ((s.eng x.2).phase = 3)) = true then s.endSweep c w else s

/-! ### SWEEP_START (R180) -/

/-- An active engine takes up a sweep. -/
def State.engageSweep (s : State) (c : Cfg) (w : SweepKey) (e n : Nat) : State :=
  let works := decide (e < c.eX) || c.bSweep w
  let s := s.setEngState n (if e < c.eX then esXRun else esBRun)
  let s := s.setEng n { s.eng n with phase := if works then 1 else 3, lost := false, waited := 0 }
  let s := ((s.setFld (R.ENG_CUR_PASS n) (c.shown w.pass)).setFld (R.ENG_CUR_CH_CH n) w.chan).setFld (R.ENG_CUR_CH_SUBPASS n) w.sub
  (s.setFld (R.ENG_CUR_STEP_ROUND n) w.round).setFld (R.ENG_CUR_STEP_STEP n) 0

/-- A channel-pass begins: the last one begun is named, and what no engine bears is resolved without replay (R266,
R273); what a failed engine would have borne is pending until its takeover (R197, R266); the beam samples of a B-side logical engine
whose bearer has failed are invalid (R241). -/
def State.beginChan (s : State) (c : Cfg) (w : SweepKey) : State :=
  if w.sub ≠ 0 ∨ w.round ≠ 0 then s else
    let s := { s with
      sward := { s.sward with begun := some (w.pass, w.chan), tokens := [] }
      bas := { s.bas with begun := s.bas.begun ++ [(w.pass, w.chan)] } }
    let as := s.activeEngs c
    let s := (s.orphans c).foldl (fun s e => if e < c.eX then s.zeroCp (c.position e).1 c e w.pass w.chan none else s) s
    let s := (List.range c.eX).foldl (fun s e => if (s.bearer c e).any (fun n => s.engDead n) then s.openPend e w else s) s
    (List.range c.eB).foldl (fun s i => if as.any (fun x => x.1 == c.eX + i) then s else s.failBeams c (c.eX + i)) s

/-- The stall that a slow credit adds to a switch (R180): no less than what the engines' waits have made of it, which the pass has taken
already (R156). -/
def State.stallSwitch (s : State) (w : SweepKey) (stall : Nat) : State :=
  let t := max stall s.sward.stall
  if t = 0 then s else
    let s := (s.addFld R.XS_SWITCH_STALL t).setFld R.XS_STAT_STALLED 1
    let s := { s with sward := { s.sward with cycles := s.sward.cycles + (t - s.sward.stall) } }
    (s.passError xsPg 0x10 w.pass w.chan).raise xsPg 4

/-- The weights that a sweep needs are in the bank in use (R240). -/
def State.weightsReady (s : State) (c : Cfg) (w : SweepKey) : Bool :=
  !c.bSweep w || !((s.activeEngs c).any (fun x => decide (c.eX ≤ x.1)))
    || (s.bankIs w && !s.beam.reload)

/-- A sweep begins on every active engine (R180): what its start sets. -/
def State.beginSweep (s : State) (c : Cfg) (w : SweepKey) (stall : Nat) : State :=
  let s := s.stallSwitch w stall
  let s : State := { s with sward := { s.sward with
    sweep := some w, step := 0, staging := [], replayed := [], reread := [], stall := 0, wl := 0 } }
  let s := s.beginChan c w
  let s := (s.activeEngs c).foldl (fun s x => s.engageSweep c w x.1 x.2) s
  let s := ((s.setFld R.XS_CUR_CH w.chan).setFld R.XS_CUR_SUBPASS w.sub).setFld R.XS_CUR_RND_ROUND w.round
  let s := (List.range s.nGroups).foldl (fun s g => s.setFld (R.GSV_STAT_REPLAYING g) 0) s
  (s.setFld R.XS_STAT_SWITCHING 0).setBit R.BM_STAT_B_RUN (c.bSweep w)

/-- The next sweep of the pass, once the engines are ready for it and no replay is in progress (R268). -/
def State.trySweep (s : State) (stall : Nat) : State :=
  match s.mere.pass, s.sward.sweep, s.sward.next with
  | some j, none, some w =>
    if s.sward.reps.isEmpty && s.weightsReady (s.cfgOfPass j) w then s.beginSweep (s.cfgOfPass j) w stall else s
  | _, _, _ => s

/-- The effect of SWEEP_START, with the cycles that the slowest engine's credit wait adds. -/
def doSweepStart (stall : Nat) (s : State) : State := s.settle.trySweep stall

/-- SWEEP_START. -/
def execSweepStart (stall : Nat) (s : State) : Host.Outcome State Fault Refusal := .next (doSweepStart stall s)

/-! ### The cell (R165 to R167) -/

/-- x_i · conj(x_k) added to a context at every cell of a half. -/
def outerAdd (acc : List (Int × Int)) (rows cols : List (Int × Int)) : List (Int × Int) :=
  let z := if acc.isEmpty then List.replicate 4096 (0, 0) else acc
  List.zipWith (fun a (p : Int × Int) => (a.1 + p.1, a.2 + p.2)) z
    (rows.flatMap (fun x => cols.map (fun y => (x.1 * y.1 + x.2 * y.2, x.2 * y.1 - x.1 * y.2))))

/-- The samples of an input group at fine sample t. -/
def State.groupAt (s : State) (t g : Nat) : List (Int × Int) := (s.rowAt t g).1.map (fun b => cplx4 b.toNat)

/-- One context of a placement at step κ: a whole block takes every slice's sample, a slice its own. -/
def State.stepPlace (s : State) (c : Cfg) (w : SweepKey) (κ : Nat) (ctx : SMap (List (Int × Int))) (p : Place) : SMap (List (Int × Int)) :=
  let k := 2 * p.ctx + p.half
  let pq := blockPQ c.nbX p.block
  let σs := if p.sliced then [p.slice] else List.range c.shape.s
  ctx.put [] k (σs.foldl (fun a σ =>
    let t := c.stepSample w.sub σ κ
    outerAdd a (s.groupAt t pq.1) (s.groupAt t pq.2)) (ctx.get [] k))

/-- An X-mode engine does a step. -/
def State.stepX (s : State) (c : Cfg) (w : SweepKey) (κ e n : Nat) : State :=
  let x := s.eng n
  s.setEng n { x with ctx := (c.places w.round w.pass e).foldl (fun m p => s.stepPlace c w κ m p) x.ctx }

/-! ### STEP_START (R175) -/

/-- The MAC cycles of an X-mode engine and of a B-mode engine in a step (R171, R232). -/
def Cfg.xCycles (c : Cfg) (w : SweepKey) : Nat :=
  let n := roundBlocks c.shape.nblk c.shape.nr w.round
  wOf n c.eX * c.shape.s + uOf n c.eX c.shape.s
def Cfg.bCycles (c : Cfg) (e : Nat) : Nat := c.shape.s * (2 * (c.unitsOf (e - c.eX)).length)

/-- A step lasts as long as its slowest engine (R234). -/
def State.stepCycles (s : State) (c : Cfg) (w : SweepKey) : Nat :=
  let as := s.activeEngs c
  max (if as.any (fun x => decide (x.1 < c.eX)) then c.xCycles w else 0)
    (if c.bSweep w && as.any (fun x => decide (c.eX ≤ x.1)) then c.shape.s * c.cB else 0)

/-- The X-mode engines wait some cycles for a step. -/
def State.starve (s : State) (c : Cfg) (w : SweepKey) (wait : Nat) : State :=
  if wait = 0 then s else
    let s := { s with sward := { s.sward with cycles := s.sward.cycles + wait } }
    let xs := (s.activeEngs c).filter (fun x => decide (x.1 < c.eX))
    if xs.isEmpty then s else
      let s := xs.foldl (fun s x => s.addFld (R.ENG_CYC_STARVE x.2) wait) s
      let s := (s.addFld R.XS_STARVE wait).setFld R.XS_STAT_STARVED 1
      (s.passError xsPg 0x11 w.pass w.chan).raise xsPg 4

/-- The step is the first of the pass's first beamformed channel (R243). -/
def State.firstVoltStep (s : State) (c : Cfg) (w : SweepKey) : Bool :=
  c.bSweep w && c.bVolt && decide (w.chan = c.bChan0) && decide (w.sub = 0) && decide (s.sward.step = 0)

/-- The step waits for a voltage half. -/
def State.vWait (s : State) (c : Cfg) (w : SweepKey) (wait : Nat) : State :=
  let s := s.addFld R.BM_VWAIT_CYC wait
  let s := if s.bit R.BM_STAT_VWAITING then s else (s.setFld R.BM_STAT_VWAITING 1).raise bmPg 2
  let s := (s.activeEngs c).foldl (fun s x => if x.1 < c.eX then s.setFld (R.ENG_STAT_STATE x.2) esStarve else s) s
  s.starve c w wait

/-- A half that is not free is written (R243). -/
def State.vOverwrite (s : State) (w : SweepKey) : State :=
  (((s.addFld R.BM_VOVERWRITE 1).setFld R.BM_STAT_VOVERWRITE 1).passError bmPg 0x13 w.pass w.chan).raise bmPg 5

/-- A bin is complete at the end of the step. -/
def State.stepEndsBin (s : State) (c : Cfg) (w : SweepKey) : Bool :=
  c.bSweep w && decide (c.bPow ≠ 0) &&
    (List.range c.shape.s).any (fun σ => decide ((c.stepSample w.sub σ s.sward.step + 1) % max 1 c.lPt = 0))

/-- The step runs on every active engine. DESIGN CHOICE: ENG.CYC_MAC of an X-mode engine counts every cycle of the step, those in which
none of its halves holds a unit among them (R171). -/
def State.runStep (s : State) (c : Cfg) (w : SweepKey) : State :=
  let κ := s.sward.step
  let as := s.activeEngs c
  let s := { s with sward := { s.sward with cycles := s.sward.cycles + s.stepCycles c w } }
  let s := as.foldl (fun s x =>
    if x.1 < c.eX then
      (((s.stepX c w κ x.1 x.2).addFld (R.ENG_CYC_MAC x.2) (c.xCycles w)).setFld (R.ENG_CUR_STEP_STEP x.2) κ).setFld (R.ENG_STAT_STATE x.2) esXRun
    else if c.bSweep w then (s.addFld (R.ENG_CYC_MAC x.2) (c.bCycles x.1)).setFld (R.ENG_CUR_STEP_STEP x.2) κ else s) s
  let s := if c.bSweep w then (List.range c.shape.s).foldl (fun s σ => s.beamSample c w (c.stepSample w.sub σ κ)) s else s
  let t0 := c.subOff w.sub / 32
  let per := c.steps w.sub / 32
  { s with sward := { s.sward with
    step := κ + 1
    staging := s.sward.staging.filter (fun x => decide ((κ + 1) / 32 ≤ (x.tau - t0) % max 1 per)) } }

/-- The effect of STEP_START, with the cycles that the engines have waited for it. -/
def doStepStart (wait : Nat) (s : State) : State :=
  match s.sward.sweep with
  | none => s
  | some w =>
    let c := s.cfgOfPass w.pass
    if c.steps w.sub ≤ s.sward.step ∨ s.stepStaged c w = false then s
    else if s.firstVoltStep c w && !s.vHalfFree c w.pass && decide (c.bVrel = 0) then s.vWait c w wait
    else if s.stepEndsBin c w && s.binHeld c w then (s.finWait wait).starve c w wait
    else
      let s := if s.firstVoltStep c w && !s.vHalfFree c w.pass then s.vOverwrite w else s
      let s := if c.bSweep w then (s.setFld R.BM_STAT_VWAITING 0).finWaitOver else s
      ((s.starve c w wait).runStep c w).settle

/-- STEP_START. -/
def execStepStart (wait : Nat) (s : State) : Host.Outcome State Fault Refusal := .next (doStepStart wait s)

/-! ### Drain buffers (R183, R184) -/

/-- 24-bit two's complement, least significant byte first. -/
def le24 (v : Int) : List Byte := leBytes 3 (unsgn 24 v)

/-- The 24,576 bytes of a record. -/
def recordBytes (vals : List (Int × Int)) : List Byte := vals.flatMap (fun v => le24 v.1 ++ le24 v.2)

/-- A record descriptor. -/
def recordDesc (c : Cfg) (δ : Nat) (p : Place) : List Byte :=
  let pq := blockPQ c.nbX p.block
  leBytes 4 (p.block + 4096 * p.slice + (if p.sliced then 65536 else 0) + (if pq.1 = pq.2 then 131072 else 0)
    + 262144 * p.half + 524288 * p.ctx) ++
  leBytes 4 (if p.sliced then c.subLen δ / c.shape.s else c.subLen δ)

/-- Bytes 0 to 59 of the header. -/
def drainHeader (c : Cfg) (w : SweepKey) (e n nrec : Nat) (replay : Bool) : List Byte :=
  leBytes 4 (c.shown w.pass) ++ leBytes 4 (w.chan + w.sub * 2 ^ 24) ++
  [BitVec.ofNat 8 w.round, BitVec.ofNat 8 (e + if replay then 128 else 0), BitVec.ofNat 8 n, BitVec.ofNat 8 nrec,
   BitVec.ofNat 8 (Nat.log2 c.shape.s), 0, 0, 0] ++
  leBytes 4 (c.subLen w.sub) ++ leBytes 4 (c.subOff w.sub) ++ leBytes 6 (c.passFrame w.pass) ++ List.replicate 30 0

/-- Bytes 64 to 511: the descriptors. DESIGN CHOICE: the bytes after the last descriptor are 0. -/
def drainDescs (c : Cfg) (w : SweepKey) (ps : List Place) : List Byte :=
  let d := ps.flatMap (recordDesc c w.sub)
  d ++ List.replicate (448 - d.length) 0

/-- A value of the products of a readout. -/
abbrev Sums := SMap (List (Int × Int))

/-- The products of a placement in the contexts of an engine. -/
def sumsOf (ctx : Sums) (p : Place) : List (Int × Int) :=
  let v := ctx.get [] (2 * p.ctx + p.half)
  if v.isEmpty then List.replicate 4096 (0, 0) else v

/-- A drain buffer: header and descriptors, and the records as read out; `crcData` is what the CRC is taken over. -/
def drainBuffer (c : Cfg) (w : SweepKey) (e n : Nat) (replay : Bool) (ps : List Place) (data crcData : List Byte) : List Byte :=
  let h := drainHeader c w e n ps.length replay
  let d := drainDescs c w ps
  h ++ leBytes 4 (crc32c (h ++ d ++ crcData)) ++ d ++ data

/-- A bit of a 24-bit number inverted. -/
def flip24 (v : Int) (b : Nat) : Int :=
  let u := unsgn 24 v
  sgn 24 (putBit u b (!u.testBit b))

/-- The placement that an armed injection takes effect in (R188): its context and half hold an assigned record; a
reserved SLOT qualifies with any readout. -/
def State.injects (s : State) (n : Nat) (ps : List Place) : Bool :=
  let sl := s.fld (R.ENG_INJECT_SLOT n)
  s.bit (R.ENG_INJECT_ARM n) && (decide (18 ≤ sl) || ps.any (fun p => p.ctx == sl && p.half == s.fld (R.ENG_INJECT_ROW n) / 64))

/-- The contexts with the injection's bit inverted. -/
def State.injected (s : State) (n : Nat) (ctx : Sums) : Sums :=
  let sl := s.fld (R.ENG_INJECT_SLOT n)
  let b := s.fld (R.ENG_INJECT_BIT n)
  let row := s.fld (R.ENG_INJECT_ROW n)
  if 18 ≤ sl ∨ 24 ≤ b then ctx
  else
    let k := 2 * sl + row / 64
    let v := ctx.get [] k
    let v := if v.isEmpty then List.replicate 4096 ((0, 0) : Int × Int) else v
    let i := row % 64 * 64 + s.fld (R.ENG_INJECT_COL n)
    ctx.put [] k (v.mapIdx (fun m z => if m = i then (if s.bit (R.ENG_INJECT_IM n) then (z.1, flip24 z.2 b) else (flip24 z.1 b, z.2)) else z))

/-- The readout of an engine's contexts into a buffer (R179 steps 3 and 4). -/
def State.readout (s : State) (c : Cfg) (w : SweepKey) (e n : Nat) (replay : Bool) (ctx : Sums) : List Byte × State :=
  let ps := c.places w.round w.pass e
  let bytes (m : Sums) : List Byte := ps.flatMap (fun p => recordBytes (sumsOf m p))
  if s.injects n ps then
    let m := s.injected n ctx
    let after := s.bit (R.ENG_INJECT_AFTER_CRC n)
    let s := ((s.setFld (R.ENG_INJECT_ARM n) 0).setFld (R.ENG_STAT_INJ_DONE n) 1).raise (engPg n) 2
    (drainBuffer c w e n replay ps (bytes m) (bytes (if after then ctx else m)), s)
  else (drainBuffer c w e n replay ps (bytes ctx) (bytes ctx), s)

/-! ### Context records (R261) -/

/-- Bytes 0 to 59 of a context record. DESIGN CHOICE: its fields in the order of R261, four bytes each, least significant byte first,
and zeros; the CRC-32C over them fills the 64 bytes. -/
def CtxRec.bytes (r : CtxRec) : List Byte :=
  [r.pass, r.nextChan, r.logical, r.mode, r.pi, r.s, r.w, r.u, r.nr, r.d, r.first, r.wtBank, r.nextUnit].flatMap (leBytes 4) ++
  List.replicate 8 0

/-- The context record of a logical engine at the end of a channel-pass. -/
def State.ctxRec (s : State) (c : Cfg) (w : SweepKey) (e : Nat) : CtxRec :=
  let n0 := roundBlocks c.shape.nblk c.shape.nr 0
  let x := decide (e < c.eX)
  let unit := (e - c.eX) * c.uE
  let r : CtxRec :=
   { slot := (c.position e).2, pass := c.shown w.pass, nextChan := if w.chan + 1 < c.cFine then w.chan + 1 else 0
     logical := e, mode := if x then 0 else 1, pi := c.shown w.pass % max 1 (2 * c.eX), s := c.shape.s, w := wOf n0 c.eX
     u := uOf n0 c.eX c.shape.s, nr := c.shape.nr, d := c.shape.d
     first := if x then (((c.places 0 w.pass e).head?).map (fun p => p.ctx)).getD 0 else unit
     wtBank := s.wtBankOf (c.passFrame w.pass), nextUnit := unit, crc := 0 }
  { r with crc := crc32c r.bytes }

/-- The record of a logical engine that ends a channel-pass goes to its group's Fallow, and its token to the supervisor (R261,
R262). -/
def State.sendRecord (s : State) (c : Cfg) (w : SweepKey) (e : Nat) : State :=
  let p := c.position e
  let x := s.gsv p.1
  let s := { s with sward := { s.sward with tokens := e :: s.sward.tokens } }
  s.setGsv p.1 { x with recs := s.ctxRec c w e :: x.recs.filter (fun y => y.slot != p.2) }

/-- The sweep is the last of its channel-pass. -/
def Cfg.lastSweep (c : Cfg) (w : SweepKey) : Bool := decide (w.sub + 1 = c.shape.d) && decide (w.round + 1 = c.shape.nr)

/-! ### DRAIN_START and BUFFER_HANDOVER (R179, R181) -/

/-- The steps of the sweep are over. -/
def State.stepsOver (s : State) (c : Cfg) (w : SweepKey) : Bool := decide (s.sward.step = c.steps w.sub)

/-- An engine that holds its credit reads out, or passes the drain with no records (R179, R181). -/
def State.drainEngine (s : State) (c : Cfg) (w : SweepKey) (e n wait : Nat) : State :=
  let s := s.addFld (R.ENG_CYC_CREDIT n) wait
  let s := s.setEng n { s.eng n with waited := (s.eng n).waited + wait }
  if !(s.eng n).credit then s.setFld (R.ENG_STAT_STATE n) esCredit
  else
    let s := s.setFld (R.ENG_STAT_STATE n) esDrain
    if (c.places w.round w.pass e).isEmpty then
      let s := (s.addFld (R.ENG_CYC_DRAIN n) 1088).setEng n { s.eng n with ctx := [], phase := 3 }
      (if c.lastSweep w then s.sendRecord c w e else s).settle
    else
      let (b, s) := s.readout c w e n false (s.eng n).ctx
      s.setEng n { s.eng n with ctx := [], buf := b, phase := 2 }

/-- The effect of DRAIN_START on physical engine n, with the cycles it has waited for its credit. -/
def doDrainStart (n wait : Nat) (s : State) : State :=
  match s.sward.sweep with
  | none => s
  | some w =>
    let c := s.cfgOfPass w.pass
    match (s.activeEngs c).find? (fun x => x.2 == n) with
    | none => s
    | some x => if s.stepsOver c w && decide (x.1 < c.eX) && decide ((s.eng n).phase = 1) then s.drainEngine c w x.1 n wait else s

/-- DRAIN_START. -/
def execDrainStart (n wait : Nat) (s : State) : Host.Outcome State Fault Refusal := .next (doDrainStart n wait s)

/-- A full buffer goes to the Basin, and the credit is spent (R178, R192, R227). -/
def State.handBuffer (s : State) (c : Cfg) (w : SweepKey) (e n : Nat) (replay : Bool) (bytes : List Byte) : State :=
  let s := (s.setFld (R.ENG_DRAIN_CRC n) (leAt bytes 60 4)).setFld (R.ENG_DRAIN_REC_NREC n) (c.places w.round w.pass e).length
  let s := ((s.addFld (R.ENG_DRAINS n) 1).addFld (R.ENG_CYC_DRAIN n) 1088).setFld (R.ENG_STAT_BUF_FULL n) 1
  let s := s.setEng n { s.eng n with buf := [], credit := false, phase := 3 }
  let s := (s.addFld R.BAS_CR_ISSUED 1).addFld R.BAS_CR_OUT 1
  { s with bas := { s.bas with waiting := s.bas.waiting ++ [⟨w, e, n, replay, bytes⟩] } }

/-- The effect of BUFFER_HANDOVER. -/
def doBufferHandover (n : Nat) (s : State) : State :=
  match s.sward.sweep with
  | none => s
  | some w =>
    let c := s.cfgOfPass w.pass
    match (s.activeEngs c).find? (fun x => x.2 == n) with
    | none => s
    | some x =>
      if x.1 < c.eX ∧ (s.eng n).phase = 2 then
        let s := s.handBuffer c w x.1 n false (s.eng n).buf
        (if c.lastSweep w then s.sendRecord c w x.1 else s).settle
      else s

/-- BUFFER_HANDOVER. -/
def execBufferHandover (n : Nat) (s : State) : Host.Outcome State Fault Refusal := .next (doBufferHandover n s)

/-! ### Replays handed over (R268) -/

/-- The tiles of a sweep read again into the staging, once for all the Fallows that replay it at one boundary; their masks go to
the sweep's slot of the mask store (R201). -/
def State.rereadSweep (s : State) (c : Cfg) (w : SweepKey) : State :=
  match s.sward.reread.lookup w with
  | some l => { s with sward := { s.sward with staging := l } }
  | none =>
    let t0 := c.subOff w.sub / 32
    let keys := (List.range (c.subLen w.sub / 32)).flatMap (fun t => (List.range c.nb).map (fun g => (t0 + t, g)))
    let s := keys.foldl (fun s k =>
      let (r, s) := s.readMereTile c w.pass w.chan k.1 k.2
      { s with sward := { s.sward with staging := ⟨k.1, k.2, r.2, r.1, poolPort k.2⟩ :: s.sward.staging } })
      { s with sward := { s.sward with staging := [] } }
    let masks := s.sward.staging.foldl (fun (m : SMap Nat) x => SMap.put 0 m (x.tau * 64 + x.group) x.mask) []
    { s with
      sward := { s.sward with reread := (w, s.sward.staging) :: s.sward.reread }
      bas := { s.bas with masks := s.bas.masks.map (fun x => if x.key = w then { x with rep := masks } else x) } }

/-- The sums of a logical engine over a whole sweep. -/
def State.sweepSums (s : State) (c : Cfg) (w : SweepKey) (e : Nat) : Sums :=
  (List.range (c.steps w.sub)).foldl (fun m κ => (c.places w.round w.pass e).foldl (fun m p => s.stepPlace c w κ m p) m) []

/-- One sweep replayed on a Fallow: its buffer goes to the Basin. -/
def State.replaySweep (s : State) (r : Rep) : State :=
  let c := s.cfgOfPass r.key.pass
  if (r.key, r.logical) ∈ s.bas.done ∨ (c.places r.key.round r.key.pass r.logical).isEmpty = true then s
  else
    let s := s.rereadSweep c r.key
    let (b, s) := s.readout c r.key r.logical r.n true (s.sweepSums c r.key r.logical)
    let s := s.addFld (R.ENG_CYC_MAC r.n) (c.steps r.key.sub * c.xCycles r.key)
    ({ s with sward := { s.sward with staging := [] } }).handBuffer c r.key r.logical r.n true b

/-- The replays of a Fallow that holds its credit, over as many sweeps as wait. -/
def pumpEach : Nat → Nat → State → State
  | 0, _, s => s
  | k + 1, n, s =>
    match s.sward.reps.find? (fun r => r.n == n) with
    | none => s
    | some r =>
      if !(s.eng n).credit then s
      else pumpEach k n (({ s with sward := { s.sward with reps := s.sward.reps.erase r } }).replaySweep r)

/-- A Fallow that holds its credit hands over the next sweep that it replays; its group's replay is over with the last. -/
def State.pumpReps (s : State) (n : Nat) : State :=
  let s := pumpEach s.sward.reps.length n s
  if s.sward.reps.any (fun r => r.n / 9 == n / 9) then s else s.setFld (R.GSV_STAT_REPLAYING (n / 9)) 0

/-! ### The B-side switch (R240) -/

/-- The effect of B_SWITCH: the combiner has every partial; a sweep of the same channel may follow at once. -/
def doBSwitch (n : Nat) (s : State) : State :=
  match s.sward.sweep with
  | none => s
  | some w =>
    let c := s.cfgOfPass w.pass
    match (s.activeEngs c).find? (fun x => x.2 == n) with
    | none => s
    | some x =>
      if s.stepsOver c w && decide (c.eX ≤ x.1) && decide ((s.eng n).phase = 1) then
        if w.sub + 1 < c.shape.d then (s.setEng n { s.eng n with phase := 3 }).settle
        else (s.sendRecord c w x.1).setEng n { s.eng n with phase := 2 }
      else s

/-- B_SWITCH. -/
def execBSwitch (n : Nat) (s : State) : Host.Outcome State Fault Refusal := .next (doBSwitch n s)

/-- The free bank becomes the one in use, its load complete. -/
def State.swapBanks (s : State) : State :=
  if s.oldBank then { s with beam := { s.beam with cur := s.beam.free, free := none } } else s

/-- Cycles waited for weights: in a sweep they lengthen its switch, between two sweeps of a pass the pass (R156, R240). -/
def State.waitWeights (s : State) (wait : Nat) : State :=
  if s.sward.sweep.isSome then { s with sward := { s.sward with wl := s.sward.wl + wait } }
  else if s.mere.pass.isSome then { s with sward := { s.sward with cycles := s.sward.cycles + wait } } else s

/-- The effect of BANK_SWAP, with the cycles the engine has waited for the load beyond those already counted; before the
first step of a run the engine waits in the same way (R235). Where no beamformed channel follows, there is no load to wait
for. -/
def doBankSwap (n wait : Nat) (s : State) : State :=
  let c := s.passCfg
  match (s.activeEngs c).find? (fun x => x.2 == n) with
  | none => s
  | some x =>
    let due := decide (c.eX ≤ x.1) && (decide ((s.eng n).phase = 2) || s.sward.sweep.isNone)
    if !due then s
    else
      let s := s.addFld R.BM_WL_WAIT_CYC wait
      let s := s.waitWeights wait
      let none_ := s.beam.free.isNone && s.beam.loading.isNone && s.nextBeam.isNone
      if !s.oldBank || none_ then (s.setEng n { s.eng n with phase := 3 }).settle
      else if s.beam.free.isNone || s.beam.loading.isSome then s
      else ((s.swapBanks).setEng n { s.eng n with phase := 3 }).settle

/-- BANK_SWAP. -/
def execBankSwap (n wait : Nat) (s : State) : Host.Outcome State Fault Refusal := .next (doBankSwap n wait s)

/-! ### Commands that bring a failure sign (R262, R263): a failed engine holds up no sweep -/

/-- TOKEN_TIMEOUT. -/
def execTokenTimeout (n : Nat) (s : State) : Host.Outcome State Fault Refusal := .next (doTokenTimeout n s).settle

/-- STEP_TIMEOUT. -/
def execStepTimeout (n : Nat) (s : State) : Host.Outcome State Fault Refusal := .next (doStepTimeout n s).settle

/-- FAIL. -/
def execFail (π : Path) (g sl : Nat) (s : State) : Host.Outcome State Fault Refusal :=
  .next (s.hostCmd π (0x150040 + 0x1000 * g) (fun s => (doFail g sl s).settle))

end Sys2Proof.Machine
end

