-- ==== Sys2Proof/Machine/Basin.lean ====
section
/-! DEFINITION. The Basin at work (spec/07, and spec/08 for beam packets): collection and checks, commits and slices,
acceptance of channel-passes, the finisher, and the product ring. -/

namespace Sys2Proof.Machine

/-! ### Collection (R192, R193) -/

/-- Buffer a is taken before buffer b: replays first, then in ascending order of sweep and logical engine. -/
def Buf.before (a b : Buf) : Bool :=
  if a.replay != b.replay then a.replay
  else if a.key = b.key then decide (a.logical ≤ b.logical) else a.key.le b.key

/-- The buffer that is taken next, and the others. -/
def takeFirst : List Buf → Option (Buf × List Buf)
  | [] => none
  | b :: t =>
    match takeFirst t with
    | none => some (b, [])
    | some (x, r) => if b.before x then some (b, t) else some (x, b :: r)

/-- The effect of COLLECT_START, with the cycles in which a buffer waited and no collection buffer was free. -/
def doCollectStart (wait : Nat) (s : State) : State :=
  match takeFirst s.bas.waiting with
  | none => s
  | some (b, rest) =>
    let s := s.addFld R.BAS_BP_CYC wait
    if s.bas.copying.isSome ∨ 2 ≤ s.bas.cbs.length then s
    else { s with bas := { s.bas with waiting := rest, copying := some b } }

/-- COLLECT_START. -/
def execCollectStart (wait : Nat) (s : State) : Host.Outcome State Fault Refusal := .next (doCollectStart wait s)

/-! ### Checks (R185, R194) -/

/-- A diagonal record agrees with R185. -/
def diagOk (v : List (Int × Int)) : Bool :=
  (List.range 64).all (fun r => (List.range 64).all (fun c =>
    let x := v.getD (64 * r + c) (0, 0)
    let y := v.getD (64 * c + r) (0, 0)
    decide (x.1 = y.1) && decide (x.2 = -y.2)))

/-- The CRC field is right, and header and descriptors are those of the sweep given. -/
def Buf.intact (b : Buf) (c : Cfg) : Bool :=
  let ps := c.places b.key.round b.key.pass b.logical
  let h := drainHeader c b.key b.logical b.phys ps.length b.replay
  let d := drainDescs c b.key ps
  let len := 512 + 24576 * ps.length
  decide (crc32c (b.bytes.take 60 ++ (b.bytes.drop 64).take (len - 64)) = leAt b.bytes 60 4) &&
    (b.bytes.take 60 == h) && ((b.bytes.drop 64).take 448 == d)

/-- Every diagonal record of the buffer agrees with R185. -/
def Buf.diagsOk (b : Buf) (c : Cfg) : Bool :=
  (c.places b.key.round b.key.pass b.logical).zipIdx.all (fun (p, i) =>
    let pq := blockPQ c.nbX p.block
    pq.1 != pq.2 || diagOk (productsOf (b.record i)))

/-- The key of a buffer has been committed or resolved. -/
def State.keyDone (s : State) (b : Buf) : Bool :=
  decide ((b.key, b.logical) ∈ s.bas.done) || decide ((b.key.pass, b.key.chan) ∉ s.bas.begun)

/-- A rejected buffer leaves its collection buffer. -/
def State.rejectCount (s : State) (ctr : Fld) : State := (s.addFld ctr 1).subFld R.BAS_IN_CB 1

/-- A buffer that fails its checks: reported, counted, and left pending (R194, R197). -/
def State.rejectBuf (s : State) (b : Buf) (cause : Nat) : State :=
  let crc := decide (cause = 4)
  let s := s.rejectCount (if crc then R.BAS_REJ_CRC else R.BAS_REJ_DIAG)
  let s := (s.setFld R.BAS_STAT_REJECT 1).raise basPg 3
  let s := s.passError basPg (if crc then 0x10 else 0x11) b.key.pass b.key.chan
  ((s.openPend b.logical b.key).sign b.phys cause).settle

/-- A buffer discarded with cause FAILED: of a failed engine, or of work resolved in the meantime (R196). DESIGN CHOICE: the failed
engine's own intact buffer that is collected after the takeover, while the replay of its sweep is still on its way, is taken, and the
replay is then the duplicate (R197). -/
def State.dropsBuf (s : State) (b : Buf) : Bool := decide (b.phys ∈ s.bas.failed) || (!b.replay && s.keyDone b)

/-- The checks of a copied buffer (R194, R196, R197). -/
def State.checkBuf (s : State) (b : Buf) : State :=
  let c := s.cfgOfPass b.key.pass
  if s.dropsBuf b then s.rejectCount R.BAS_REJ_FAILED
  else if b.intact c = false then s.rejectBuf b 4
  else if b.diagsOk c = false then s.rejectBuf b 3
  else if b.replay = true ∧ s.keyDone b = true then
    (s.rejectCount R.BAS_REJ_DUP).passError basPg 0x12 b.key.pass b.key.chan
  else { s with bas := { s.bas with cbs := s.bas.cbs ++ [b] } }

/-- A buffer copied: the credit is returned, whatever the checks find (R193, R227), and the engine may hand over the next sweep
that it replays. -/
def State.takeCopied (s : State) (b : Buf) : State :=
  let s := { s with bas := { s.bas with copying := none } }
  let s := (s.setEng b.phys { s.eng b.phys with credit := true }).setFld (R.ENG_STAT_BUF_FULL b.phys) 0
  let s := ((s.addFld R.BAS_CR_RETURNED 1).subFld R.BAS_CR_OUT 1).addFld R.BAS_IN_CB 1
  let s := if b.replay then s.addFld R.BAS_REPLAY_BUFS 1 else s
  s.pumpReps b.phys

/-- The effect of COLLECT_DONE. -/
def doCollectDone (s : State) : State :=
  match s.bas.copying with
  | none => s
  | some b => (s.takeCopied b).checkBuf b

/-- COLLECT_DONE. -/
def execCollectDone (s : State) : Host.Outcome State Fault Refusal := .next (doCollectDone s)

/-! ### FAILURE_SIGN (R261 to R263) -/

/-- A context record fails its check some times, and is sent again each time but the fifth (R261): the group's Fallow holds
records of the group's engines. The fifth failure is a sign COPY for the Fallow. -/
def State.copyFails (s : State) (n k : Nat) : State :=
  let g := n / 9
  if (s.gsv g).fallow ≠ some (n % 9) ∨ (s.gsv g).recs.isEmpty = true ∨ s.engDead n = true ∨ 5 < k then s
  else
    let s := (List.range (min k 4)).foldl (fun s _ => s.error (gsvPg g) 0x14 0 0 none) s
    if k = 5 then s.sign n 6 else s

/-- The Basin's checks find the buffer of engine n that is being copied bad (R194). -/
def State.copyBad (s : State) (n cause : Nat) : State :=
  match s.bas.copying with
  | none => s
  | some b =>
    if b.phys ≠ n then s
    else
      let s := s.takeCopied b
      if s.dropsBuf b then s.rejectCount R.BAS_REJ_FAILED else s.rejectBuf b cause

/-- The effect of FAILURE_SIGN: the condition of a cause of the table of R262 comes about for engine n. TOKEN and STEP are
those of their timeouts, SELFTEST is a test that fails, MANUAL the driver's command; for COPY, the bits above the cause give how
many copies of a record fail, none standing for five. Under any other condition than the table's there is no sign. -/
def doFailureSign (n sign : Nat) (s : State) : State :=
  (match sign % 16 with
  | 1 => doTokenTimeout n s
  | 2 => doStepTimeout n s
  | 3 => s.copyBad n 3
  | 4 => s.copyBad n 4
  | 5 => doSelftestDone n false s
  | 6 => s.copyFails n (if sign / 16 = 0 then 5 else sign / 16)
  | 7 => s.sign n 7
  | _ => s).settle

/-- FAILURE_SIGN. -/
def execFailureSign (n sign : Nat) (s : State) : Host.Outcome State Fault Refusal := .next (doFailureSign n sign s)

/-! ### Commits (R195, R200, R216, R217) -/

/-- The pending entry of a logical engine after its replay buffer b: it advances to the next, or is closed (R266); a
channel-pass whose last replay buffer this was is committed (R279, R435). -/
def State.advancePend (s : State) (b : Buf) : State :=
  let p := s.seatOf b.key b.logical
  let nxt := ((s.bas.cbs ++ s.bas.copying.toList ++ s.bas.waiting).filter (fun x => x.replay)).map (fun x => (x.key, x.logical))
    ++ s.sward.reps.map (fun r => (r.key, r.logical))
  let nxt := nxt.find? (fun x => s.seatOf x.1 x.2 == p)
  let last := match nxt with | some k => decide ((k.1.pass, k.1.chan) ≠ (b.key.pass, b.key.chan)) | none => true
  let g := b.phys / 9
  let s := if last then
      let c := s.cfgOfPass b.key.pass
      (s.info (gsvPg g) 0xE2 (some (c.passFrame b.key.pass)) b.phys 0 (c.shown b.key.pass) b.key.chan).raise (gsvPg g) 2
    else s
  match nxt with
  | some k =>
    ({ s with bas := { s.bas with pend := s.bas.pend.map (fun (x : Pend) =>
      if s.seatOf x.key x.logical = p then { logical := k.2, key := k.1 } else x) } }).flushLate
  | none => s.closePend p

/-- A buffer leaves its collection buffer: its commit is made, or follows a pending sweep. -/
def State.commitBuf (s : State) (b : Buf) : State :=
  let s := { s with bas := { s.bas with cbs := s.bas.cbs.drop 1 } }
  if s.mustFollow b then { s with bas := { s.bas with late := s.bas.late ++ [b] } }
  else
    let s := s.commitData b
    if b.replay then (s.intFlag b.key.pass 6).advancePend b else s

/-- The cycles in which a write of the Basin has waited for the finisher. -/
def State.countWait (s : State) (wait : Nat) : State := if s.finWaits then s.finWait wait else s

/-- The effect of BUFFER_COMMIT, with the cycles in which the accumulator has waited for the finisher: for this buffer, for a zeroed first
commit, or for the zero bins of a skipped pass (R216, R217, R247). -/
def doBufferCommit (wait : Nat) (s : State) : State :=
  match s.bas.cbs with
  | [] => s.countWait wait
  | b :: _ => if s.commitHeld b then s.finWait wait else ((s.countWait wait).commitBuf b).finWaitOver

/-- BUFFER_COMMIT. -/
def execBufferCommit (wait : Nat) (s : State) : Host.Outcome State Fault Refusal := .next (doBufferCommit wait s)

/-! ### Stages of the finisher (R216, R247, R253) -/

/-- K in force at the integration's last pass (R254). -/
def State.lastK (s : State) (x : IntSt) : Nat := s.fldAt pkPg (x.cfg.passFrame (x.firstPass + x.len - 1)) R.PK_CFG_K

/-- The first stage at or after one that writes packets. -/
def State.stageFrom (s : State) (x : IntSt) (st : Nat) : Nat :=
  if st = 0 ∧ 0 < x.cfg.eX then 0
  else if st ≤ 1 ∧ 0 < x.cfg.eB ∧ x.cfg.bPow ≠ 0 then 1
  else if st ≤ 2 ∧ 0 < s.lastK x then 2 else 3

/-- An integration after one of its packets: the next channel, or the next stage. -/
def State.advanceInt (s : State) (x : IntSt) : IntSt :=
  let n := if x.stage = 0 then x.cfg.cFine else if x.stage = 1 then x.cfg.bChans else 1
  if x.ch + 1 < n then { x with ch := x.ch + 1 } else { x with stage := s.stageFrom x (x.stage + 1), ch := 0 }

/-- FINISHING, FIN and FIN_INT of the integrations with the finisher. -/
def State.showFin (s : State) : State :=
  match s.bas.fin with
  | [] => (s.setFld R.BAS_STAT_FINISHING 0).setFld R.BAS_FIN_ACTIVE 0
  | x :: _ =>
    let s := (s.setFld R.BAS_STAT_FINISHING 1).setFld R.BAS_FIN_ACTIVE 1
    let ch := if x.stage = 1 then x.cfg.bChan0 + x.ch else x.ch
    (s.setFld R.BAS_FIN_INT (x.cfg.shownInt x.seq)).setFld R.BAS_FIN_CH ch

/-- The flags that are known when an integration is complete (R226). -/
def finalFlags (x : IntSt) : Nat :=
  let f := x.flags
  let f := if x.cfg.fmt = 2 ∧ 2 ^ 20 < x.acc * x.cfg.shape.d then orBit f 2 else f
  let f := if x.cfg.pEff < x.cfg.pInt then orBit f 3 else f
  let f := if 0 < x.skipped then orBit f 4 else f
  let f := if x.acc = 0 then orBit f 8 else f
  if x.cal then orBit f 9 else f

/-- The oldest integration is complete: it goes to the finisher (R215, R218). -/
def State.completeInt (s : State) (x : IntSt) (rest : List IntSt) : State :=
  let x := { x with flags := finalFlags x, stage := s.stageFrom x 0, ch := 0 }
  let (c, q) := match rest with | y :: _ => (y.cfg, y.seq) | [] => (x.cfg, x.seq + 1)
  let s := ((s.addFld R.BAS_INTEGRATIONS 1).setFld R.BAS_CUR_INT (c.shownInt q)).setFld R.BAS_STAT_ACC_BANK (q % 2)
  let s := { s with bas := { s.bas with ints := rest, fin := if x.stage = 3 then s.bas.fin else s.bas.fin ++ [x] } }
  s.showFin

/-- An integration is complete: every pass is skipped or accepted for every channel, and no bins of a skipped pass wait. -/
def State.intComplete (s : State) (x : IntSt) : Bool :=
  decide (x.acc + x.skipped = x.len) && decide (x.accepted = x.acc * x.cfg.cFine)
    && !s.beam.zeroBinsLater.any (fun j => decide (x.firstPass ≤ j) && decide (j < x.firstPass + x.len))

/-- Integrations in order, each as it is complete. -/
def completeEach : List IntSt → State → State
  | [], s => s
  | x :: rest, s => if s.intComplete x then completeEach rest (s.completeInt x rest) else s

/-- Every integration that is complete, in order, goes to the finisher. -/
def State.completeInts (s : State) : State := completeEach s.bas.ints s

/-- What waited for the finisher goes on: zeroed first commits and what follows them, zero bins, complete integrations. -/
def State.finisherMoved (s : State) : State := s.flushZeros.flushLate.flushBins.finWaitOver.completeInts

/-! ### CHANNEL_PASS_ACCEPT (R199, R215, R251) -/

/-- Every buffer of a channel-pass is resolved, no zeroed first commit of it waits, and no pending entry names it. -/
def State.mayAccept (s : State) (k : Nat × Nat) : Bool :=
  let c := s.cfgOfPass k.1
  let here (w : Option SweepKey) : Bool := match w with | some w => decide ((w.pass, w.chan) = k) | none => false
  !here s.sward.sweep && !here s.sward.next
    && (c.sweepsOf k.1 k.2).all (fun w => (List.range c.eX).all (fun e =>
        (c.places w.round w.pass e).isEmpty || decide ((w, e) ∈ s.bas.done)))
    && s.bas.pend.all (fun p => decide ((p.key.pass, p.key.chan) ≠ k))
    && s.bas.zeroLater.all (fun z => decide ((z.1.pass, z.1.chan) ≠ k))

/-- The candidates of the products (i, i) of a channel-pass (R251). -/
def State.autoPeaks (s : State) (c : Cfg) (k : Nat × Nat) : State :=
  let s := if c.eX = 0 then s else (List.range c.nX).foldl (fun s i =>
    let v := (s.beam.autos.lookup (k.1, k.2, i)).getD (0, 0)
    s.candidatePeak c k.1 1 ⟨v.1, v.2, i, k.2, (k.1 - c.pass0) % max 1 c.pEff⟩) s
  { s with beam := { s.beam with autos := s.beam.autos.filter (fun e => !(e.1.1 == k.1 && e.1.2.1 == k.2)) } }

/-- A channel-pass accepted. -/
def State.acceptChan (s : State) (k : Nat × Nat) (cycles : Nat) : State :=
  let c := s.cfgOfPass k.1
  let s := if c.eX = 0 then s else
    let v := min 16777215 cycles
    (s.setFld R.BAS_CH_CYC_CYC v).maxFld R.BAS_CH_CYC_MAX_CYC v
  let s := s.autoPeaks c k
  let other (w : SweepKey) : Bool := decide ((w.pass, w.chan) ≠ k)
  let s := { s with bas := { s.bas with
    begun := s.bas.begun.filter (fun x => x != k)
    accepted := s.bas.accepted ++ [k]
    done := s.bas.done.filter (fun x => other x.1)
    masks := s.bas.masks.filter (fun x => other x.key)
    slices := s.bas.slices.filter (fun x => other x.key)
    zeroed := s.bas.zeroed.filter (fun x => other x.1) } }
  (s.onInt k.1 (fun x => { x with accepted := x.accepted + 1 })).completeInts

/-- The effect of CHANNEL_PASS_ACCEPT, with the ENG_CLK cycles since its first handover: the oldest channel-pass that may
be accepted is. -/
def doChannelPassAccept (cycles : Nat) (s : State) : State :=
  match s.bas.begun.find? (fun k => s.mayAccept k) with
  | none => s
  | some k => s.acceptChan k cycles

/-- CHANNEL_PASS_ACCEPT. -/
def execChannelPassAccept (cycles : Nat) (s : State) : Host.Outcome State Fault Refusal := .next (doChannelPassAccept cycles s)

/-! ### The product ring (R221, R222) -/

/-- The bytes from WPTR on that may be written before the read count (R221). -/
def State.ringRoom (s : State) : Nat :=
  s.fld R.BAS_RING_SIZE * 4096 - (s.fld R.BAS_WPTR + m48 - s.fld R.BAS_RPTR) % m48

/-- Bytes written at a count of the ring, with poison by word, wrapping at the ring's end. -/
def State.ringWrite (s : State) (count : Nat) (bs : List Byte) (pois : Nat → Bool) : WrRes × State :=
  let size := s.fld R.BAS_RING_SIZE * 4096
  let base := s.fld R.BAS_RING_BASE * 4096
  let p := count % max 1 size
  let n := size - p
  let (r, s) := s.writeDramP .drain (base + p) (bs.take n) pois
  if (bs.drop n).isEmpty then (r, s)
  else
    let (r', s) := s.writeDramP .drain base (bs.drop n) (fun i => pois (i + (size / 32 - p / 32)))
    (r.join r', s)

/-- The CRC table of tiles, its own CRC, and padding to 64 bytes (R223). -/
def crcTrailer (tiles : List (List Byte)) : List Byte :=
  let t := tiles.flatMap (fun b => leBytes 4 (crc32c b))
  let u := t ++ leBytes 4 (crc32c t)
  u ++ List.replicate ((64 - u.length % 64) % 64) 0

/-- A byte list cut into pieces of 2048, given how many. -/
def cutTiles (n : Nat) (bs : List Byte) : List (List Byte) := (List.range n).map (fun i => (bs.drop (2048 * i)).take 2048)

/-- The header closed with PKT_SEQ and HDR_CRC (R225). -/
def State.closeHeader (s : State) (h : List Byte) : List Byte :=
  let b := sliceBytes h 0 56 ++ leBytes 4 (s.fld R.BAS_PKT_SEQ)
  b ++ leBytes 4 (crc32c b)

/-- The producer waits for ring space. -/
def State.ringFull (s : State) : State :=
  if s.bit R.BAS_STAT_RING_FULL then s else (s.setFld R.BAS_STAT_RING_FULL 1).raise basPg 4

/-- A packet's body is written: the finisher goes on to the next. -/
def State.bodyDone (s : State) (p : PktPend) : State :=
  let s := s.setFld R.BAS_STAT_RING_FULL 0
  match p.adv with
  | some y => ({ s with bas := { s.bas with fin := y :: s.bas.fin.drop 1 } }).finisherMoved
  | none => s

/-- The bytes of the packet's body for which the ring has room are written behind the header's place; the others wait
(R221). -/
def State.pumpRing (s : State) : State :=
  match s.bas.pkt with
  | none => s
  | some p =>
    if p.body.length ≤ p.count then s
    else
      let upTo := max p.count (min p.body.length (s.ringRoom - 64))
      let s := if upTo = p.count then s else
        (s.ringWrite (s.fld R.BAS_WPTR + 64 + p.count) (sliceBytes p.body p.count (upTo - p.count))
          (fun i => p.marks.getD (p.count / 32 + i) false)).2
      let s := { s with bas := { s.bas with pkt := some { p with count := upTo } } }
      if upTo < p.body.length then s.ringFull else s.bodyDone p

/-- A packet begun: its body goes to the ring; the header waits for PACKET_COMMIT. -/
def State.putPacket (s : State) (header body : List Byte) (marks : List Bool) (adv : Option IntSt) (lastOf notice : Option Nat)
    (peak : Option (Nat × Nat)) : State :=
  ({ s with bas := { s.bas with
    pkt := some ⟨64 + body.length, s.closeHeader header, body, marks, 0, adv, lastOf, notice, peak⟩ } }).pumpRing

/-! ### Visibility packets (R223 to R226) -/

/-- Pass j is the first that is not in a run that has been stopped. -/
def State.runEndsAt (s : State) (j : Nat) : Bool := s.sward.ends.any (fun e => e.pass == j)

/-- The imaginary words of a record negated (R224). -/
def recConj (fmt : Nat) : RecVal → RecVal
  | [a, b] => [a, unsgn (if fmt = 0 then 32 else 64) (-(sgn (if fmt = 0 then 32 else 64) b))]
  | [a, b, c, d] => [a, b, (c + 2147483648) % m32, (d + 2147483648) % m32]
  | v => v

/-- A part of a record holds its format's marker (R208, R209). -/
def recMarked (fmt : Nat) (v : RecVal) : Bool :=
  if fmt = 2 then false else v.any (fun x => x == 2 ^ (if fmt = 0 then 31 else 63))

/-- Words of a record that are infinite or NaN (R210). -/
def recInfs (fmt : Nat) (v : RecVal) : Nat := if fmt = 2 then (v.filter (fun x => !(f32.decode x).finite)).length else 0

/-- The record index of product (r, c') of a block in its stored form, and whether it is a transpose. -/
def storedAt (diag : Bool) (r k : Nat) : Nat × Bool :=
  if !diag then (64 * r + k, false)
  else if r ≤ k then (64 * r - r * (r - 1) / 2 + (k - r), false)
  else (64 * k - k * (k - 1) / 2 + (r - k), true)

/-- A delivered product: record, weight, and whether what was read of it was poisoned. -/
structure Prod where
  val : RecVal
  wt : Nat
  bad : Bool
  deriving DecidableEq, Repr

/-- The 4096 products of a block as they are delivered. -/
def State.readBlock (s : State) (x : IntSt) (ch b : Nat) : List Prod × State :=
  let c := x.cfg
  let pq := blockPQ c.nbX b
  let diag := decide (pq.1 = pq.2)
  let n := (storedCells diag).length
  let a := c.chanArea x.seq ch
  let (rv, s) := s.readDram .drain (a + recordOf b pq.2 * c.bv) (n * c.bv)
  let (rw, s) := s.readDram .drain (a + c.vch * c.bv + recordOf b pq.2 * 4) (n * 4)
  ((List.range 4096).map (fun m =>
    let z := storedAt diag (m / 64) (m % 64)
    let v := recOfBytes c.fmt (sliceBytes rv.bytes (z.1 * c.bv) c.bv)
    ⟨if z.2 then recConj c.fmt v else v, leAt rw.bytes (4 * z.1) 4, rv.markAt (z.1 * c.bv / 32) || rw.markAt (z.1 * 4 / 32)⟩), s)

/-- The tiles of a block, values before weights, with poison per 32-byte word. -/
def blockBytes (c : Cfg) (ps : List Prod) : List Byte :=
  ps.flatMap (fun p => recBytes c.fmt p.val) ++ ps.flatMap (fun p => leBytes 4 p.wt)
def blockMarks (c : Cfg) (ps : List Prod) : List Bool :=
  let per := 32 / max 1 c.bv
  ((List.range (4096 / per)).map (fun i => ((ps.drop (per * i)).take per).any (fun p => p.bad))) ++
  ((List.range 512).map (fun i => ((ps.drop (8 * i)).take 8).any (fun p => p.bad)))

/-- The blocks of a channel, in order; of an integration with every pass skipped, zeros that are not read (R218). -/
def State.readChan (s : State) (x : IntSt) (ch : Nat) : List Prod × State :=
  (List.range x.cfg.shape.nblk).foldl (fun (a : List Prod × State) b =>
    if x.firstAcc.isNone then (a.1 ++ List.replicate 4096 ⟨recZero x.cfg.fmt, 0, false⟩, a.2)
    else
      let r := a.2.readBlock x ch b
      (a.1 ++ r.1, r.2)) ([], s)

/-- What the finisher records of the products it delivers (R226). DESIGN CHOICE: of a diagonal block each delivered cell counts, a
transpose beside the product it comes from. -/
def State.judgeProducts (s : State) (x : IntSt) (ch : Nat) (ps : List Prod) : Nat × State :=
  let fmt := x.cfg.fmt
  let sat := (ps.filter (fun p => recMarked fmt p.val)).length
  let infs := (ps.map (fun p => recInfs fmt p.val)).sum
  let f := if 0 < sat then orBit x.flags 0 else x.flags
  let f := if ps.any (fun p => decide (p.wt = 4294967295)) then orBit f 1 else f
  let f := if 0 < infs then orBit f 12 else f
  let s := if sat = 0 then s else (((s.addFld R.BAS_SAT_PRODUCTS sat).passError basPg 0x15 x.firstPass ch).raise basPg 5)
  (f, (List.range infs).foldl (fun s _ => s.passError basPg 0x16 x.firstPass ch) s)

/-- Bytes 0 to 55 of a visibility packet's header (R225). -/
def visHeader (x : IntSt) (ch flags nt : Nat) : List Byte :=
  let c := x.cfg
  leBytes 4 0x56424153 ++ leBytes 1 1 ++ leBytes 1 c.fmt ++ leBytes 2 flags ++ leBytes 4 (c.shownInt x.seq) ++ leBytes 4 ch ++
  leBytes 6 (c.passFrame x.firstPass) ++ leBytes 2 0 ++ leBytes 4 x.acc ++ leBytes 4 x.skipped ++ leBytes 4 (x.acc * c.shape.d) ++
  leBytes 2 c.nbX ++ leBytes 2 c.nX ++ leBytes 4 nt ++ leBytes 4 c.span ++ leBytes 4 c.pEff ++ leBytes 4 x.zeroed

/-- The blocks' bytes and marks of a channel. -/
def chanBytes (c : Cfg) (ps : List Prod) : List Byte :=
  (List.range c.shape.nblk).flatMap (fun b => blockBytes c ((ps.drop (4096 * b)).take 4096))
def chanMarks (c : Cfg) (ps : List Prod) : List Bool :=
  (List.range c.shape.nblk).flatMap (fun b => blockMarks c ((ps.drop (4096 * b)).take 4096))

/-- A channel's visibility packet. -/
def State.visPacket (s : State) (x : IntSt) (adv : Option IntSt) (lastOf : Option Nat) : State :=
  let c := x.cfg
  let nt := c.shape.nblk * (2 * c.bv + 8)
  let (ps, s) := s.readChan x x.ch
  let (flags, s) := s.judgeProducts x x.ch ps
  let flags := if s.runEndsAt (x.firstPass + x.len) then orBit flags 10 else flags
  let data := chanBytes c ps
  s.putPacket (visHeader x x.ch flags nt) (data ++ crcTrailer (cutTiles nt data)) (chanMarks c ps) adv lastOf none none

/-! ### Power and peak packets (R247, R249, R253) -/

/-- The header of R249 up to byte 55. -/
def beamHeader (type form flags seq chan frame count cb len npt nt nb : Nat) (tail : List Byte) : List Byte :=
  leBytes 4 0x56424153 ++ leBytes 1 type ++ leBytes 1 form ++ leBytes 2 flags ++ leBytes 4 seq ++ leBytes 4 chan ++
  leBytes 6 frame ++ leBytes 2 0 ++ leBytes 4 count ++ leBytes 4 cb ++ leBytes 4 len ++ leBytes 4 npt ++ leBytes 4 nt ++
  leBytes 4 nb ++ sliceBytes tail 0 8

/-- The flags of R249 that an integration's beam packets share. -/
def State.beamIntFlags (s : State) (x : IntSt) : Nat :=
  let f := s.beam.intFlags.get 0 x.seq
  let f := if 0 < x.skipped then orBit f 2 else f
  let f := if s.runEndsAt (x.firstPass + x.len) then orBit f 6 else f
  if x.firstPass = x.cfg.pass0 then orBit f 7 else f

/-- A channel's power packet: the records in address order. -/
def State.powerPacket (s : State) (x : IntSt) (adv : Option IntSt) (lastOf : Option Nat) : State :=
  let c := x.cfg
  let ch := c.bChan0 + x.ch
  let n := c.nPt * c.nRec * c.recLen
  let nt := ceilDiv n 2048
  let a := c.binAddr x.seq ch 0 0
  let (r, s) := s.readDram .drain a n
  let data := sliceBytes r.bytes 0 (2048 * nt)
  let empty := (List.range (c.nPt * c.nRec)).all (fun i => decide (leAt data (i * c.recLen + 8 * c.nComp) 4 = 0))
  let f := (s.beam.chanFlags.get 0 (x.seq * 2 ^ 24 + ch)) ||| s.beamIntFlags x
  let f := if empty then orBit f 9 else f
  let h := beamHeader 3 c.bPow f (c.shownInt x.seq) ch (c.passFrame x.firstPass) c.beams c.bChans c.lPt c.nPt nt c.nB []
  let pois (i : Nat) : Bool := r.markAt ((a % 32 + 32 * i) / 32) || (decide (a % 32 ≠ 0) && r.markAt ((a % 32 + 32 * i) / 32 + 1))
  s.putPacket h (data ++ crcTrailer (cutTiles nt data)) ((List.range (ceilDiv n 32)).map pois) adv lastOf none none

/-- One 32-byte entry of the peak packet. -/
def peakEntry (p : Peak) : List Byte :=
  leBytes 4 p.value ++ leBytes 4 p.weight ++ leBytes 2 (p.who + 32768) ++ leBytes 2 0 ++ leBytes 4 p.chan ++ leBytes 4 p.time ++
  List.replicate 12 0

/-- The peak packet of an integration. -/
def State.peakPacket (s : State) (x : IntSt) (adv : Option IntSt) : State :=
  let c := x.cfg
  let f := c.passFrame (x.firstPass + x.len - 1)
  let k := s.lastK x
  let src := s.fldAt pkPg f R.PK_CFG_SRC
  let l := (s.beam.peaks.get [] x.seq).take k
  let body := sliceBytes (l.flatMap peakEntry) 0 512
  let fl := s.beamIntFlags x
  let fl := if x.seq ∈ s.beam.partials then orBit fl 8 else fl
  let fl := if l.isEmpty then orBit fl 9 else fl
  let auto := decide (src = 1)
  let h := beamHeader 4 src fl (c.shownInt x.seq) 0 (c.passFrame x.firstPass) k 0 0 (if auto then c.pEff else c.nPt) 0
    (if auto then c.nX else c.nB) (leBytes 4 (crc32c body))
  let top := match l with | p :: _ => p.value | [] => 0
  s.putPacket h body [] adv (some x.seq) none (some (top, c.shownInt x.seq))

/-! ### FINISHER_CHANNEL, PACKET_COMMIT, VOLTAGE_NOTICE (R216, R221, R244, R248) -/

/-- The next packet of the integration with the finisher. -/
def State.nextPacket (s : State) (x : IntSt) : State :=
  let y := s.advanceInt x
  let lastOf := if y.stage = 3 then some x.seq else none
  if x.stage = 0 then s.visPacket x y lastOf else if x.stage = 1 then s.powerPacket x y lastOf else s.peakPacket x y

/-- The effect of FINISHER_CHANNEL: one packet begins, when none is being written and no notice is ready. -/
def doFinisherChannel (s : State) : State :=
  match s.bas.fin with
  | [] => s
  | x :: _ =>
    if s.bas.pkt.isSome ∨ !s.beam.notices.isEmpty ∨ x.stage = 3 then s else s.showFin.nextPacket x

/-- FINISHER_CHANNEL. -/
def execFinisherChannel (s : State) : Host.Outcome State Fault Refusal := .next (doFinisherChannel s)

/-- The last packet of an integration is on the ring. -/
def State.intDone (s : State) (seq : Nat) : State :=
  let s' := { s with
    bas := { s.bas with fin := s.bas.fin.filter (fun x => x.seq != seq) }
    beam := { s.beam with
      peaks := s.beam.peaks.put [] seq []
      partials := s.beam.partials.filter (fun x => x != seq)
      intFlags := s.beam.intFlags.put 0 seq 0
      chanFlags := s.beam.chanFlags.filter (fun e => e.1 / 2 ^ 24 != seq) } }
  let label := (s.bas.fin.find? (fun x => x.seq == seq)).map (fun (x : IntSt) => x.cfg.passFrame x.firstPass)
  let shown := ((s.bas.fin.find? (fun x => x.seq == seq)).map (fun (x : IntSt) => x.cfg.shownInt x.seq)).getD seq
  ((s'.info basPg 0xE1 label shown 0 0 0).raise basPg 2).showFin

/-- What a packet of each kind shows once it is on the ring. -/
def State.packetShown (s : State) (p : PktPend) : State :=
  let s := match p.notice with
    | some j => (s.setFld R.BM_VDONE_PASS ((s.cfgOfPass j).shown j)).raise bmPg 1
    | none => s
  let s := match p.peak with
    | some (top, seq) => (((s.addFld R.PK_PACKETS 1).setFld R.PK_LAST_INT seq).setFld R.PK_LAST_TOP top).raise pkPg 1
    | none => s
  match p.lastOf with
  | some seq => s.intDone seq
  | none => s

/-- The effect of PACKET_COMMIT: the header is written last; once accepted, WPTR advances (R221). -/
def doPacketCommit (s : State) : State :=
  match s.bas.pkt with
  | none => s
  | some p =>
    if p.count < p.body.length then s
    else
      let (r, s) := s.ringWrite (s.fld R.BAS_WPTR) p.header (fun _ => false)
      if r ≠ .ok then s
      else
        let s := { s with bas := { s.bas with pkt := none } }
        let s := ((s.addFld R.BAS_WPTR p.len).addFld R.BAS_PACKETS 1).addFld R.BAS_PKT_BYTES p.len
        ((s.addFld R.BAS_PKT_SEQ 1).raise basPg 1).packetShown p

/-- PACKET_COMMIT. -/
def execPacketCommit (s : State) : Host.Outcome State Fault Refusal := .next (doPacketCommit s)

/-- The bytes that stand in memory, as they were written. -/
def State.peek (s : State) (a n : Nat) : List Byte :=
  (List.range n).map (fun i => match s.placeOf .drain (a + i) with | some p => (s.dram.byteAt p).getD 0 | none => 0)

/-- The voltage notice of a pass (R244, R249). -/
def State.noticePacket (s : State) (j : Nat) (skip : Bool) : State :=
  let c := s.cfgOfPass j
  let area := if skip then 0 else c.beams * c.bChans * c.tLen * 2
  let nt := ceilDiv area 2048
  let f := s.beam.passFlags.get 0 j
  let f := if skip then orBit f 2 else f
  let f := if s.runEndsAt (j + 1) then orBit f 6 else f
  let f := if j = c.pass0 then orBit f 7 else f
  let h := beamHeader 2 0 f (c.shown j) c.bChan0 (c.passFrame j) c.beams c.bChans c.tLen 0 nt c.nB (leBytes 6 (c.vHalf j))
  s.putPacket h (crcTrailer (cutTiles nt (s.peek (c.vHalf j) area))) [] none none (some j) none

/-- The effect of VOLTAGE_NOTICE: the oldest notice due is written to the ring. -/
def doVoltageNotice (s : State) : State :=
  match s.beam.notices with
  | [] => s
  | (j, skip) :: rest =>
    if s.bas.pkt.isSome then s
    else
      let t := s.noticePacket j skip
      { t with beam := { t.beam with notices := rest, passFlags := t.beam.passFlags.put 0 j 0 } }

/-- VOLTAGE_NOTICE. -/
def execVoltageNotice (s : State) : Host.Outcome State Fault Refusal := .next (doVoltageNotice s)

/-- The effect of a write of BAS.RPTR (R222): the ring takes what waited for room. -/
def doRptrWrite (v : Nat) (s : State) : State :=
  let r := s.fld R.BAS_RPTR
  if (v + m48 - r) % m48 ≤ (s.fld R.BAS_WPTR + m48 - r) % m48 then (s.setFld R.BAS_RPTR v).pumpRing
  else (s.setFld R.BAS_STAT_RPTR_BAD 1).error basPg 0x14 0 0 none

/-- RPTR_WRITE: the pair's write, which its _HI half commits. -/
def execRptrWrite (π : Path) (v : Nat) (s : State) : Host.Outcome State Fault Refusal :=
  .next (s.hostCmd π 0x180094 (doRptrWrite (v % m48)))

/-- The effect of BAS.CTL.RING_RESET: a voltage notice on its way begins anew. -/
def doRingReset (s : State) : State :=
  if s.running ∨ s.bit R.BAS_STAT_FINISHING = true then s.setFld R.BAS_STAT_CFG_BLOCKED 1
  else
    let s := (s.setFld R.BAS_WPTR 0).setFld R.BAS_RPTR 0
    match s.bas.pkt with
    | some p => ({ s with bas := { s.bas with pkt := some { p with count := 0 } } }).pumpRing
    | none => s

/-- RING_RESET. -/
def execRingReset (π : Path) (s : State) : Host.Outcome State Fault Refusal := .next (s.hostCmd π 0x180040 doRingReset)

/-! ### A reset that stops the Basin (R220) -/

/-- Every outstanding credit is returned. -/
def State.returnCredits (s : State) : State :=
  (List.range s.nEngs).foldl (fun s n =>
    if (s.eng n).credit then s else (s.setEng n { s.eng n with credit := true }).setFld (R.ENG_STAT_BUF_FULL n) 0) s

/-- Integrations abandoned, oldest first: each is recorded with its first pass (R434, R437). -/
def State.loseInts (s : State) : State :=
  (s.bas.fin ++ s.bas.ints).foldl (fun s x => (s.addFld R.BAS_INT_LOST 1).passError basPg 0x17 x.firstPass 0) s

/-- The buffer of a sweep is lost with a reset of the Basin, or will never come: the sweep is over for its logical engine, its
bearer has handed over, or none works. What working engines have still to hand over of the sweep in progress does come. -/
def State.lostSweep (s : State) (c : Cfg) (w : SweepKey) (e : Nat) : Bool :=
  match (s.activeEngs c).find? (fun x => x.1 == e) with
  | none => true
  | some x =>
    match s.sward.sweep, s.sward.next with
    | some v, _ => !v.le w || (decide (w = v) && decide ((s.eng x.2).phase = 3))
    | none, some v => !v.le w
    | none, none => true

/-- What is over of the channel-passes begun (R199, R220). -/
def State.lostDone (s : State) : List (SweepKey × Nat) :=
  s.bas.begun.flatMap (fun k =>
    let c := s.cfgOfPass k.1
    (c.sweepsOf k.1 k.2).flatMap (fun w => (List.range c.eX).filterMap (fun e => if s.lostSweep c w e then some (w, e) else none)))

/-- The Basin stops. Channel-passes begun go on without an integration to accumulate into: what is lost of them counts as resolved, so that
they are accepted and released, and accumulation resumes with the next integration (R220). -/
def State.stopBasin (s : State) : State :=
  let lost := s.lostDone
  let s := s.returnCredits.loseInts
  let s := (s.addFld R.BAS_CR_LOST_RESET (s.fld R.BAS_CR_OUT)).setFld R.BAS_CR_OUT 0
  let s := (s.addFld R.BAS_LOST_CB (s.fld R.BAS_IN_CB)).setFld R.BAS_IN_CB 0
  let s := { s with
    bas := { begun := s.bas.begun, accepted := s.bas.accepted, done := lost }
    sward := { s.sward with reps := [] }
    beam := { s.beam with
      bins := [], volts := [], notices := [], peaks := [], partials := [], autos := [], passFlags := [], intFlags := []
      chanFlags := [], zeroBinsLater := [] } }
  let s := (List.range s.nGroups).foldl (fun s g => s.setFld (R.GSV_STAT_REPLAYING g) 0) s
  (((s.setFld R.BAS_PENDING_COUNT 0).setFld R.BAS_STAT_RING_FULL 0).setFld R.BAS_STAT_FIN_WAIT 0).showFin

end Sys2Proof.Machine
end

