-- ==== Sys2Proof/Machine/Pass.lean ====
section
/-! DEFINITION. Passes (spec/05 R151 to R156) and what the supervisors do at channel and pass boundaries (spec/09 R264 to
R273): start and skip of passes, takeover with replay, return and lockout. -/

namespace Sys2Proof.Machine

/-! ### Integrations open with their first pass (R19, R226) -/

/-- The integration of pass j is open; it is opened at its first pass, or at the first pass of a run. -/
def State.ensureInt (s : State) (c : Cfg) (j : Nat) : State :=
  if (s.intOfPass j).isSome ∨ c.intFirst j ≠ j then s
  else
    let x : IntSt := ⟨c.intOf j, c, j, c.pEff, none, 0, 0, 0, 0, if j = c.pass0 then orBit 0 11 else 0, false, 0, 0⟩
    let s := if s.bas.ints.isEmpty then (s.setFld R.BAS_CUR_INT (c.shownInt x.seq)).setFld R.BAS_STAT_ACC_BANK (x.seq % 2) else s
    { s with bas := { s.bas with ints := s.bas.ints ++ [x] } }

/-- A pass that is accumulated. -/
def IntSt.addPass (x : IntSt) (j : Nat) (cal : Bool) : IntSt :=
  { x with acc := x.acc + 1, firstAcc := if x.firstAcc.isSome then x.firstAcc else some j, cal := x.cal || cal }

/-! ### Peak source (R254) -/

/-- A change of the peak source at a pass that is not the first of its integration clears the list (R254). -/
def State.switchSource (s : State) (c : Cfg) (j : Nat) : State :=
  if c.intFirst j = j then s
  else
    let src (k : Nat) : Nat := s.fldAt pkPg (c.passFrame k) R.PK_CFG_SRC
    let seq := c.intOf j
    if src j = src (j - 1) then s
    else
      let s := { s with beam := { s.beam with
        peaks := s.beam.peaks.put [] seq []
        partials := if seq ∈ s.beam.partials then s.beam.partials else seq :: s.beam.partials } }
      s.raise pkPg 2

/-! ### A skipped pass (R154) -/

/-- The tiles of the half of pass j that its pass has not read are given up. -/
def State.dropTiles (s : State) (j : Nat) (ctr : Fld) : State :=
  let mine := s.mere.resident.filter (fun k => decide (k / 2 ^ 32 = j % 2))
  let s := (s.addFld ctr mine.length).subFld R.MERE_RESIDENT mine.length
  { s with mere := { s.mere with resident := s.mere.resident.filter (fun k => decide (k / 2 ^ 32 ≠ j % 2)) } }

/-- What a skipped pass leaves of its beams (R243, R244, R246). -/
def State.skipBeams (s : State) (c : Cfg) (j : Nat) : State :=
  if c.eB = 0 then s else
    let s := s.zeroBins c j
    { s with beam := { s.beam with
      skipped := j :: s.beam.skipped
      notices := if c.bVolt then s.beam.notices ++ [(j, true)] else s.beam.notices } }

/-- Pass j is skipped: its half is released at once (R152). -/
def State.skipPass (s : State) (j : Nat) : State :=
  let c := s.cfgOfPass j
  let s := (s.dropTiles j R.MERE_DISC_SKIP).addFld R.MERE_PASSES_SKIPPED 1
  let s := ((s.setFld R.MERE_STAT_SKIPPED 1).passError merePg 0x11 j 0).raise merePg 2
  let s := ((s.freeHalf j).dropWeights j).ensureInt c j
  let s := ((s.onInt j (fun x => { x with skipped := x.skipped + 1 })).switchSource c j).skipBeams c j
  let s := { s with mere := { s.mere with closed := s.mere.closed.drop 1, next := j + 1 } }
  s.completeInts.checkRunEnd

/-- Passes whose next span has closed are skipped, one after the other, over as many steps as spans are closed. -/
def skipLate : Nat → State → State
  | 0, s => s
  | n + 1, s =>
    match s.mere.closed with
    | (j, _) :: (k, _) :: _ =>
      if j = s.mere.next ∧ k = j + 1 ∧ (s.cfgOfPass k).base = (s.cfgOfPass j).base then skipLate n (s.skipPass j) else s
    | _ => s

/-! ### PASS_START (R151) -/

/-- At a pass start the supervisor tests each FAILED engine and each Fallow in STANDBY once (R269). -/
def State.passTests (s : State) : State :=
  (List.range s.nEngs).foldl (fun s n =>
    let st := s.fld (R.ENG_STAT_STATE n)
    if (st = esFailed ∨ st = esStandby) ∧ s.bit (R.ENG_STAT_BUF_FULL n) = false then s.startTest n else s) s

/-- Pass j starts; its span closed at a frame tick. With the first pass of a configuration every slot of its position list finds its
bearer. -/
def State.startPass (s : State) (j tick : Nat) : State :=
  let c := s.cfgOfPass j
  let s := if j = c.pass0 ∨ s.mere.last < c.pass0 then s.rebear else s
  let lag := min 65535 (s.ticks - tick)
  let s := (s.setFld R.MERE_LAG_CUR lag).maxFld R.MERE_LAG_MAX lag
  let s := ((s.setFld R.MERE_STAT_RUNNING 1).setFld R.MERE_STAT_HALF (j % 2)).setFld R.BM_STAT_VHALF (j % 2)
  let s := ((s.setFld R.XS_PASS_SEQ (c.shown j)).setFld R.XS_INT_SEQ (c.shownInt (c.intOf j))).setFld R.XS_STAT_PASS_ACTIVE 1
  let s := { s with
    mere := { s.mere with pass := some j, last := j, closed := s.mere.closed.drop 1, seen := [] }
    sward := { s.sward with next := some ⟨j, 0, 0, 0⟩, cycles := 0, replayed := [] } }
  let cal := decide (c.fmt = 2) && s.bitAt basPg (c.passFrame j) R.BAS_INT_CTL_CAL_EN
  let s := ((s.ensureInt c j).onInt j (fun x => x.addPass j cal)).switchSource c j
  let s := (List.range s.nGroups).foldl (fun s g => s.refreshGroup g) (s.assignRoles c)
  s.passTests

/-- The effect of PASS_START: the next pass starts once the one before it is done and its span has closed; late passes are
skipped first. Not before the directory of a new configuration is zero (R315). -/
def doPassStart (s0 : State) : State :=
  let s := s0.settle
  if s.mere.pass.isSome ∨ s.mere.filling = true then s
  else
    let s := skipLate s.mere.closed.length s
    match s.mere.closed with
    | (j, tick) :: _ => if j = s.mere.next then s.startPass j tick else s
    | [] => s

/-- PASS_START. -/
def execPassStart (s : State) : Host.Outcome State Fault Refusal := .next (doPassStart s)

/-! ### Replay (R266 to R268) -/

/-- t_rep. -/
def Cfg.tRep (c : Cfg) : Nat := c.tLen * c.shape.c16 / 16 + 1088 * c.shape.nr * c.shape.d

/-- slack_now as the boundary finds it, the intervals charged at it left out. -/
def State.slackNow (s : State) (c : Cfg) : Int :=
  let first := match s.mere.pass, s.sward.next with
    | some _, some w => w.chan
    | _, _ => c.cFine
  let plan := ((List.range (c.cFine - first)).map (fun i =>
    if c.eB = 0 then c.tRep else c.chanCost (first + i))).sum
  (c.budget : Int) - (s.sward.cycles - s.sward.replayed.length * c.tRep : Nat) - plan

/-- The other active X-mode engines wait an interval. -/
def State.waitReplay (s : State) (c : Cfg) (n cyc : Nat) : State :=
  (s.activeEngs c).foldl (fun s x => if x.1 < c.eX ∧ x.2 ≠ n then s.addFld (R.ENG_CYC_STARVE x.2) cyc else s) s

/-- A channel-pass to be replayed by the Fallow n of group g; its interval is charged once however many groups replay it. -/
def State.replayCp (s : State) (g n e : Nat) (cp : Nat × Nat) (w0 : Option SweepKey) : State :=
  let c := s.cfgOfPass cp.1
  let s := if cp ∈ s.sward.replayed then s else
    { s.waitReplay c n c.tRep with sward := { s.sward with cycles := s.sward.cycles + c.tRep, replayed := cp :: s.sward.replayed } }
  let s := ((s.addFld (R.GSV_REPLAYED_CP g) 1).addFld (R.GSV_REPLAY_CYC g) c.tRep).setFld (R.GSV_STAT_REPLAYING g) 1
  let ws := (c.sweepsOf cp.1 cp.2).filter (fun w => match w0 with | some k => k.le w | none => true)
  { s with sward := { s.sward with reps := s.sward.reps ++ ws.map (fun w => ⟨n, e, w⟩) } }

/-- The channel-passes to resolve at a takeover boundary, in ascending order: replayed as long as the slack lasts, then
resolved without replay (R267). In each pass it is what the slot's logical engine of that pass held. -/
def resolveCps (p : Nat × Nat) (n : Nat) (w : SweepKey) (c : Cfg) : List (Nat × Nat) → Bool → State → State
  | [], _, s => s
  | cp :: t, on, s =>
    match (s.cfgOfPass cp.1).xAt p with
    | none => resolveCps p n w c t on s
    | some e =>
      let ok := on && (decide (cp ∈ s.sward.replayed) || decide (((s.sward.replayed.length + 1) * c.tRep : Int) ≤ s.slackNow c))
      if ok then resolveCps p n w c t on (s.replayCp p.1 n e cp (w.from_ cp))
      else resolveCps p n w c t false (s.zeroCp p.1 (s.cfgOfPass cp.1) e cp.1 cp.2 (w.from_ cp))

/-- A replay of what a logical slot bore is still to come or to be committed. -/
def State.replaysOf (s : State) (p : Nat × Nat) : Bool :=
  s.bas.waiting.any (fun x => x.replay && s.seatOf x.key x.logical == p) || s.sward.reps.any (fun r => s.seatOf r.key r.logical == p)

/-- What the failed bearer of a logical slot has left undone is resolved by the Fallow n (R266). -/
def State.resolvePending (s : State) (p : Nat × Nat) (n : Nat) (c : Cfg) : State :=
  match s.pendAt p, s.sward.begun with
  | some x, some b =>
    let w := x.key
    let s := (resolveCps p n w c (s.cpsBetween (w.pass, w.chan) b) (s.bit (R.GSV_CFG_REPLAY_EN p.1)) s).pumpReps n
    if s.replaysOf p then s else s.closePend p
  | _, _ => s.closePend p

/-! ### TAKEOVER (R265) -/

/-- A channel boundary: the next sweep begins a channel-pass, or no pass is in progress. -/
def State.atBoundary (s : State) : Bool :=
  s.sward.sweep.isNone && (match s.mere.pass, s.sward.next with
    | some _, some w => decide (w.sub = 0) && decide (w.round = 0)
    | _, _ => true)

/-- The configuration of the pass in progress, or of the pass that ends at the boundary (R267). -/
def State.boundaryCfg (s : State) : Cfg :=
  match s.mere.pass with
  | some j => s.cfgOfPass j
  | none => s.cfgOfPass s.mere.last

/-- The Fallow, in slot f, takes over logical slot l of group g from physical slot p. -/
def State.takeOver (s : State) (g l p f : Nat) : State :=
  let c := s.boundaryCfg
  let n := 9 * g + f
  let e := (List.range (c.eX + c.eB)).find? (fun e => c.position e == (g, l))
  let s := s.setEngState n esIdle
  let s := { s with bas := { s.bas with failed := s.bas.failed.filter (fun x => x != 9 * g + p) } }
  let s := s.resolvePending (g, l) n c
  let s := (s.setFld (mapFld g l) f).setGsv g { s.gsv g with takeover := none }
  let s := (s.addFld (R.GSV_TAKEOVERS g) 1).assignRoles c
  let s := s.reloadUnits n
  let at_ := match s.sward.next with | some w => (w.pass, w.chan) | none => (s.mere.next, 0)
  let pass := (s.cfgOfPass at_.1).shown at_.1
  ((s.info (gsvPg g) 0xE1 none n (e.getD 0) pass at_.2).raise (gsvPg g) 1).refreshGroup g

/-- The effect of TAKEOVER: the takeover that group g has scheduled takes place. -/
def doTakeover (g : Nat) (s0 : State) : State :=
  let s := s0.settle
  if !s.atBoundary then s
  else match (s.gsv g).takeover, s.spareSlot g with
    | some (l, p), some f => s.takeOver g l p f
    | _, _ => s

/-- TAKEOVER. -/
def execTakeover (g : Nat) (s : State) : Host.Outcome State Fault Refusal := .next (doTakeover g s)

/-! ### ENGINE_RETURN (R270, R271) -/

/-- Frame ticks in seconds: whether at least n seconds have passed in t ticks of 10.24 µs. -/
def ticksReach (t n : Nat) : Bool := decide (n * 1000000000 ≤ t * 10240)

/-- 24 h in frame ticks. -/
def dayTicks : Nat := 8437500000

/-- The reverts of a slot in the last 24 h. -/
def State.recentReverts (s : State) (g sl : Nat) : List Nat :=
  ((s.gsv g).reverts.get [] sl).filter (fun t => decide (s.ticks < t + dayTicks))

/-- A FAILED engine meets the conditions of a return. -/
def State.mayReturn (s : State) (g sl : Nat) : Bool :=
  decide (s.engBase (9 * g + sl) = esFailed) && s.bit (R.GSV_CFG_AUTO_RETURN g)
    && decide (max 1 (s.fld (R.GSV_HOLDOFF_PASSES g)) ≤ s.fld (R.GSV_HEALTH_PASS_RUN g sl))
    && ticksReach (s.ticks - (s.gsv g).lastSign.get 0 sl) (s.fld (R.GSV_HOLDOFF_SECONDS g))

/-- The third revert within 24 h: the engine is locked out. -/
def State.lockOut (s : State) (g sl : Nat) : State :=
  let s := s.setEngState (9 * g + sl) esLocked
  let s := (s.setFld (R.GSV_HIST_LOCKED_OUT g sl) 1).addFld (R.GSV_HIST_LOCKOUTS g sl) 1
  ((s.error (gsvPg g) 0x13 0 0 none).raise (gsvPg g) 5).requestSave

/-- A logical slot that a position names. -/
def State.namedSlot (s : State) (c : Cfg) (g l : Nat) : Bool := (List.range (8 * s.nGroups)).any (fun e => c.position e == (g, l))

/-- The slot borne before is borne again, or the engine becomes IDLE, or the group's Fallow where it has none that works. -/
def State.placeReturned (s : State) (c : Cfg) (g sl : Nat) : State :=
  let b := (s.gsv g).bore.get 0 sl
  let n := 9 * g + sl
  let m := s.fld (mapFld g (b - 1))
  let fallow := (s.gsv g).fallow
  let f := 9 * g + fallow.getD 0
  let other := fallow.isSome && decide (fallow ≠ some sl) && !s.engDead f
  if other = true ∧ 0 < b ∧ some m = fallow then ((s.setFld (mapFld g (b - 1)) sl).setEngState f esStandby).setEngState n esIdle
  else if 0 < b ∧ m = 15 ∧ s.namedSlot c g (b - 1) = true then (s.setFld (mapFld g (b - 1)) sl).setEngState n esIdle
  else if other then s.setEngState n esIdle
  else (s.setGsv g { s.gsv g with fallow := some sl }).setEngState n esStandby

/-- An engine returns. -/
def State.returnEngine (s : State) (g sl : Nat) : State :=
  let c := s.passCfg
  let n := 9 * g + sl
  let rs := (s.ticks :: s.recentReverts g sl).take 2
  let s := (s.placeReturned c g sl).reloadUnits n
  let x := s.gsv g
  let s := s.setGsv g { x with reverts := x.reverts.put [] sl rs, bore := x.bore.put 0 sl 0 }
  let s := { s with bas := { s.bas with failed := s.bas.failed.filter (fun k => k != n) } }
  let s := ((s.setFld (R.GSV_HEALTH_FAILED g sl) 0).setFld (R.GSV_HEALTH_REVERTS g sl) rs.length).addFld (R.GSV_RETURNS g) 1
  (s.info (gsvPg g) 0xE3 none n 0 0 0).raise (gsvPg g) 4

/-- The effect of ENGINE_RETURN at a pass boundary: every engine of the group that may return does, or is locked out. -/
def doEngineReturn (g : Nat) (s0 : State) : State :=
  let s := s0.settle
  if s.mere.pass.isSome ∨ s.nGroups ≤ g then s
  else
    let s := (List.range 9).foldl (fun s sl =>
      if !s.mayReturn g sl then s
      else if 2 ≤ (s.recentReverts g sl).length then s.lockOut g sl
      else s.returnEngine g sl) s
    (s.assignRoles s.passCfg).refreshGroup g

/-- ENGINE_RETURN. -/
def execEngineReturn (g : Nat) (s : State) : Host.Outcome State Fault Refusal := .next (doEngineReturn g s)

end Sys2Proof.Machine
end

