-- ==== Sys2Proof/Machine/ArmCheck.lean ====
section
/-! DEFINITION. What an arm is checked against (spec/01 R20 to R25, R39 to R43, R472; the arm code tables of spec/02 to
spec/08): the checks of one page, and those of a device arm. -/

namespace Sys2Proof.Machine

/-! ### Armed registers and windows -/

/-- Shadow and active register of each armed pair of a page, by page offset. -/
def armPairs : PageKind → List (Nat × Nat)
  | .lnk => [(0x120, 0x128), (0x124, 0x12C)]
  | .arr => [(0x120, 0x124)]
  | .dly => [(0x40, 0x44), (0x48, 0x50), (0x58, 0x5C), (0x60, 0x68)]
  | .chn0 => [(0x40, 0x44), (0x48, 0x4C), (0x50, 0x54)]
  | .mere => [(0x120, 0x138), (0x128, 0x140), (0x130, 0x148)]
  | .xs => [(0x48, 0x4C), (0x50, 0x54), (0x58, 0x5C)]
  | .bm => [(0x44, 0x48), (0x4C, 0x50), (0x54, 0x58), (0x5C, 0x60), (0x64, 0x68), (0x7C, 0x8C), (0x84, 0x94), (0x9C, 0xAC),
      (0xA4, 0xB4)]
  | .bas => [(0x48, 0x4C), (0x50, 0x54), (0x58, 0x68), (0x60, 0x70)]
  | .pk => [(0x40, 0x44), (0x48, 0x4C)]
  | _ => []

/-- Shadow and active table window of a page, with their length: BAR0 offsets. -/
def armWins : PageKind → List (Nat × Nat × Nat)
  | .dly => [(0x1000000, 0x1020000, 0x20000), (0x1040000, 0x1044000, 0x4000)]
  | .arr => [(0x1050000, 0x1054000, 0x4000)]
  | .chn0 => [(0x11E0000, 0x11E4000, 0x4000)]
  | .bas => [(0x1200000, 0x1208000, 0x8000)]
  | .bm => [(0x1220000, 0x1230000, 0x10000)]
  | _ => []

/-- The fields of a page's armed registers: shadow and active. -/
def armFields (p : Page) : List (Fld × Fld) :=
  (armPairs p.kind).flatMap (fun ab =>
    match regRow p.kind ab.1 with
    | some (_, r) => r.fields.map (fun x => (⟨p.base + ab.1, x.lo, x.w⟩, ⟨p.base + ab.2, x.lo, x.w⟩))
    | none => [])

/-- The words of a window, moved to start at an offset. -/
def moveWin (m : SMap Nat) (src dst len : Nat) : SMap Nat :=
  (m.slice src (src + len)).map (fun e => (e.1 - src + dst, e.2))

/-- The shadow set of a page differs from its active set in a register other than those excepted, or in a window. -/
def State.shadowDiffers (s : State) (p : Page) (except_ : Fld → Bool) (tabs : Bool) : Bool :=
  (armFields p).any (fun x => !except_ x.1 && decide (s.fld x.1 ≠ s.fld x.2)) ||
  (tabs && (armWins p.kind).any (fun w => decide (moveWin s.tables w.1 w.2.1 w.2.2 ≠ s.tables.slice w.2.1 (w.2.1 + w.2.2))))

/-- Fields of a page kind below integration level, by shadow register (R31). -/
def lowField (k : PageKind) (f : Fld) : Bool :=
  match k with
  | .lnk | .arr | .mere | .xs => false
  | .chn0 => decide (f.off = 0xB0048) || decide (f.off = 0xB0040 ∧ 13 ≤ f.lo ∧ f.lo ≤ 18)
  | .bas => decide (f = R.BAS_INT_CTL_SH_CAL_EN)
  | .bm => decide (f = R.BM_CFG_SH_WT_BANK)
  | _ => true

/-- Page kinds whose armed windows are of integration level. -/
def integWins (k : PageKind) : Bool := k == .arr

/-- The level of a page arm: the highest among the fields it changes (R31; 0 frame, 1 pass, 2 integration). The arms of LNK, ARR and
MERE are of integration level whatever they change (R83, R112, MERE page). -/
def State.armLevel (s : State) (p : Page) : Nat :=
  if p.kind = .lnk ∨ p.kind = .arr ∨ p.kind = .mere then 2
  else if s.shadowDiffers p (lowField p.kind) (integWins p.kind) then 2
  else if p.kind = .bas ∨ p.kind = .bm ∨ p.kind = .pk then 1 else 0

/-! ### Failures -/

/-- A failed check: its code, the page type whose register or window failed, the page offset or entry index, and the
window where it is a table entry (R29). -/
structure Bad where
  code : Nat
  type : Nat
  wh : Nat
  win : Option Nat
  deriving DecidableEq, Repr

/-- A check on a register: it fails where the condition holds. -/
def chk (b : Bool) (code : Nat) (k : PageKind) (wh : Nat) : List Bad := if b then [⟨code, k.type, wh, none⟩] else []

/-- A check on a table entry: the first entry that fails, if any. -/
def chkTab (i : Option Nat) (code : Nat) (k : PageKind) (win : Nat) : List Bad :=
  match i with
  | some n => [⟨code, k.type, n, some win⟩]
  | none => []

/-- The failure reported: the lowest code, the first of them (R40). -/
def firstBad : List Bad → Option Bad
  | [] => none
  | b :: t => match firstBad t with
    | none => some b
    | some c => some (if b.code ≤ c.code then b else c)

/-- The lowest offset within a window at which shadow and active words differ. -/
def State.firstDiff (s : State) (w : Nat × Nat × Nat) : Option Nat :=
  let a := s.tables.slice w.1 (w.1 + w.2.2)
  let b := s.tables.slice w.2.1 (w.2.1 + w.2.2)
  let offs := (a.map (fun e => e.1 - w.1)) ++ (b.map (fun e => e.1 - w.2.1))
  (offs.filter (fun o => decide (s.tab (w.1 + o) ≠ s.tab (w.2.1 + o)))).min?

/-- The failure of a page arm that changes the integration level with no device arm (R29, R38): the first register that it
changes at that level, or else the first entry of its window. -/
def State.needsDevice (s : State) (p : Page) : Bad :=
  match (armFields p).find? (fun x => !lowField p.kind x.1 && decide (s.fld x.1 ≠ s.fld x.2)) with
  | some x => ⟨0x05, p.kind.type, x.1.off - p.base, none⟩
  | none =>
    match (armWins p.kind).head?.bind (fun w => s.firstDiff w) with
    | some o => ⟨0x05, p.kind.type, o / 4, some 0⟩
    | none => ⟨0x05, p.kind.type, 0, none⟩

/-! ### The checks of one page (R30; codes 0x01, 0x02, 0x04 and the page's own) -/

/-- The lowest entry below a bound for which a test of the listed words of a window holds; entries per word as given. -/
def State.findEntry (s : State) (base len per bound : Nat) (bad : Nat → Nat → Bool) : Option Nat :=
  ((s.tables.slice base (base + len)).flatMap (fun e => (List.range per).filterMap (fun b =>
    let i := (e.1 - base) / 4 * per + b
    if i < bound && bad b e.2 then some i else none))).head?

/-- A binary64 of two words is NaN or infinite; a binary32 is a NaN. -/
def nonFinite64 (hi : Nat) : Bool := decide (hi / 2 ^ 20 % 2048 = 2047)
def nonFinite32 (w : Nat) : Bool := decide (w / 2 ^ 23 % 256 = 255)
def isNan32 (w : Nat) : Bool := nonFinite32 w && decide (w % 2 ^ 23 ≠ 0)

/-- The first input below n with MODEL = 1 whose shadow coefficients are not all finite (R113). -/
def State.badCoef (s : State) (n : Nat) : Option Nat :=
  ((s.tables.slice 0x1040000 0x1044000).filterMap (fun e =>
    let i := (e.1 - 0x1040000) / 4
    if e.2.testBit 14 && decide (i < n) &&
      (List.range 4).any (fun k => nonFinite64 (s.tab (0x1000004 + 32 * i + 8 * k))) then some i else none)).head?

/-- The fields of a page that hold a reserved encoding, a rejected zero, or what the page's own codes reject. -/
def State.lnkChecks (s : State) (j : Nat) : List Bad :=
  chk (decide (4096 < s.fld (R.LNK_TS_CC_SH_CC_CNT j))) 0x01 .lnk 0x120 ++
  chk (decide (64 < s.fld (R.LNK_TS_IG_SH_IG_CNT j))) 0x01 .lnk 0x124

/-- The input map entries of the shadow set for inputs below N, in ascending input. -/
def State.shadowMap (s : State) (n : Nat) : List Nat := (List.range n).map (fun i => s.tab (0x1050000 + 4 * i) % 4096)

/-- The first entry of a list that equals an earlier one. -/
def firstRepeat : List Nat → List Nat → Nat → Option Nat
  | [], _, _ => none
  | a :: t, seen, i => if a ∈ seen then some i else firstRepeat t (a :: seen) (i + 1)

/-- The checks of the ARR page (R112). -/
def State.arrChecks (s : State) : List Bad :=
  let n := s.fld R.ARR_GEOM_SH_N
  let m := s.fld R.ARR_GEOM_SH_MODE
  let cc := s.fld R.ARR_GEOM_SH_N_CC
  let sf := groupsOf n * cc
  let ok := decide (1 ≤ n) && decide (n ≤ 4096)
  chk (decide (m = 3) || decide (4096 < cc)) 0x01 .arr 0x120 ++ chk (decide (cc = 0)) 0x02 .arr 0x120 ++
  chk (!ok) 0x12 .arr 0x120 ++ chk (decide (4096 < sf)) 0x40 .arr 0x120 ++
  chk (decide (4194304 * framesPerSlot m < s.depth * sf)) 0x41 .arr 0x120 ++
  (if ok then chkTab ((s.shadowMap n).findIdx? (fun x => decide (64 * groupsOf n ≤ x))) 0x42 .arr 0 ++
    chkTab (firstRepeat (s.shadowMap n) [] 0) 0x43 .arr 0 else []) ++
  chk (s.running && (decide (n ≠ s.fld R.ARR_GEOM_N) || decide (m ≠ s.fld R.ARR_GEOM_MODE) || decide (cc ≠ s.fld R.ARR_GEOM_N_CC)))
    0x44 .arr 0x120 ++
  chk (!(s.bit (R.PG_CTL_ENABLE (pg .arr)) && s.bit R.ARR_STAT_INIT_DONE)) 0x45 .arr 0x120

/-- The checks of the DLY page (R113). -/
def State.dlyChecks (s : State) : List Bad :=
  let u := s.fld R.DLY_CFG_SH_UPD_EXP
  chk (decide (u < 4) || decide (14 < u)) 0x01 .dly 0x40 ++
  chk (decide (1048576 < s.fld R.DLY_SEG_LEN_SH_FRAMES)) 0x01 .dly 0x58 ++
  chk (decide (s.fld R.DLY_SEG_LEN_SH_FRAMES = 0)) 0x02 .dly 0x58 ++ chkTab (s.badCoef (s.fld R.ARR_GEOM_N)) 0x40 .dly 0 ++
  chk (s.bit R.DLY_CFG_SH_MODEL_EN && nonFinite64 (s.fld R.DLY_SKY_REF_SH / m32)) 0x41 .dly 0x60

/-- The checks of the CHN0 page. -/
def State.chnChecks (s : State) : List Bad :=
  let t := s.fld R.CHN0_CFG_SH_TAPS
  chk (decide (12 < s.fld R.CHN0_CFG_SH_K) || decide (4 < s.fld R.CHN0_CFG_SH_M_ZOOM) || decide (16 < t)
    || decide (s.fld R.CHN0_CFG_SH_CHUNK_EXP < 3)) 0x01 .chn0 0x40 ++
  chk (decide (t = 0)) 0x02 .chn0 0x40

/-- The checks of the XS page that concern its fields alone. -/
def State.xsChecks (s : State) : List Bad :=
  chk (decide (64 < s.fld R.XS_CFG_SH_E_X) || decide (64 < s.fld R.XS_CFG_SH_E_B)) 0x01 .xs 0x48 ++
  chk (decide (65536 < s.fld R.XS_SPAN_SH_F_SPAN)) 0x01 .xs 0x50

/-- An exponent table entry whose bits [7:6] are not its sign (R238). -/
def badExp (b w : Nat) : Bool := let v := w / 2 ^ (8 * b) % 256; decide (v / 64 ≠ if v.testBit 5 then 3 else 0)

/-- The checks of the BM page. -/
def State.bmChecks (s : State) : List Bad :=
  let pw := s.fld R.BM_PW_BIN_SH_TILES
  chk (decide (1024 < s.fld R.BM_CFG_SH_BEAMS) || decide (s.fld R.BM_CFG_SH_POW = 3) || decide (s.fld R.BM_CFG_SH_GROUP = 3))
    0x01 .bm 0x44 ++
  chk (decide (32768 < pw)) 0x01 .bm 0x64 ++
  chkTab (s.findEntry 0x1220000 0x10000 4 (s.fld R.BM_CFG_SH_BEAMS * s.fld R.BM_CH_CNT_SH_C_B) badExp) 0x01 .bm 0 ++
  chk (decide (pw = 0) && decide (s.fld R.BM_CFG_SH_POW ≠ 0)) 0x02 .bm 0x64

/-- The checks of the BAS page. -/
def State.basChecks (s : State) : List Bad :=
  chk (decide (s.fld R.BAS_INT_CTL_SH_FMT = 3)) 0x01 .bas 0x48 ++ chk (decide (s.fld R.BAS_P_INT_SH_PASSES = 0)) 0x02 .bas 0x50

/-- The checks of the PK page (R256). -/
def State.pkChecks (s : State) : List Bad :=
  let k := s.fld R.PK_CFG_SH_K
  let src := s.fld R.PK_CFG_SH_SRC
  chk (decide (16 < k) || decide (2 ≤ src)) 0x01 .pk 0x40 ++
  chk (decide (src = 0) && decide (1 ≤ k) && isNan32 (s.fld R.PK_THRESH_SH_VALUE)) 0x40 .pk 0x48

/-- A gain of an input below N_x that is NaN or infinite, in the window at a base (R224). -/
def State.badGain (s : State) (base nX : Nat) : Option Nat :=
  ((s.tables.slice base (base + 0x8000)).filterMap (fun e =>
    let i := (e.1 - base) / 8
    if i < nX && nonFinite32 e.2 then some i else none)).head?

/-- The checks of a page's own fields. -/
def State.ownChecks (s : State) (p : Page) (after : Bool) : List Bad :=
  chk (!s.domOn p.domain) 0x04 p.kind 0 ++ chk after 0x06 p.kind ((armOffset p.kind).getD 0) ++
  match p.kind with
  | .lnk => s.lnkChecks p.inst
  | .arr => s.arrChecks
  | .dly => s.dlyChecks
  | .chn0 => s.chnChecks
  | .xs => s.xsChecks
  | .bm => s.bmChecks
  | .bas => s.basChecks
  | .pk => s.pkChecks
  | _ => []

/-! ### The combination rules -/

/-- CPLX4 direct ingest with a correction enabled (R43, R113). -/
def State.cplx4Checks (s : State) (sh : PageKind → Bool) (mode : Nat) : List Bad :=
  let b (k : PageKind) (x y : Fld) : Bool := s.bit (if sh k then x else y)
  chk (decide (mode = 2) && (b .chn0 R.CHN0_CFG_SH_EQ_EN R.CHN0_CFG_EQ_EN || b .chn0 R.CHN0_CFG_SH_FDLY_EN R.CHN0_CFG_FDLY_EN ||
    b .chn0 R.CHN0_CFG_SH_FRINGE_EN R.CHN0_CFG_FRINGE_EN)) 0x1A .chn0 0x40 ++
  chk (decide (mode = 2) && b .dly R.DLY_CFG_SH_MODEL_EN R.DLY_CFG_MODEL_EN) 0x1A .dly 0x40

/-- The peak finder's source is produced (R43). -/
def State.peakChecks (s : State) (sh : PageKind → Bool) (c : Cfg) : List Bad :=
  let g (x y : Fld) : Nat := s.fld (if sh .pk then x else y)
  let k := g R.PK_CFG_SH_K R.PK_CFG_K
  let src := g R.PK_CFG_SH_SRC R.PK_CFG_SRC
  chk (decide (1 ≤ k) && ((decide (src = 0) && (decide (c.eB = 0) || decide (c.bPow = 0))) || (decide (src = 1) && decide (c.eX = 0))))
    0x1B .pk 0x40

/-- EQ_EN = 1: the selected gain table lies inside one region (CHN code 0x43). -/
def State.gainChecks (s : State) (sh : PageKind → Bool) (c : Cfg) : List Bad :=
  let bank := s.fld (if sh .chn0 then R.CHN0_CFG_SH_GAIN_BANK else R.CHN0_CFG_GAIN_BANK)
  let base := (if bank = 0 then s.fld R.CHN0_GAIN_BASE0 else s.fld R.CHN0_GAIN_BASE1) * 4096
  let size := 256 * c.nb * c.nCC * c.fk
  let inside := match s.rgnOf base with
    | some (r, o) => decide (o + size ≤ s.rgnSize r)
    | none => false
  chk (s.eqOf (sh .chn0) && !inside) 0x43 .chn0 (if bank = 0 then 0x58 else 0x60)

/-- FMT VISC with CAL_EN and a gain that is not finite (BAS code 0x40); with E_x = 0 the format is ignored (R43). -/
def State.calChecks (s : State) (sh : PageKind → Bool) (c : Cfg) : List Bad :=
  if c.fmt = 2 ∧ 0 < c.eX ∧ s.bit (if sh .bas then R.BAS_INT_CTL_SH_CAL_EN else R.BAS_INT_CTL_CAL_EN) = true then
    chkTab (s.badGain (if sh .bas then 0x1200000 else 0x1208000) c.nX) 0x40 .bas 0
  else []

/-- What a page arm below integration level that no device arm joins is judged by beside its own checks (R39). -/
def State.loneChecks (s : State) (p : Page) : List Bad :=
  let sh (k : PageKind) : Bool := decide (k = p.kind)
  let c := s.buildCfg (fun _ => false)
  match p.kind with
  | .dly => s.cplx4Checks sh c.mode
  | .chn0 => s.cplx4Checks sh c.mode ++ s.gainChecks sh c
  | .bas => s.calChecks sh c
  | .pk => s.peakChecks sh c
  | _ => []

/-! ### The device arm -/

/-- The tile set of link j under a choice of pages: first and number of coarse channels, first and number of groups. -/
def State.tileSetOf (s : State) (parts : List Page) (j : Nat) : Nat × Nat × Nat × Nat :=
  if (⟨.lnk, j⟩ : Page) ∈ parts then
    (s.fld (R.LNK_TS_CC_SH_CC_BASE j), s.fld (R.LNK_TS_CC_SH_CC_CNT j), s.fld (R.LNK_TS_IG_SH_IG_BASE j), s.fld (R.LNK_TS_IG_SH_IG_CNT j))
  else (s.fld (R.LNK_TS_CC_CC_BASE j), s.fld (R.LNK_TS_CC_CC_CNT j), s.fld (R.LNK_TS_IG_IG_BASE j), s.fld (R.LNK_TS_IG_IG_CNT j))

/-- The tile sets that are not empty, with their links. -/
def State.usedSets (s : State) (parts : List Page) : List (Nat × Nat × Nat × Nat × Nat) :=
  ((List.range s.nLanes).map (fun j => (j, s.tileSetOf parts j))).filter (fun x => decide (x.2.2.1 ≠ 0) && decide (x.2.2.2.2 ≠ 0))

/-- Two intervals meet. -/
def spansMeet (a n b m : Nat) : Bool := decide (a < b + m) && decide (b < a + n)

/-- Every pair lies in some tile set: for sets that do not overlap and lie in range, by counting (R83). -/
def setsCover (sets : List (Nat × Nat × Nat × Nat × Nat)) (nb nCC : Nat) : Bool :=
  (List.range nCC).all (fun cc =>
    let here := sets.filter (fun x => decide (x.2.1 ≤ cc) && decide (cc < x.2.1 + x.2.2.1))
    (List.range nb).all (fun g => here.any (fun x => decide (x.2.2.2.1 ≤ g) && decide (g < x.2.2.2.1 + x.2.2.2.2))))

/-- The link checks (R83). -/
def State.tileSetChecks (s : State) (parts : List Page) (c : Cfg) : List Bad :=
  let sets := s.usedSets parts
  chk (sets.any (fun x => decide (c.nCC < x.2.1 + x.2.2.1) || decide (c.nb < x.2.2.2.1 + x.2.2.2.2))) 0x40 .lnk 0x120 ++
  chk (sets.any (fun x => sets.any (fun y => decide (x.1 < y.1) && spansMeet x.2.1 x.2.2.1 y.2.1 y.2.2.1 &&
    spansMeet x.2.2.2.1 x.2.2.2.2 y.2.2.2.1 y.2.2.2.2))) 0x41 .lnk 0x120 ++
  chk (!setsCover sets c.nb c.nCC) 0x42 .lnk 0x120 ++
  chk (sets.any (fun x => !(s.bit (R.PG_CTL_ENABLE ⟨.lnk, x.1⟩)))) 0x43 .lnk 0x120

/-- The step that R21 judges a link by, and its payload rate in Gb/s. -/
def State.linkStep (s : State) (j : Nat) : Nat :=
  if 2 ≤ s.fld (R.LNK_STAT_ACT_STEP j) then s.fld (R.LNK_STAT_ACT_STEP j) else s.fld (R.LNK_CFG_MAX_STEP j)
def laneRate (step : Nat) : Nat := if step = 4 then 100 else if step = 3 then 50 else if step = 2 then 25 else 0

/-- The ingest capacity of every link (R21). -/
def State.ingestChecks (s : State) (parts : List Page) (c : Cfg) : List Bad :=
  chk ((s.usedSets parts).any (fun x =>
    decide (4 * 999 * framesPerSlot c.mode * 2 ^ s.fld (R.LNK_CFG_WIDTH x.1) * laneRate (s.linkStep x.1) * 10 ^ 9
      < x.2.2.1 * x.2.2.2.2 * 390625 * 16672 * 1000))) 0x16 .lnk 0x120

/-- Engines, inputs, span and load (codes 0x10 to 0x15). -/
def State.loadChecks (s : State) (c : Cfg) : List Bad :=
  chk (decide (c.eX + c.eB = 0)) 0x10 .xs 0x48 ++ chk (decide (s.workingTotal < c.eX + c.eB)) 0x11 .xs 0x48 ++
  chk (decide (c.n = 0) || decide (4096 < c.n)) 0x12 .arr 0x120 ++
  chk (decide (0 < c.eX) && (decide (c.nX = 0) || decide (c.n < c.nX))) 0x12 .xs 0x58 ++
  chk (decide (c.n < c.nB) || (decide (0 < c.eB) && decide (c.nB = 0))) 0x12 .bm 0x4C ++
  chk (decide (c.span = 0) || decide (c.span % 2 ^ c.frExp ≠ 0)) 0x13 .xs 0x50 ++
  chk (decide (c.budget < c.planCyc)) 0x14 .xs 0x50 ++
  chk (decide (0 < c.eB) && (decide (c.beams = 0) ||
    decide (c.eB * 6553600000000 * c.newLen < c.beams * c.nB * c.bChans * 1562500))) 0x15 .bm 0x44

/-- Zoom, ratio and history (codes 0x17 to 0x19; CHN codes 0x40 to 0x42). -/
def State.chanChecks (s : State) (c : Cfg) : List Bad :=
  let z := (sgn 32 c.zoom).natAbs + 2 ^ (31 - c.m)
  let q := 2 ^ c.chunkExp
  let zoomed := decide (1 ≤ c.m)
  let o : Int := (if s.oMaxRaw < 0 then s.oMaxRaw else (s.oMax : Int)) - c.hist - 32 * ((q : Int) - 8)
  chk (zoomed && decide (c.mode ≠ 0)) 0x17 .chn0 0x40 ++ chk (decide (c.os = 1) && decide (c.mode ≠ 0)) 0x18 .chn0 0x40 ++
  chk (decide (c.os = 1) && decide (c.k < 2)) 0x19 .chn0 0x40 ++
  chk (decide (c.os = 1) && zoomed && decide (3 * 2 ^ 29 < z)) 0x19 .chn0 0x50 ++
  chk (decide (c.os = 0) && zoomed && decide (2 ^ 31 < z)) 0x40 .chn0 0x50 ++ chk (decide (o < 0)) 0x41 .chn0 0x40 ++
  chk (decide (65536 * q < c.nb * c.nCC * c.hist)) 0x42 .chn0 0x40

/-- Whether tiles stay open across chunks and exceed the tile state table (R146). -/
def openChecks (c : Cfg) : List Bad :=
  chk (decide (2 ^ c.chunkExp < 2 ^ c.frExp) && decide (65536 < c.nb * c.cFine)) 0x40 .mere 0x5C

/-- The beams (BM codes; zeroes that E_b > 0 rejects). Only the rows of R255 that name E_b ask for it. -/
def State.beamChecks (s : State) (c : Cfg) : List Bad :=
  let noRing := decide (s.fld R.BAS_RING_SIZE = 0)
  let off := !(s.bit (R.PG_CTL_ENABLE basPg))
  let b := decide (0 < c.eB)
  chk (b && decide (c.bChans = 0)) 0x02 .bm 0x5C ++ chk (decide (27 < c.uE)) 0x40 .bm 0x44 ++
  chk (decide (c.bPow = 2) && decide (c.beams % 2 = 1)) 0x41 .bm 0x44 ++
  chk (b && !c.bVolt && decide (c.bPow = 0)) 0x42 .bm 0x44 ++ chk (decide (c.cFine < c.bChan0 + c.bChans)) 0x43 .bm 0x54 ++
  chk (decide (65536 < c.beams * c.bChans)) 0x44 .bm 0x44 ++
  chk (decide (c.bPow ≠ 0) && decide (c.tLen % max 1 c.lPt ≠ 0)) 0x45 .bm 0x64 ++
  chk (b && c.run && noRing) 0x46 .bm 0x44 ++ chk (b && c.run && off) 0x47 .bm 0x44

/-- The Basin (BAS codes 0x41, 0x42) and the run (XS codes). -/
def State.runChecks (s : State) (c : Cfg) (target : Nat) : List Bad :=
  let x := decide (0 < c.eX) && c.run
  chk (x && decide (s.fld R.BAS_RING_SIZE = 0)) 0x41 .bas 0x80 ++ chk (x && !(s.bit (R.PG_CTL_ENABLE basPg))) 0x42 .bas 0x08 ++
  chk (c.run && !(s.bit R.ARR_STAT_NOW_VALID)) 0x40 .xs 0x48 ++
  chk (c.run && !((s.cfgs.head?.getD {}).run) && decide (c.mode = 2) && decide (target % 2 = 1)) 0x41 .xs 0x108

/-- Any group is degraded (R260). -/
def State.anyDegraded (s : State) : Bool := (List.range s.nGroups).any (fun g => s.bit (R.GSV_STAT_DEGRADED g))

/-- The position list for the next configuration (R260), with the bearers that its first pass will find (log entry on R260). -/
def State.newPositions (s0 : State) : Option (List (Nat × Nat)) :=
  let s := s0.rebear
  if s.anyDegraded then
    some ((List.range s.nGroups).flatMap (fun g => ((List.range 8).filter (fun sl => decide (s.fld (mapFld g sl) ≠ 15))).map (fun sl => (g, sl))))
  else none

/-- The domains that a set with RUN = 1 needs (R472). -/
def State.domainChecks (s : State) (parts : List Page) (c : Cfg) : List Bad :=
  let d : Cfg := { c with positions := s.newPositions }
  let engs := ((List.range (c.eX + c.eB)).map (fun e => 8 + (d.position e).1)).filter (fun x => decide (x < 8 + s.nGroups))
  let lanes := ((s.usedSets parts).filter (fun x => s.bit (R.PG_CTL_ENABLE ⟨.lnk, x.1⟩))).flatMap (fun x =>
    (lanesOf (s.fld (R.LNK_CFG_FIRST_LANE x.1)) (s.fld (R.LNK_CFG_WIDTH x.1))).map (fun n => 3 + n / 16))
  chk (c.run && !((7 :: 16 :: engs ++ lanes).all s.domOn)) 0x04 .xs 0x48

/-- The memory plan (R161); a run is refused while a remap is needed (R305). -/
def State.planChecks (s : State) (sh : PageKind → Bool) (c : Cfg) : List Bad :=
  chk (c.run && s.bit R.MAP_STAT_REMAP_NEEDED) 0x1C .map 0x48 ++
  match s.planFails c (s.eqOf (sh .chn0)) with
  | some (t, off) => [⟨0x1C, t, off, none⟩]
  | none => []

/-- Every combination rule on the configuration that would be in force (R35). -/
def State.deviceChecks (s : State) (parts : List Page) (c : Cfg) (target : Nat) : List Bad :=
  let sh := partKind parts
  s.loadChecks c ++ s.ingestChecks parts c ++ s.chanChecks c ++ s.cplx4Checks sh c.mode ++ s.peakChecks sh c ++
  s.planChecks sh c ++ s.tileSetChecks parts c ++ openChecks c ++ s.gainChecks sh c ++ s.beamChecks c ++ s.calChecks sh c ++
  s.runChecks c target ++ s.domainChecks parts c ++ (if sh .dly then chkTab (s.badCoef c.n) 0x40 .dly 0 else [])

end Sys2Proof.Machine
end

