-- ==== Sys2Proof/Machine/Arm.lean ====
section
/-! DEFINITION. Arms (spec/01 R26 to R42, R473, R474; spec/06 R190; spec/09 R274): page arms, device arms, their boundary and
their application. -/

namespace Sys2Proof.Machine

/-- The arm group base of a page that has one. -/
def armB (p : Page) : Nat := p.base + (armOffset p.kind).getD 0

/-- The state an arm group shows: 0 IDLE, 1 CHECKING, 2 PENDING, 3 APPLIED, 4 REJECTED, 5 CANCELLED. -/
def State.armState (s : State) (p : Page) : Nat := s.fld (R.ARM_STATUS_STATE (armB p))

def State.arm (s : State) (p : Page) : ArmSt := s.arms.pages.get {} p.base
def State.setArm (s : State) (p : Page) (a : ArmSt) : State := { s with arms := { s.arms with pages := s.arms.pages.put {} p.base a } }

/-- The pages with an arm group, in ascending BAR0 offset. -/
def State.armPages (s : State) : List Page :=
  (List.range s.nLanes).map (fun j => (⟨.lnk, j⟩ : Page)) ++ [pg .arr, pg .dly, pg .chn0, pg .mere, pg .xs, pg .bm, pg .bas, pg .pk]

/-- The bit of a page's arm interrupt source (R42). -/
def armIrq (p : Page) : Nat := if p.kind = .lnk then 3 else 0

/-- An arm ends or is accepted: state, result code and location (R28, R29). -/
def State.armResult (s : State) (p : Page) (st : Nat) (b : Option Bad) : State :=
  let a := armB p
  let s := (s.setFld (R.ARM_STATUS_STATE a) st).setFld (R.ARM_STATUS_CODE a) (match b with | some x => x.code | none => 0)
  let s := s.setFld (R.ARM_DETAIL_WHERE a) (match b with | some x => x.wh | none => 0)
  let s := s.setFld (R.ARM_DETAIL_TYPE a) (match b with | some x => x.type | none => 0)
  let win := b.bind (fun x => x.win)
  (s.setFld (R.ARM_DETAIL_WINDOW a) (win.getD 0)).setBit (R.ARM_DETAIL_TABLE a) win.isSome

/-- An arm is over: its interrupt source is raised and its event logged (R42, R435). -/
def State.armOver (s : State) (p : Page) : State :=
  let a := armB p
  let ap := s.fld (R.ARM_APPLIED a)
  (s.info p 0xEE none (s.regValue (a + 4)) (ap % m32) (ap / m32) (s.regValue (a + 0x18))).raise p (armIrq p)

/-- DESIGN CHOICE: weights that a pending arm of BM, or a device arm, has had loaded before its boundary leave their banks as it ends
without taking effect, and are loaded from the tables that stay active (R239). -/
def State.dropAhead (s : State) (p : Page) : State :=
  let due := (s.arm p).due
  if ¬(p = bmPg ∨ p = xsPg) ∨ s.armState p ≠ 2 then s
  else ([s.beam.cur, s.beam.free].filterMap id).foldl (fun s b =>
    if after48 ((s.cfgOfPass b.pass).passFrame b.pass) due then s.dropWeights b.pass else s) s

/-- An arm ends as REJECTED. -/
def State.armReject (s0 : State) (p : Page) (b : Bad) : State :=
  let s := s0.dropAhead p
  let s := (s.armResult p 4 (some b)).armOver p
  { s with arms := { s.arms with parts := s.arms.parts.filter (fun x => x != p) } }

/-- An arm ends as CANCELLED. -/
def State.armCancel (s0 : State) (p : Page) : State :=
  let s := s0.dropAhead p
  (s.setFld (R.ARM_STATUS_STATE (armB p)) 5).armOver p

/-! ### ARM (R27, R28, R35, R38) -/

/-- A device arm for this target has been written (R38). DEDUCED: not more than 2^31 frame ticks ago, the span over which
frames compare. -/
def State.deviceArmed (s : State) (target : Nat) : Bool :=
  s.arms.armed.any (fun a => decide (a.1 = target) && decide (s.ticks < a.2 + 2 ^ 31))

/-- The target of a device arm is remembered, as long as it counts. -/
def State.noteArmed (s : State) (target : Nat) : State :=
  { s with arms := { s.arms with armed := (target, s.ticks) :: s.arms.armed.filter (fun a =>
      decide (a.1 ≠ target) && decide (s.ticks < a.2 + 2 ^ 31)) } }

/-- The partners of a device arm: the pages whose arm with its target is in progress and not past its boundary. -/
def State.partnersOf (s : State) (target : Nat) : List Page :=
  s.armPages.filter (fun p => p != xsPg && s.armBusy p && decide ((s.arm p).target = target) &&
    !(decide (s.armState p = 2) && after32 s.now (s.arm p).due))

/-- A page's arm is CHECKING, its flags and code cleared (R28). -/
def State.beginCheck (s : State) (p : Page) : State :=
  let a := armB p
  let s := ((s.setFld (R.ARM_STATUS_LATE a) 0).setFld (R.ARM_STATUS_CANCEL_LATE a) 0).setFld (R.ARM_STATUS_SHADOW_BLOCKED a) 0
  ((s.setFld (R.ARM_STATUS_ARM_IGNORED a) 0).setFld (R.ARM_STATUS_CODE a) 0).setFld (R.ARM_STATUS_STATE a) 1

/-- The effect of ARM_CTL.ARM. -/
def doArm (p : Page) (s : State) : State :=
  if (armOffset p.kind).isNone then s
  else
    if s.armBusy p then s.setFld (R.ARM_STATUS_ARM_IGNORED (armB p)) 1
    else
      let tgt := s.fld (R.ARM_TGT (armB p))
      let s := s.beginCheck p
      let s := s.setArm p { target := tgt, after := decide (p ≠ xsPg) && s.deviceArmed tgt }
      if p = xsPg then ({ s with arms := { s.arms with parts := s.partnersOf tgt, replan := none } }).noteArmed tgt else s

/-- ARM. -/
def execArm (π : Path) (p : Page) (s : State) : Host.Outcome State Fault Refusal := .next (s.hostCmd π (armB p) (doArm p))

/-! ### CANCEL and COPY_BACK (R27, R34, R37) -/

/-- The pages of the device arm, in ascending SOURCE, the order in which their events of one cycle stand (R438). -/
def State.devicePages (s : State) : List Page := s.armPages.filter (fun p => decide (p = xsPg ∨ p ∈ s.arms.parts))

/-- The whole device arm is cancelled. -/
def State.cancelDevice (s : State) : State :=
  let s := s.devicePages.foldl (fun s p => if p = xsPg ∨ s.armBusy p = true then s.armCancel p else s) s
  { s with arms := { s.arms with parts := [], replan := none } }

/-- The effect of ARM_CTL.COPY_BACK: the active registers and windows are copied into the shadow set. -/
def doCopyBack (p : Page) (s : State) : State :=
  if s.armBusy p then s
  else
    let s := (armFields p).foldl (fun s x => s.setFld x.1 (s.fld x.2)) s
    (armWins p.kind).foldl (fun s w =>
      { s with tables := s.tables.graft w.1 (w.1 + w.2.2) (moveWin s.tables w.2.1 w.1 w.2.2) }) s

/-- COPY_BACK. -/
def execCopyBack (π : Path) (p : Page) (s : State) : Host.Outcome State Fault Refusal := .next (s.hostCmd π (armB p) (doCopyBack p))

/-! ### Boundaries (R31 to R33) -/

/-- The configuration now in force. -/
def State.lastCfg (s : State) : Cfg := s.cfgs.head?.getD {}

/-- The first boundary of a level at or after a target that has not been processed, and whether the target's own boundary
had been (LATE). With no run active it is the target frame itself. -/
def State.boundary (s : State) (level target : Nat) : Nat × Bool :=
  let c := s.lastCfg
  let now := s.now
  let d := seqDiff 32 target now
  if level = 0 ∨ c.run = false then
    if 0 < d then (unsgn 48 ((now : Int) + d), false) else ((now + 1) % m48, true)
  else
    let u : Int := (c.span * (if level = 1 then 1 else c.pEff) : Nat)
    let rel := seqDiff 48 now c.f0
    let k : Int := max 0 (-(-(rel + d) / u))
    let late := decide (k * u ≤ rel)
    let k := if late then max 0 (rel / u + 1) else k
    (unsgn 48 ((c.f0 : Int) + k * u), late)

/-- Weights have been loaded, or are being, for the pass of the active configuration that begins at a frame (R239). -/
def State.weightsFor (s : State) (f : Nat) : Bool :=
  let c := s.lastCfg
  c.run && [s.beam.cur.map (fun w => w.pass), s.beam.free.map (fun w => w.pass), s.beam.loading.map (fun w => w.1)].any
    (fun o => o.any (fun j => decide (c.passFrame j = f)))

/-- The boundary of a device arm: a run start of CPLX4 direct ingest that is late takes an even frame (XS code 0x41). With BM among its
pages it waits for an integration whose first weights are not loaded yet (R239). -/
def State.deviceBoundary (s : State) (c : Cfg) (target : Nat) : Nat × Bool :=
  let b := s.boundary 2 target
  if b.2 = true ∧ c.run = true ∧ s.lastCfg.run = false ∧ c.mode = 2 ∧ b.1 % 2 = 1 then ((b.1 + 1) % m48, true)
  else if bmPg ∈ s.arms.parts ∧ s.weightsFor b.1 = true then ((b.1 + s.lastCfg.span * s.lastCfg.pEff) % m48, true) else b

/-- A page arm's boundary; a change of BM waits for a pass whose weights are not loaded yet (R239). -/
def State.pageBoundary (s : State) (p : Page) (level target : Nat) : Nat × Bool :=
  let b := s.boundary level target
  if p.kind = .bm ∧ level = 1 ∧ s.weightsFor b.1 = true then ((b.1 + s.lastCfg.span) % m48, true) else b

/-! ### ARM_CHECK_DONE (R30, R39) -/

/-- A page's check ends: PENDING with its boundary, or REJECTED. A page of a device arm is judged by its own checks
alone; the combination is the device arm's. -/
def doArmCheckDone (p : Page) (s : State) : State :=
  if p = xsPg ∨ s.armState p ≠ 1 then s
  else
    let a := s.arm p
    let level := s.armLevel p
    let joined := decide (p ∈ s.arms.parts) && s.armBusy xsPg
    let bads := s.ownChecks p a.after ++ (if joined || level == 2 then [] else s.loneChecks p)
    match firstBad bads with
    | some b => s.armReject p b
    | none =>
      let b := s.pageBoundary p level a.target
      let s := (s.armResult p 2 none).setArm p { a with due := b.1, level := level, sets := s.arms.gen }
      if b.2 then s.setFld (R.ARM_STATUS_LATE (armB p)) 1 else s

/-- ARM_CHECK_DONE. -/
def execArmCheckDone (p : Page) (s : State) : Host.Outcome State Fault Refusal := .next (doArmCheckDone p s)

/-! ### DEVICE_ARM_CHECK (R35, R36) -/

/-- The device arm is rejected: the XS arm with the code, its partners with 0x07. -/
def State.deviceReject (s : State) (b : Bad) : State :=
  let s := s.devicePages.foldl (fun s p =>
    if p = xsPg then s.armReject p b else if s.armBusy p then s.armReject p ⟨0x07, 0, 0, none⟩ else s) s
  { s with arms := { s.arms with parts := [], replan := none } }

/-- The device arm is accepted for its boundary. DESIGN CHOICE: that is an integration boundary whatever its pages change. -/
def State.deviceAccept (s : State) (c : Cfg) : State :=
  let b := s.deviceBoundary c (s.arm xsPg).target
  (xsPg :: s.arms.parts).foldl (fun s p =>
    let s := s.setArm p { s.arm p with due := b.1, level := 2, sets := s.arms.gen }
    let s := if p = xsPg then s.armResult p 2 none else s
    if b.2 then s.setFld (R.ARM_STATUS_LATE (armB p)) 1 else s) s

/-- The effect of DEVICE_ARM_CHECK, once no partner is CHECKING. -/
def doDeviceArmCheck (s : State) : State :=
  if s.armState xsPg ≠ 1 ∨ s.arms.parts.any (fun p => decide (s.armState p = 1)) = true then s
  else
    let c := s.armedCfg
    let parts := if s.arms.replan.isSome then [] else xsPg :: s.arms.parts
    let own := if s.arms.replan.isSome then [] else s.ownChecks xsPg false
    let s := s.showShape true c
    match firstBad (own ++ s.deviceChecks parts c (s.arm xsPg).target) with
    | some b => s.deviceReject b
    | none => s.deviceAccept c

/-- DEVICE_ARM_CHECK. -/
def execDeviceArmCheck (s : State) : Host.Outcome State Fault Refusal := .next (doDeviceArmCheck s)

/-! ### Application (R32, R474) -/

/-- The active fields of a page, and its active windows, as they now stand: the set in force from a frame on. -/
def State.snapSet (s : State) (p : Page) (frame : Nat) : ActSet :=
  let keys := (armFields p).map (fun x => x.2.key)
  let wins := armWins p.kind
  ⟨p, frame, s.regs.filter (fun e => decide (e.1 ∈ keys)),
    s.tables.filter (fun e => wins.any (fun w => decide (w.2.1 ≤ e.1) && decide (e.1 < w.2.1 + w.2.2)))⟩

/-- The shadow registers and windows of a page become its active ones. -/
def State.applySet (s : State) (p : Page) : State :=
  let s := (armFields p).foldl (fun s x => s.setFld x.2 (s.fld x.1)) s
  (armWins p.kind).foldl (fun s w =>
    { s with tables := s.tables.graft w.2.1 (w.2.1 + w.2.2) (moveWin s.tables w.1 w.2.1 w.2.2) }) s

/-- The set of a page is in force from a frame on. -/
def State.pushSet (s : State) (p : Page) (frame : Nat) : State :=
  { s with actives := s.snapSet p frame :: s.actives, arms := { s.arms with gen := s.arms.gen + 1 } }

/-- The report of an applied arm. -/
def State.armApplied (s : State) (p : Page) (frame : Nat) : State :=
  let a := armB p
  ((((s.setFld (R.ARM_STATUS_STATE a) 3).setFld (R.ARM_APPLIED a) frame).addFld (R.ARM_STATUS_APPLY_CNT a) 1)).armOver p

/-- A page arm applied on its own; equalisation changes the memory plan (R160, R162). -/
def State.applyPage (s : State) (p : Page) : State :=
  let f := (s.arm p).due
  let s := ((s.applySet p).pushSet p f).armClamps
  (if p.kind = .chn0 then s.showPlan s.lastCfg else s).armApplied p f

/-- Flags and views that follow the configuration in force (R160, R162, R189, R211, R213, R231, R235). -/
def State.showCfg (s : State) (c : Cfg) : State :=
  let s := s.showShape false c
  let s := s.setFld R.BAS_P_INT_EFF_PASSES c.pEff
  let s := s.setBit R.BAS_STAT_VIS32_RISK (decide (c.fmt = 0) && decide (21913098 < c.pEff * c.tLen))
  let s := s.setBit R.BAS_STAT_BOUND_RISK (decide (c.fmt = 2) && !c.autoSplit && decide (2 ^ 20 < c.pInt * c.shape.d))
  let z := decide (c.eB = 0)
  let s := s.setFld R.BM_UNITS_N_UNITS (if z then 0 else c.nUnits)
  let s := (s.setFld R.BM_UNITS_U_E (if z then 0 else c.uE)).setFld R.BM_UNITS_C_B_CYC (if z then 0 else c.cB)
  let s := s.setFld R.BM_WL_CYC (if z then 0 else c.tWl)
  (s.setFld R.MERE_STAT_PLAN_SRC 0).showPlan c

/-- A run starts at a frame (R17, R190). While an earlier one has passes still to be done, they go on, and the run's own follow
them. -/
def State.startRun (s : State) (c : Cfg) (f : Nat) : State :=
  let s := { s with sward := { s.sward with runs := (f, none) :: s.sward.runs } }
  let s := if s.sward.ends.any (fun e => !e.past) then s else
    { s.setFld R.BAS_CUR_INT 0 with
      sward := { s.sward with next := none, begun := none }
      mere := { s.mere with closed := [], next := c.pass0, pass := none }
      beam := { s.beam with cur := none, free := none, loading := none } }
  let s := (s.setFld R.XS_STAT_RUN 1).setFld R.XS_RUN_START f
  (s.info xsPg 0xE1 none (f % m32) (f / m32) 0 0).raise xsPg 1

/-- The run of a configuration stops at a frame, before the pass that a number names: its last integration still completes
(R190). -/
def State.stopRun (s : State) (old : Cfg) (j f : Nat) : State :=
  match s.sward.runs with
  | (a, none) :: t =>
    let e : RunEnd := { pass := j, last := if j = old.base then 0 else old.shownInt (old.intOf (j - 1)) }
    { s with sward := { s.sward with runs := (a, some f) :: t, ends := s.sward.ends ++ [e] } }.checkRunEnd
  | _ => s

/-- The areas of the voltage halves, or what of them is used, differ (R243). -/
def Cfg.voltsDiffer (a b : Cfg) : Bool :=
  a.bV0 != b.bV0 || a.bV1 != b.bV1 || a.beams != b.beams || a.bChans != b.bChans || a.tLen != b.tLen

/-- Numbers, release and free halves of a new configuration that follows an old one (R17, R18, R155, R243). The first numbers
of a run are the next even ones, which sequence number 0 stands for. -/
def numberCfg (old c : Cfg) (f : Nat) (pos : Option (List (Nat × Nat))) : Cfg :=
  let el := if old.run then (seqDiff 48 f old.f0).toNat / max 1 old.span else 0
  let j := old.pass0 + el
  let q := old.int0 + el / max 1 old.pEff
  let start := c.run && !old.run
  let p := if start then j + j % 2 else j
  let i := if start then q + q % 2 else q
  { c with
    f0 := f
    pass0 := p
    int0 := i
    base := if start then p else old.base
    ibase := if start then i else old.ibase
    mereNew := !(c.sameMere old) || (old.mereNew && !old.run)
    vFrom := if start || c.voltsDiffer old then some p else old.vFrom
    positions := pos }

/-- A new configuration takes effect at a frame. -/
def State.pushCfg (s : State) (f : Nat) : State :=
  let old := s.lastCfg
  let c := numberCfg old (s.buildCfg (fun _ => false)) f s.newPositions
  let s := { s with cfgs := c :: s.cfgs }
  let s := s.showCfg c
  let s := if c.run && !old.run then s.startRun c f else if old.run && !c.run then s.stopRun old c.pass0 f else s
  let fill := c.run && !old.run || !(c.sameMere old)
  let s := if fill then { s with mere := { s.mere with filling := true } } else s
  let s := if c.n ≠ old.n ∨ c.mode ≠ old.mode ∨ c.nCC ≠ old.nCC then s.clearResident R.ARR_INVAL_UNUSED else s
  if s.anyDegraded then { s with sward := { s.sward with replanDue := false } } else s

/-- The boundaries of the page arms that wait for a later one are those of the new grid (R31). -/
def State.moveDue (s : State) (f : Nat) : State :=
  s.armPages.foldl (fun s p =>
    let a := s.arm p
    if p = xsPg ∨ s.armState p ≠ 2 ∨ a.level = 0 ∨ seqDiff 48 a.due f ≤ 0 then s
    else s.setArm p { a with due := (s.pageBoundary p a.level a.target).1 }) s

/-- The device arm takes effect on all its pages together. -/
def State.applyDevice (s : State) : State :=
  let f := (s.arm xsPg).due
  let ps := s.devicePages.filter (fun p => decide (p = xsPg) || s.armBusy p)
  let s := match s.arms.replan with
    | some (x, b) => (s.setFld R.XS_CFG_E_X x).setFld R.XS_CFG_E_B b
    | none => ps.foldl (fun s p => s.applySet p) s
  let s := ps.foldl (fun s p => s.pushSet p f) s
  let s := (s.pushCfg f).armClamps
  let s := ps.foldl (fun s p => s.armApplied p f) s
  ({ s with arms := { s.arms with parts := [], replan := none } }).moveDue f

/-- NOW is the first frame of an integration of the run (R18, R19). -/
def State.integFrame (s : State) : Bool :=
  let c := s.cfgAt s.now
  let d := seqDiff 48 s.now c.f0
  s.running && c.run && decide (0 ≤ d) && decide (d % ((c.span * max 1 c.pEff : Nat) : Int) = 0)

/-- INTEG_OUT, where enabled. -/
def State.integOut (s : State) : State :=
  if s.integFrame && s.bit R.TRN2_PULSE_CFG_INTEG_EN then s.emit (.pulse 2 (max 1 (s.fld R.TRN2_PULSE_CFG_INTEG_W))) else s

/-- A device arm waits and NOW has reached its boundary. -/
def State.deviceDue (s : State) : Bool := decide (s.armState xsPg = 2) && after32 s.now (s.arm xsPg).due

/-- The device arm at its boundary: code 0x11 is judged again (R274). INTEG_OUT marks the frame where an integration of what is then
in force begins at it (R393). -/
def State.reachDevice (s : State) : State :=
  if s.deviceDue then
    let c := s.armedCfg
    (if s.workingTotal < c.eX + c.eB then s.deviceReject ⟨0x11, PageKind.xs.type, 0x48, none⟩ else s.applyDevice).integOut
  else s

/-- A page arm at its boundary: it waits for a device arm that has joined it; without one, a change at integration level is
rejected, and a change of other sets is checked again (R38, R39). -/
def State.reachPage (s : State) (p : Page) : State :=
  let a := s.arm p
  if p = xsPg ∨ s.armState p ≠ 2 ∨ after32 s.now a.due = false ∨ (p ∈ s.arms.parts ∧ s.armBusy xsPg = true) then s
  else if a.level = 2 then s.armReject p (s.needsDevice p)
  else if a.sets = s.arms.gen then s.applyPage p
  else match firstBad (s.ownChecks p false ++ s.loneChecks p) with
    | some b => s.armReject p b
    | none => s.applyPage p

/-- The effect of ARM_APPLY: every arm whose boundary NOW has reached, all in one cycle (R474). -/
def doArmApply (s : State) : State := s.oneCycle (fun s => s.armPages.foldl (fun s p => s.reachPage p) s.reachDevice)

/-- ARM_APPLY. -/
def execArmApply (s : State) : Host.Outcome State Fault Refusal := .next (doArmApply s)

/-! ### CANCEL (R27, R34, R37) -/

/-- The application of an arm and a CANCEL fall together: the arm is applied, and CANCEL_LATE set (R34). -/
def State.cancelLate (s : State) (p : Page) : State :=
  if s.armState p = 3 then s.setFld (R.ARM_STATUS_CANCEL_LATE (armB p)) 1 else s

/-- The effect of ARM_CTL.CANCEL. An arm whose boundary NOW has reached is applied in this cycle. -/
def doCancel (p : Page) (s : State) : State :=
  if !s.armBusy p then s
  else if p = xsPg ∨ (p ∈ s.arms.parts ∧ s.armBusy xsPg = true) then
    (if s.deviceDue then s.reachDevice.cancelLate p else s.cancelDevice)
  else if s.armState p = 2 ∧ after32 s.now (s.arm p).due = true then (s.reachPage p).cancelLate p
  else s.armCancel p

/-- CANCEL. -/
def execCancel (π : Path) (p : Page) (s : State) : Host.Outcome State Fault Refusal := .next (s.hostCmd π (armB p) (doCancel p))

/-! ### REPLAN (R274) -/

/-- The effect of REPLAN: a re-plan that is due starts once no XS arm is in progress. -/
def doReplan (s : State) : State :=
  if !s.sward.replanDue || s.armBusy xsPg then s
  else
    let c := s.lastCfg
    let k := c.eX + c.eB - s.workingTotal
    let x := c.eX - min k c.eX
    let b := c.eB - (k - min k c.eX)
    let s := s.beginCheck xsPg
    let s := s.setArm xsPg { target := (s.boundary 2 ((s.now + 1) % m48)).1 }
    { s with arms := { s.arms with parts := [], replan := some (x, b) }, sward := { s.sward with replanDue := false } }

/-- REPLAN. -/
def execReplan (s : State) : Host.Outcome State Fault Refusal := .next (doReplan s)

/-! ### Resets (R473) -/

/-- Arms of pages for which a test holds end with no result; the other pages of a device arm so hit are cancelled. The arm
groups themselves are cleared with the other fields of the pages. -/
def State.dropArms (s : State) (hit : Page → Bool) : State :=
  let busy := s.armPages.filter (fun p => s.armBusy p && hit p)
  let parts := s.devicePages
  let dev := s.armBusy xsPg && parts.any (fun p => decide (p ∈ busy))
  let s := busy.foldl (fun s p => (s.setFld (R.ARM_STATUS_STATE (armB p)) 0).setArm p {}) s
  if dev then
    let s := parts.foldl (fun s p => if s.armBusy p then s.armCancel p else s) s
    { s with arms := { s.arms with parts := [], replan := none } }
  else s

/-- The sets of pages for which a test holds are no longer in force; with the XS page's arm group its record of device arms
goes. -/
def State.dropSets (s : State) (hit : Page → Bool) : State :=
  { s with
    actives := s.actives.filter (fun a => !hit a.page)
    arms := { s.arms with gen := s.arms.gen + 1, armed := if hit xsPg then [] else s.arms.armed } }

/-- A configuration with no run that keeps no settings: the numbers go on after those of the runs so far. -/
def State.bareCfg (s : State) : Cfg :=
  let c := s.lastCfg
  let el := if c.run then (seqDiff 48 s.now c.f0).toNat / max 1 c.span + 2 else 0
  { pass0 := c.pass0 + el, int0 := c.int0 + el }

end Sys2Proof.Machine
end

