-- ==== Sys2Proof/Machine/Record.lean ====
section
/-! DEFINITION. The persistent record (spec/14 R419 to R423): the bytes of a bank, which bank is valid and newer, what a save
writes and a restore applies, and the save commands. -/

namespace Sys2Proof.Machine

def nvrPg : Page := pg .nvr

/-! ### The boot flash's bus (R419, R462) -/

/-- Where the image slots and the record banks lie. -/
def slotAt (k : Nat) : Nat := k * 0x400000
def bankAt (b : Nat) : Nat := 0x800000 + b * 0x10000

/-- Commands sent to the flash, in order. -/
def State.flashCmds (s : State) (l : List (Nat × Nat × List Byte)) : State := l.foldl (fun s x => s.emit (.flash x.1 x.2.1 x.2.2)) s

/-- Sectors erased from an address on, some number of them: write enable, erase, poll. -/
def flashErase (a n : Nat) : List (Nat × Nat × List Byte) :=
  (List.range n).flatMap (fun i => [(0x06, 0, []), (0xD8, a + i * 0x10000, []), (0x05, 0, [])])

/-- Bytes programmed at an address: write enable, program, poll. DESIGN CHOICE: one program command carries all of them, since the
spec gives no page size. -/
def flashProgram (a : Nat) (bs : List Byte) : List (Nat × Nat × List Byte) := [(0x06, 0, []), (0x02, a, bs), (0x05, 0, [])]

/-- A bank programmed with its header last, and read back (R422). -/
def flashBank (b : Nat) (bs : List Byte) : List (Nat × Nat × List Byte) :=
  flashProgram (bankAt b + 64) (bs.drop 64) ++ flashProgram (bankAt b) (bs.take 64) ++ [(0x6B, bankAt b, [])]

/-! ### The bytes of a bank (R420) -/

/-- Every page of the ordering code whose kind holds class K fields, in the order of R420. -/
def State.recordPages (s : State) : List Page :=
  [PageKind.slk, .gsv, .pcie, .map, .trn0, .trn1, .trn2, .tod, .tune].flatMap (fun k =>
    (List.range (k.count s.dev.code)).map (fun i => (⟨k, i⟩ : Page)))

/-- The BAR0 offsets of the registers with class K fields. -/
def State.recordRegs (s : State) : List Nat :=
  s.recordPages.flatMap (fun p => ((blockRegs p.kind).filter (fun r => r.cls == .K)).map (fun r => p.base + r.off))

/-- A section: its word and its payload. -/
def section_ (type : Nat) (payload : List Byte) : List Byte := leBytes 1 type ++ [0] ++ leBytes 2 payload.length ++ payload

/-- The value a save stores of a register: a subsystem identity that waits for POR stands in the record alone. -/
def State.recordValue (s : State) (off : Nat) : Nat :=
  if off = 0x3C004C then s.flash.subsys.getD (s.regValue off) else s.regValue off

/-- The body of a save: REGS, SPARES, RETIRED, and an empty section that makes its length a multiple of 8. -/
def State.recordBody (s : State) : List Byte :=
  section_ 1 (s.recordRegs.flatMap (fun o => leBytes 4 o ++ leBytes 4 (s.recordValue o))) ++
  section_ 2 (s.dram.spares.flatMap (fun x => leBytes 8 (x.chan + 2 ^ 6 * x.bank + 2 ^ 10 * x.index + 2 ^ 12 * x.row))) ++
  section_ 3 (leBytes 8 (s.fld R.MAP_RETIRED)) ++ section_ 0 []

/-- A bank: header and body, the CRC over both. -/
def bankBytes (seq : Nat) (body : List Byte) : List Byte :=
  let head := leBytes 4 0x4E565259 ++ leBytes 2 1 ++ leBytes 2 body.length ++ leBytes 4 seq ++ List.replicate 48 0
  head ++ leBytes 4 (crc32c (head ++ body)) ++ body

/-! ### Validity (R421) -/

/-- The sections of a body as type and payload; none where one does not end within it. A rest shorter than a section word
is no section. -/
def sections : Nat → List Byte → Option (List (Nat × List Byte))
  | 0, _ => some []
  | n + 1, bs =>
    if bs.length < 4 then some []
    else
      let len := leAt bs 2 2
      if bs.length < 4 + len then none
      else (sections n (bs.drop (4 + len))).map (fun r => (leAt bs 0 1, (bs.drop 4).take len) :: r)

/-- The body of a bank where it is valid. -/
def bankBody (bs : List Byte) : Option (List (Nat × List Byte)) :=
  let len := leAt bs 6 2
  let body := (bs.drop 64).take len
  if leAt bs 0 4 = 0x4E565259 ∧ leAt bs 4 2 = 1 ∧ len % 8 = 0 ∧ len ≤ 65472 ∧ body.length = len
    ∧ leAt bs 60 4 = crc32c (bs.take 60 ++ body)
  then sections (len + 1) body else none

def State.bank (s : State) (b : Nat) : List Byte := if b = 0 then s.flash.bank0 else s.flash.bank1
def State.setBank (s : State) (b : Nat) (bs : List Byte) : State :=
  { s with flash := if b = 0 then { s.flash with bank0 := bs } else { s.flash with bank1 := bs } }
def State.bankOk (s : State) (b : Nat) : Bool := (bankBody (s.bank b)).isSome
def State.bankSeq (s : State) (b : Nat) : Nat := leAt (s.bank b) 8 4

/-- The bank that holds the newer valid copy. -/
def State.newerBank (s : State) : Option Nat :=
  match s.bankOk 0, s.bankOk 1 with
  | true, true => some (if 0 < seqDiff 32 (s.bankSeq 1) (s.bankSeq 0) then 1 else 0)
  | true, false => some 0
  | false, true => some 1
  | false, false => none

/-- NVR.STAT, SEQ and SIZE as the banks stand. -/
def State.showRecord (s : State) : State :=
  let b := s.newerBank
  let s := (s.setBit R.NVR_STAT_BANK0_OK (s.bankOk 0)).setBit R.NVR_STAT_BANK1_OK (s.bankOk 1)
  match b with
  | some b => ((s.setFld R.NVR_STAT_BANK b).setFld R.NVR_SEQ (s.bankSeq b)).setFld R.NVR_SIZE_BYTES (leAt (s.bank b) 6 2)
  | none => s

/-! ### The restore (R417, R421) -/

/-- A class K register written from the record. -/
def State.restoreReg (s : State) (off v : Nat) : State :=
  if off ∉ s.recordRegs then s
  else match pageAt off with
    | none => s
    | some p => match regRow p.kind (off - p.base) with
      | none => s
      | some (_, r) => r.fields.foldl (fun s x => s.setFld ⟨off, x.lo, x.w⟩ (v / 2 ^ x.lo)) s

/-- The 8-byte entries of a payload. -/
def entries8 : Nat → List Byte → List Nat
  | 0, _ => []
  | n + 1, bs => if bs.length < 8 then [] else leAt bs 0 8 :: entries8 n (bs.drop 8)

/-- A soft spare of the record, applied again unless it is in use. -/
def State.restoreSpare (s : State) (e : Nat) : State :=
  let x : Spare := ⟨e % 64, e / 2 ^ 6 % 16, e / 2 ^ 10 % 4, e / 2 ^ 12 % 65536⟩
  if s.dram.spares.any (fun y => y.chan == x.chan && y.bank == x.bank && y.index == x.index) then s
  else { s with dram := { s.dram with spares := s.dram.spares ++ [x] } }

/-- One section applied: class K fields only after POR, spares and retired channels only where their controller's domain
was off. -/
def State.restoreSection (s : State) (por : Bool) (mem : Nat → Bool) (x : Nat × List Byte) : State :=
  let es := entries8 x.2.length x.2
  match x.1 with
  | 1 => if por then es.foldl (fun s e => s.restoreReg (e % m32) (e / m32)) s else s
  | 2 => es.foldl (fun s e => if mem (e % 64) then s.restoreSpare e else s) s
  | 3 => es.foldl (fun s e => s.setFld R.MAP_RETIRED
      ((List.range 64).foldl (fun m c => if e.testBit c && mem c && decide (c < s.nChans) then putBit m c true else m)
        (s.fld R.MAP_RETIRED))) s
  | _ => s

/-- Onamen reads the record: both banks judged, the newer one applied. -/
def State.restoreRecord (s : State) (por : Bool) (mem : Nat → Bool) : State :=
  let s := (s.flashCmds [(0x6B, bankAt 0, []), (0x6B, bankAt 1, [])]).showRecord
  let one := s.bankOk 0 != s.bankOk 1
  let s := if one then s.error nvrPg 0x12 0 0 none else s
  match s.newerBank with
  | none => if por then (s.setFld R.NVR_STAT_DEFAULTS 1).error nvrPg 0x10 0 0 none else s
  | some b =>
    let s := if por then s.setFld R.NVR_STAT_DEFAULTS 0 else s
    ((bankBody (s.bank b)).getD []).foldl (fun s x => s.restoreSection por mem x) s

/-! ### Saves (R422, R423) -/

/-- The Well in control. -/
def State.wellIn (s : State) : Option Nat :=
  if s.fld (R.WELL_STAT_STATE 0) = 2 then some 0 else if s.fld (R.WELL_STAT_STATE 1) = 2 then some 1 else none

/-- A save is requested or in progress: NVR.CTL.SAVE reads 1 (R8, R423). -/
def State.savePending (s : State) : Bool := s.bit R.NVR_STAT_BUSY || s.bit R.NVR_STAT_DIRTY

/-- The effect of NVR.CTL.SAVE: ignored while the field reads 1 (R8). -/
def doSave (s : State) : State := if s.savePending then s else s.requestSave

/-- SAVE. -/
def execSave (π : Path) (s : State) : Host.Outcome State Fault Refusal := .next (s.hostCmd π 0x380040 doSave)

/-- The effect of NVR_SAVE: a requested save begins while a Well is in control; the sector of its bank is erased. -/
def doNvrSave (s : State) : State :=
  if !s.bit R.NVR_STAT_DIRTY || s.bit R.NVR_STAT_BUSY || s.wellIn.isNone then s
  else
    let body := s.recordBody
    let (b, seq, s) := match s.newerBank with
      | some b => (1 - b, (s.bankSeq b + 1) % m32, s)
      | none => let (v, s) := s.free m32; (0, v, s)
    let s := (s.setBank b []).flashCmds (flashErase (bankAt b) 1)
    let s := { s with flash := { s.flash with saving := some (b, bankBytes seq body) } }
    ((s.setFld R.NVR_STAT_DIRTY 0).setFld R.NVR_STAT_BUSY 1).showRecord

/-- NVR_SAVE. -/
def execNvrSave (s : State) : Host.Outcome State Fault Refusal := .next (doNvrSave s)

/-- The mailbox command that asked for the save learns how it ended, once no further save is requested. -/
def State.tellSaved (s : State) (ok : Bool) : State :=
  if s.bit R.NVR_STAT_DIRTY then s else { s with well := { s.well with saved := some ok } }

/-- The effect of NVR_SAVE_DONE: the save is complete, or has failed after its retry and leaves its bank invalid. -/
def doNvrSaveDone (ok : Bool) (s : State) : State :=
  match s.flash.saving with
  | none => s
  | some (b, bs) =>
    let s := { s with flash := { s.flash with saving := none } }.setFld R.NVR_STAT_BUSY 0
    let s := s.flashCmds (flashBank b bs)
    if ok then
      let s := ((s.setBank b bs).showRecord).addFld R.NVR_WRITES 1
      ((s.info nvrPg 0xE1 none (leAt bs 8 4) 0 0 0).raise nvrPg 0).tellSaved true
    else
      let s := s.flashCmds (flashErase (bankAt b) 1 ++ flashBank b bs)
      let s := ((s.addFld R.NVR_FAILS 1).setFld R.NVR_STAT_WRITE_FAIL 1).error nvrPg 0x11 0 0 none
      (s.showRecord.raise nvrPg 1).tellSaved false

/-- NVR_SAVE_DONE. -/
def execNvrSaveDone (ok : Bool) (s : State) : Host.Outcome State Fault Refusal := .next (doNvrSaveDone ok s)

/-- A save that a reset interrupts: its bank stays invalid, and it is requested again (R423). -/
def State.dropSave (s : State) : State :=
  if s.flash.saving.isSome then
    ({ s with flash := { s.flash with saving := none } }.setFld R.NVR_STAT_BUSY 0).setFld R.NVR_STAT_DIRTY 1
  else s

end Sys2Proof.Machine
end

