-- ==== Sys2Proof/Machine/Well.lean ====
section
/-! DEFINITION. The Wells and their mailbox (spec/09 R276 to R278; spec/12 R372, R373; WELL and MBX pages). -/

namespace Sys2Proof.Machine

def wellPg (b : Nat) : Page := ⟨.well, b⟩
def mbxPg : Page := pg .mbx
def secPg : Page := pg .sec

/-! ### States of a Well -/

/-- STATE codes of a Well. -/
def wsOff : Nat := 0
def wsControl : Nat := 2
def wsStandby : Nat := 3
def wsTest : Nat := 4
def wsFailed : Nat := 5

/-- A Well's state changes: STATE_CHANGE. -/
def State.setWell (s : State) (b v : Nat) : State :=
  if s.fld (R.WELL_STAT_STATE b) = v then s else (s.setFld (R.WELL_STAT_STATE b) v).raise (wellPg b) 0

/-- MBX.STAT shows who is in control; a change raises WELL_CHANGE. -/
def State.showControl (s : State) : State :=
  let b := s.wellIn
  let w := b.getD (s.fld R.MBX_STAT_WELL)
  let change := decide (w ≠ s.fld R.MBX_STAT_WELL) || (b.isNone != s.bit R.MBX_STAT_NO_WELL)
  let s := (s.setFld R.MBX_STAT_WELL w).setBit R.MBX_STAT_NO_WELL b.isNone
  if change then s.raise mbxPg 1 else s

/-- The setpoint that hardware sends while no Well is in control (R455). -/
def State.sendAvs (s : State) (mv : Nat) : State := { s.emit (.avs mv) with pwr := { s.pwr with avsSent := mv, avsOpen := true } }

/-- The level that hardware sends and holds once no Well is in control. -/
def State.holdAvs (s : State) : State :=
  if s.wellIn.isNone && (decide (s.pwr.avsSent ≠ 800) || s.pwr.avsOpen) then s.sendAvs 800 else s

/-- A Well takes control. -/
def State.takeControl (s : State) (b : Nat) : State :=
  let s := (s.setWell b wsControl).showControl
  s.info (wellPg b) 0xE1 none b 0 0 0

/-- The class B fields of a page take their reset values (R14). -/
def State.softClear (s : State) (p : Page) : State :=
  s.clearRegs (fun k => decide (keyPage k = some p) && keyClass k == .B)

/-! ### Completion of a mailbox command (R372) -/

/-- Responses and status are written, BUSY clears, DONE is set and raised. -/
def State.mbxFinish (s : State) (status : Nat) (rsp : List Nat) : State :=
  let tag := s.well.op.getD 0 / 65536
  let s := (List.range 8).foldl (fun s i => s.setFld (R.MBX_RSP i) (rsp.getD i 0)) s
  let s := ((s.setFld R.MBX_STAT_STATUS status).setFld R.MBX_STAT_TAG tag).setFld R.MBX_STAT_BUSY 0
  let s := (s.setFld R.MBX_STAT_DONE 1).raise mbxPg 0
  { s with well := { s.well with op := none, saved := none, tested := none } }

/-- The command in progress is interrupted by the loss of its Well (R276). -/
def State.mbxInterrupt (s : State) : State :=
  if s.well.op.isSome then (s.mbxFinish 0x04 []).error mbxPg 0x10 0 0 none else s

/-! ### WELL_FAILURE, WELL_WATCHDOG_EXPIRY (R276) -/

/-- The other Well takes control if it is in STANDBY; else hardware holds VDD_CORE at 0.800 V. -/
def State.handOver_ (s : State) (b : Nat) : State :=
  let s := s.addFld (R.WELL_HANDOVERS_COUNT b) 1
  if s.fld (R.WELL_STAT_STATE (1 - b)) = wsStandby then s.takeControl (1 - b) else s.showControl.sendAvs 800

/-- A Well in control or in STANDBY fails: it gives up control, is reset by its watchdog and runs its self-test. -/
def State.wellFails (s : State) (b cause : Nat) : State :=
  let st := s.fld (R.WELL_STAT_STATE b)
  if 2 ≤ b ∨ (st ≠ wsControl ∧ st ≠ wsStandby) then s
  else
    let inC := decide (st = wsControl)
    let w := s.fld R.MBX_STAT_WELL
    let s := s.softClear (wellPg b)
    let s := if inC then ((s.softClear mbxPg).setFld R.MBX_STAT_WELL w).mbxInterrupt else s
    let s := ((s.setFld (R.WELL_STAT_STATE b) wsTest).setFld (R.WELL_STAT_CAUSE b) cause).addFld (R.WELL_FAILS_COUNT b) 1
    let s := ((s.error (wellPg b) 0x10 0 0 none).raise (wellPg b) 0).raise (wellPg b) 1
    let s := s.setFld R.ST_RST_CAUSE_WELL_WDT 1
    if inC then s.handOver_ b else s

/-- The effect of WELL_FAILURE, with its cause: 1 LOCKSTEP, 2 MEM_UE, 3 SELFCHECK. -/
def doWellFailure (b cause : Nat) (s : State) : State :=
  if cause = 1 ∨ cause = 2 ∨ cause = 3 then s.wellFails b cause else s

/-- WELL_FAILURE. -/
def execWellFailure (b cause : Nat) (s : State) : Host.Outcome State Fault Refusal := .next (doWellFailure b cause s)

/-- The effect of WELL_WATCHDOG_EXPIRY. -/
def doWellWatchdogExpiry (b : Nat) (s : State) : State :=
  let st := s.fld (R.WELL_STAT_STATE b)
  if 2 ≤ b ∨ (st ≠ wsControl ∧ st ≠ wsStandby) then s else (s.addFld (R.WELL_WDT_EXP_COUNT b) 1).wellFails b 4

/-- WELL_WATCHDOG_EXPIRY. -/
def execWellWatchdogExpiry (b : Nat) (s : State) : Host.Outcome State Fault Refusal := .next (doWellWatchdogExpiry b s)

/-! ### Self-tests, take-back, restart (R276 to R278) -/

/-- The effect of WELL_SELFTEST_DONE: Well A that passes takes control when none is in control, else it goes to STANDBY and waits
to take control back; Well B that passes goes to STANDBY (R277); one that fails stays FAILED. -/
def doWellSelftestDone (b : Nat) (ok : Bool) (s : State) : State :=
  if 2 ≤ b ∨ s.fld (R.WELL_STAT_STATE b) ≠ wsTest then s
  else
    let s := { s with well := { s.well with tested := if s.well.op.isSome then some ok else none } }
    let s := (s.setFld (R.WELL_CTL_RESTART b) 0).setFld (R.WELL_CTL_TEST b) 0
    if ok then
      if b = 1 then s.setWell 1 wsStandby
      else match s.wellIn with
        | none => s.takeControl 0
        | some c =>
          let s := s.setWell 0 wsStandby
          if c = 1 then { s with well := { s.well with takeback := true } } else s
    else
      let s := ((s.setWell b wsFailed).setFld (R.WELL_STAT_CAUSE b) 5).addFld (R.WELL_FAILS_COUNT b) 1
      (s.error (wellPg b) 0x11 0 0 none).raise (wellPg b) 1

/-- WELL_SELFTEST_DONE. -/
def execWellSelftestDone (b : Nat) (ok : Bool) (s : State) : Host.Outcome State Fault Refusal := .next (doWellSelftestDone b ok s)

/-- The effect of WELL_TAKEBACK: Well A takes control back while no mailbox command is in progress. -/
def doWellTakeback (s : State) : State :=
  if s.well.takeback && s.well.op.isNone && decide (s.fld (R.WELL_STAT_STATE 0) = wsStandby) && decide (s.wellIn = some 1) then
    let s := { s with well := { s.well with takeback := false } }
    ((s.addFld (R.WELL_HANDOVERS_COUNT 1) 1).setWell 1 wsStandby).takeControl 0
  else s

/-- WELL_TAKEBACK. -/
def execWellTakeback (s : State) : Host.Outcome State Fault Refusal := .next (doWellTakeback s)

/-- The effect of WELL.CTL.RESTART: a FAILED Well reboots and tests itself. -/
def doRestart (b : Nat) (s : State) : State :=
  if s.fld (R.WELL_STAT_STATE b) = wsFailed then (s.setWell b wsTest).setFld (R.WELL_CTL_RESTART b) 1 else s

/-- RESTART. -/
def execRestart (π : Path) (b : Nat) (s : State) : Host.Outcome State Fault Refusal :=
  .next (s.hostCmd π (0x280040 + 0x1000 * b) (doRestart b))

/-- The effect of WELL.CTL.TEST: a Well in STANDBY tests itself. -/
def doTest (b : Nat) (s : State) : State :=
  if s.fld (R.WELL_STAT_STATE b) = wsStandby then (s.setWell b wsTest).setFld (R.WELL_CTL_TEST b) 1 else s

/-- TEST. -/
def execTest (π : Path) (b : Nat) (s : State) : Host.Outcome State Fault Refusal :=
  .next (s.hostCmd π (0x280040 + 0x1000 * b) (doTest b))

/-! ### The mailbox (R372, R373) -/

/-- The Well in STANDBY. -/
def State.standbyWell (s : State) : Option Nat :=
  if s.fld (R.WELL_STAT_STATE 0) = wsStandby then some 0 else if s.fld (R.WELL_STAT_STATE 1) = wsStandby then some 1 else none

/-- The command just taken up will be denied: it arrived in a state that does not allow it (R373). -/
def State.mbxDeny (s : State) : State := { s with well := { s.well with op := s.well.op.map (fun x => x + 2 ^ 24) } }

/-- What a command sets in motion as it is taken up. -/
def State.mbxBegin (s : State) (op : Nat) : State :=
  if op = 0x11 then s.requestSave
  else if op = 0x12 then { s with flash := { s.flash with subsys := some (s.fld (R.MBX_ARG 0)) } }.requestSave
  else if op = 0x20 then (if s.running then s.mbxDeny else s)
  else if op = 0x30 then (match s.standbyWell with | some b => s.setWell b wsTest | none => s.mbxDeny)
  else s

/-- The effect of MBX.CTL.GO. -/
def State.mbxGo (s : State) : State :=
  if s.bit R.MBX_STAT_BUSY then s.setFld R.MBX_STAT_GO_IGN 1
  else
    let op := s.fld R.MBX_CMD_OPCODE
    let s := { s with well := { s.well with op := some (op + 65536 * s.fld R.MBX_CMD_TAG), saved := none, tested := none } }
    if s.wellIn.isNone then (s.mbxFinish 0x05 []).error mbxPg 0x11 0 0 none
    else (s.setFld R.MBX_STAT_BUSY 1).mbxBegin op

/-- A mailbox command as a whole: its opcode in CMD, then GO. -/
def State.mbxCommand (s : State) (op : Nat) : State :=
  (if s.bit R.MBX_STAT_BUSY then s else s.setFld R.MBX_CMD_OPCODE op).mbxGo

/-- The effects of the mailbox commands' GO. -/
def doPing (s : State) : State := s.mbxCommand 0x01
def doFwInfo (s : State) : State := s.mbxCommand 0x02
def doNvrRead (s : State) : State := s.mbxCommand 0x10
def doNvrFlush (s : State) : State := s.mbxCommand 0x11
def doSetSubsys (s : State) : State := s.mbxCommand 0x12
def doFwStage (s : State) : State := s.mbxCommand 0x20
def doWellTest (s : State) : State := s.mbxCommand 0x30
/-- A GO with an opcode that is not listed. -/
def doUnknownCmd (s : State) : State :=
  if s.fld R.MBX_CMD_OPCODE ∈ [0x01, 0x02, 0x10, 0x11, 0x12, 0x20, 0x30] then s.mbxCommand 0 else s.mbxGo

/-- The commands of the mailbox, each as a write of GO. -/
def execPing (π : Path) (s : State) : Host.Outcome State Fault Refusal := .next (s.hostCmd π 0x282044 doPing)
def execFwInfo (π : Path) (s : State) : Host.Outcome State Fault Refusal := .next (s.hostCmd π 0x282044 doFwInfo)
def execNvrRead (π : Path) (s : State) : Host.Outcome State Fault Refusal := .next (s.hostCmd π 0x282044 doNvrRead)
def execNvrFlush (π : Path) (s : State) : Host.Outcome State Fault Refusal := .next (s.hostCmd π 0x282044 doNvrFlush)
def execSetSubsys (π : Path) (s : State) : Host.Outcome State Fault Refusal := .next (s.hostCmd π 0x282044 doSetSubsys)
def execFwStage (π : Path) (s : State) : Host.Outcome State Fault Refusal := .next (s.hostCmd π 0x282044 doFwStage)
def execWellTest (π : Path) (s : State) : Host.Outcome State Fault Refusal := .next (s.hostCmd π 0x282044 doWellTest)
def execUnknownCmd (π : Path) (s : State) : Host.Outcome State Fault Refusal := .next (s.hostCmd π 0x282044 doUnknownCmd)

/-! ### MBX_COMMAND_DONE -/

/-- The boot ROM's check of an image (R424). -/
def State.imgOk (s : State) (x : Img) : Bool :=
  x.good && decide (x.key < 4) && !((s.fld R.FUSE_SEC_CFG_KEY_REVOKED).testBit x.key)
    && decide (s.fld R.FUSE_SEC_CFG_MIN_FW_VER ≤ x.version / 2 ^ 24)

/-- The version that the Wells run. -/
def State.fwVersion (s : State) : Nat := match s.flash.running with | some x => x.version | none => 0

/-- NVR_READ: bytes of the newer valid bank (bank 0 where none is), erased flash reading 0xFF. -/
def State.mbxNvrRead (s : State) : State :=
  let o := s.fld (R.MBX_ARG 0)
  let n := s.fld (R.MBX_ARG 1)
  if n = 0 ∨ 32 < n ∨ 65536 < o + n then s.mbxFinish 0x02 []
  else
    let k := s.newerBank.getD 0
    let bs := s.bank k
    let s := s.flashCmds [(0x6B, bankAt k + o, [])]
    let b (i : Nat) : Nat := if i < n then (match bs[o + i]? with | some x => x.toNat | none => 255) else 0
    s.mbxFinish 0x00 ((List.range 8).map (fun k => b (4 * k) + 256 * b (4 * k + 1) + 65536 * b (4 * k + 2) + 16777216 * b (4 * k + 3)))

/-- Every byte of a stretch lies in an enabled region (R343). -/
def State.inRegions (s : State) (a n : Nat) : Bool :=
  (wordSpan a n).all (fun x => (s.placeOf .wellA x.1).isSome)

/-- FW_STAGE: the Well in control reads the image from DRAM and checks it before the flash is written; it goes to the slot that is
not running. An address in no region is an argument out of range, judged before anything is read (DESIGN CHOICE: the spec does not
say when), and bytes that come poisoned spell no valid image (DEDUCED). -/
def State.mbxFwStage (s : State) (w : Nat) (x : Img) (flashOk : Bool) : State :=
  let a := s.fld (R.MBX_ARG 0) + m32 * s.fld (R.MBX_ARG 1)
  let n := s.fld (R.MBX_ARG 2)
  let slot := 1 - s.fld R.SEC_BOOT_SLOT
  if n = 0 ∨ 4194304 < n ∨ s.inRegions a n = false then s.mbxFinish 0x02 []
  else
  let (r, s) := s.readDram (if w = 0 then .wellA else .wellB) a n
  if r.marks.any id || !s.imgOk x then (s.addFld R.SEC_AUTH_FAILS_COUNT 1).mbxFinish 0x07 []
  else
    let img := if flashOk then some x else none
    let s := s.flashCmds (flashErase (slotAt slot) (ceilDiv n 0x10000) ++ flashProgram (slotAt slot) r.bytes ++ [(0x6B, slotAt slot, [])])
    let s := { s with flash := if slot = 0 then { s.flash with slot0 := img } else { s.flash with slot1 := img } }
    if flashOk then s.mbxFinish 0x00 [slot] else s.mbxFinish 0x06 []

/-- A command that waits for a save: its end. -/
def State.mbxSaved (s : State) (rsp : List Nat) : State :=
  match s.well.saved with
  | none => s
  | some true => s.mbxFinish 0x00 rsp
  | some false => s.mbxFinish 0x06 []

/-- The effect of MBX_COMMAND_DONE: the Well in control completes the command in progress, with the image it found at
FW_STAGE's address and whether the flash took it. -/
def doMbxCommandDone (x : Img) (flashOk : Bool) (s : State) : State :=
  match s.well.op, s.wellIn with
  | some o, some w =>
    let op := o % 65536
    if 2 ^ 24 ≤ o then { s with well := { s.well with op := some (o % 2 ^ 24) } }.mbxFinish 0x03 []
    else if op = 0x01 then s.mbxFinish 0x00 [w, s.fwVersion]
    else if op = 0x02 then
      s.mbxFinish 0x00 [s.fwVersion, (match s.flash.running with | some y => y.build | none => 0), s.fld R.SEC_BOOT_SLOT,
        s.fld R.SEC_BOOT_KEY_INDEX]
    else if op = 0x10 then s.mbxNvrRead
    else if op = 0x11 then s.mbxSaved [s.fld R.NVR_SEQ]
    else if op = 0x12 then s.mbxSaved []
    else if op = 0x20 then s.mbxFwStage w x flashOk
    else if op = 0x30 then (match s.well.tested with
      | none => s
      | some ok => s.mbxFinish 0x00 [if ok then 0 else 1])
    else s.mbxFinish 0x01 []
  | _, _ => s

/-- MBX_COMMAND_DONE. -/
def execMbxCommandDone (x : Img) (flashOk : Bool) (s : State) : Host.Outcome State Fault Refusal :=
  .next (doMbxCommandDone x flashOk s)

end Sys2Proof.Machine
end

