-- ==== Sys2Proof/Machine/Attest.lean ====
section
/-! DEFINITION. Trust and attestation (spec/14 R425, R426; spec/12 R367, R368): opening debug, and the DOE mailbox. -/

namespace Sys2Proof.Machine

/-! ### Debug opening (R426) -/

/-- The effect of SEC.DBG_CTL.OPEN on a path: obeyed only as the write that follows the key to PG_KEY. -/
def doOpen (π : Path) (s : State) : State :=
  if pathKey π secPg.base ∉ s.opened then s
  else if s.bit R.SEC_DBG_STAT_OPENED || s.bit R.SEC_DBG_STAT_ERASING then s
  else if s.bit R.FUSE_SEC_CFG_DBG_PERM_CLOSED then (s.setFld R.SEC_DBG_STAT_REFUSED 1).error secPg 0x11 0 0 none
  else s.setFld R.SEC_DBG_STAT_ERASING 1

/-- OPEN. -/
def execOpen (π : Path) (s : State) : Host.Outcome State Fault Refusal := .next (s.hostCmd π 0x340040 (doOpen π))

/-- The effect of KEY_ERASE_DONE: the key SRAM holds zeros and debug is open, or its read-back found a word that is not. -/
def doKeyEraseDone (ok : Bool) (s : State) : State :=
  if !s.bit R.SEC_DBG_STAT_ERASING then s
  else
    let s := { s with flash := { s.flash with keys := false } }.setFld R.SEC_DBG_STAT_ERASING 0
    if ok then ((s.setFld R.SEC_DBG_STAT_OPENED 1).info secPg 0xE1 none 0 0 0 0).raise secPg 0
    else ((s.setFld R.SEC_DBG_STAT_ERASE_FAIL 1).error secPg 0x12 0 0 none).raise secPg 1

/-- KEY_ERASE_DONE. -/
def execKeyEraseDone (ok : Bool) (s : State) : Host.Outcome State Fault Refusal := .next (doKeyEraseDone ok s)

/-! ### The DOE mailbox (R367, R368) -/

/-- DOE is served: the Wells have completed bring-up step 5, and one is in control. Else the DOE Busy bit reads 1. -/
def State.doeServed (s : State) : Bool := decide (5 ≤ s.fld R.ST_STATE_STEP) && s.wellIn.isSome

/-- A response leaves the mailbox: the object written is taken, and none is in progress. An object that grew too long is answered
by nothing until an Abort (R367). -/
def State.doeAnswer (s : State) (code : Nat) (payload : List Nat) : State :=
  if s.doeServed && !s.pcie.doeErr then { s with pcie := { s.pcie with doe := [] } }.emit (.doe code payload) else s

/-- A SHA-384 digest or a half of a P-384 signature: 384 bits. -/
def bits384 (purpose : Nat) (msg : List Nat) : Nat := Config.crypto purpose msg % 2 ^ 384

/-- An ECDSA P-384 signature with the device identity key: its two halves. -/
def State.signature (s : State) (msg : List Nat) : List Nat :=
  [bits384 5 (s.fld R.ID_SERIAL :: msg), bits384 6 (s.fld R.ID_SERIAL :: msg)]

/-- The length of the certificate chain of slot 0, and its digest. -/
def State.chainLen (s : State) : Nat := Config.crypto 4 [s.fld R.ID_SERIAL] % 65536
def State.chainDigest (s : State) : Nat := bits384 3 [s.fld R.ID_SERIAL]

/-- The content of a measurement block (R368). -/
def State.measurement (s : State) (i : Nat) : List Nat :=
  if i = 1 then [bits384 1 []]
  else if i = 2 then (match s.flash.running with | some x => [bits384 2 [x.version, x.build, x.key]] | none => [0])
  else if i = 3 then [s.regValue 0x40, s.fld R.ID_SERIAL, s.regValue 0x3044]
  else [s.fld R.SEC_DBG_STAT_OPENED]

/-- The SPDM error codes of an ERROR response. -/
def spdmInvalid : Nat := 0x01
def spdmUnsupported : Nat := 0x07

/-- An ERROR response. -/
def State.spdmError (s : State) (code data : Nat) : State := s.doeAnswer 0x7F [code, data]

/-- The effects of the DOE commands. -/
def doDoeDiscovery (index : Nat) (s : State) : State :=
  s.doeAnswer 0 (if index = 0 then [0x0001, 0x00, 1] else if index = 1 then [0x0001, 0x01, 0] else [0xFFFF, 0xFF, 0])
def doGetVersion (s : State) : State := s.doeAnswer 0x04 [0x1200, 0x1300]
def doGetCapabilities (s : State) : State := s.doeAnswer 0x61 [4096]
def doNegotiateAlgorithms (s : State) : State := s.doeAnswer 0x63 [0x80, 0x02]
def doGetDigests (s : State) : State := s.doeAnswer 0x01 [0x01, s.chainDigest]
def doGetCertificate (slot off len : Nat) (s : State) : State :=
  if slot ≠ 0 ∨ s.chainLen ≤ off then s.spdmError spdmInvalid 0
  else
    let n := min len (s.chainLen - off)
    s.doeAnswer 0x02 (slot :: n :: (s.chainLen - off - n) ::
      (List.range n).map (fun i => Config.crypto 7 [s.fld R.ID_SERIAL, off + i] % 256))
def doChallenge (slot : Nat) (nonce : List Byte) (s : State) : State :=
  if slot ≠ 0 then s.spdmError spdmInvalid 0
  else
    let own := Config.freeNat s.freeCtr % 2 ^ 256
    let s := { s with freeCtr := s.freeCtr + 1 }
    let msg := [s.chainDigest, own]
    s.doeAnswer 0x03 (msg ++ s.signature (leNat nonce :: msg))
def doGetMeasurements (index : Nat) (signed : Bool) (nonce : List Byte) (s : State) : State :=
  let blocks := if index = 0 then some [4]
    else if index = 0xFF then some ((List.range 4).flatMap (fun i => (i + 1) :: s.measurement (i + 1)))
    else if index ≤ 4 then some (index :: s.measurement index)
    else none
  match blocks with
  | none => s.spdmError spdmInvalid 0
  | some m => s.doeAnswer 0x60 (m ++ (if signed then s.signature (leNat nonce :: m) else []))
def doUnsupportedRequest (code : Nat) (s : State) : State := s.spdmError spdmUnsupported code
/-- The request in progress ends: what the host has written of a data object is dropped, with the error of one too long. -/
def doDoeAbort (s : State) : State := { s with pcie := { s.pcie with doe := [], doeErr := false } }

/-- The DOE commands. -/
def execDoeDiscovery (index : Nat) (s : State) : Host.Outcome State Fault Refusal := .next (doDoeDiscovery index s)
def execGetVersion (s : State) : Host.Outcome State Fault Refusal := .next (doGetVersion s)
def execGetCapabilities (s : State) : Host.Outcome State Fault Refusal := .next (doGetCapabilities s)
def execNegotiateAlgorithms (s : State) : Host.Outcome State Fault Refusal := .next (doNegotiateAlgorithms s)
def execGetDigests (s : State) : Host.Outcome State Fault Refusal := .next (doGetDigests s)
def execGetCertificate (slot off len : Nat) (s : State) : Host.Outcome State Fault Refusal :=
  .next (doGetCertificate slot off len s)
def execChallenge (slot : Nat) (nonce : List Byte) (s : State) : Host.Outcome State Fault Refusal := .next (doChallenge slot nonce s)
def execGetMeasurements (index : Nat) (signed : Bool) (nonce : List Byte) (s : State) : Host.Outcome State Fault Refusal :=
  .next (doGetMeasurements index signed nonce s)
def execUnsupportedRequest (code : Nat) (s : State) : Host.Outcome State Fault Refusal := .next (doUnsupportedRequest code s)
def execDoeAbort (s : State) : Host.Outcome State Fault Refusal := .next (doDoeAbort s)

end Sys2Proof.Machine
end

