-- ==== Sys2Proof/Machine/Dma.lean ====
section
/-! DEFINITION. The egress DMA (spec/11 R318 to R338, R345, R346, R348): channels, program fetch, MOVE and its bursts, LOOP,
errors and resets. WAIT and SIGNAL, which reach the register fabric, stand in `Sys2Proof.Machine.Signal`. -/

namespace Sys2Proof.Machine

def dmachPg (n : Nat) : Page := ⟨.dmach, n⟩
def pciePg : Page := pg .pcie
def mxPg : Page := pg .mx

/-! ### Channels and their states (R328) -/

def csIdle : Nat := 0
def csRunning : Nat := 1
def csWaiting : Nat := 2
def csStopping : Nat := 3
def csStopped : Nat := 4
def csDone : Nat := 5
def csError : Nat := 6

def State.dmaCh (s : State) (n : Nat) : DmaCh := s.dma.chans.get {} n
def State.setDmaCh (s : State) (n : Nat) (c : DmaCh) : State :=
  { s with dma := { s.dma with chans := s.dma.chans.put {} n c } }

/-- The state of a channel, and the maps of the DMA page that show it. -/
def State.setDmaState (s : State) (n st : Nat) : State :=
  let s := s.setFld (R.DMACH_STAT_STATE n) st
  let s := s.setFld R.DMA_RUN_MAP (putBit (s.fld R.DMA_RUN_MAP) n (decide (st = 1 ∨ st = 2 ∨ st = 3)))
  s.setFld R.DMA_ERR_MAP (putBit (s.fld R.DMA_ERR_MAP) n (decide (st = 6)))

/-- Bytes that granted bursts of a channel hold in the data buffer. -/
def DmaCh.held (c : DmaCh) : Nat := match c.move with | some m => (m.reads.map (·.len)).sum + m.funnel.length | none => 0
def State.bufBytes (s : State) : Nat := ((List.range 32).map (fun n => (s.dmaCh n).held)).sum

/-- DMA.BUF_USED as the granted bursts stand. -/
def State.showBuf (s : State) : State := s.setFld R.DMA_BUF_USED_KIB (ceilDiv s.bufBytes 1024)

/-- DMACH.CRC as the covered bytes stand (R332). -/
def State.showCrc (s : State) (n : Nat) : State :=
  let c := s.dmaCh n
  s.setFld (R.DMACH_CRC n) (if c.covered then (c.crc ^^^ 0xFFFFFFFF#32).toNat else 0)

/-- LOOP and LOOP_CNT as the active loops stand, level 0 the outermost. An endless loop keeps what its LOOP_CNT shows. -/
def State.showLoops (s : State) (n : Nat) : State :=
  let ls := (s.dmaCh n).loops.reverse
  let s := s.setFld (R.DMACH_LOOP_DEPTH n) ls.length
  (List.range 4).foldl (fun s k => match ls[k]? with
    | none => s.setFld (R.DMACH_LOOP_CNT n k) 0
    | some (_, _, none) => s
    | some (_, _, some left) => s.setFld (R.DMACH_LOOP_CNT n k) left) s

/-! ### Requests at the target ports of the matrix (R345, R347) -/

/-- A request granted at target t and answered. Targets 0 to 7 are MC0 to MC7, 8 REG, 9 PCIE_OUT, 10 FLASH, 11 ESRAM. -/
def State.mxCount (s : State) (t : Nat) : State := (s.addFld (R.MX_REQ t) 1).addFld (R.MX_RSP t) 1

/-- A request granted at target t that awaits its response, and the response of one. -/
def State.mxOpen (s : State) (t : Nat) : State := (s.addFld (R.MX_REQ t) 1).addFld (R.MX_OUT t) 1
def State.mxClose (s : State) (t : Nat) : State := (s.addFld (R.MX_RSP t) 1).subFld (R.MX_OUT t) 1

/-- An access of a master to memory: DESIGN CHOICE: one request at each controller that it reaches. -/
def State.mxMem (s : State) (m : Master) (addr len : Nat) : State :=
  (((wordSpan addr len).filterMap (fun x => s.mcOf m x.1)).eraseDups).foldl (fun s k => s.mxCount k) s

/-! ### The program SRAM (R348), the event SRAM and PCIE_OUT (R336, R352, R363) -/

/-- A byte of a table window whose words stand in `State.tables`, at a BAR0 offset. -/
def State.tabByte (s : State) (o : Nat) : Byte := BitVec.ofNat 8 (s.tab (o / 4 * 4) / 2 ^ (8 * (o % 4)))

/-- Bytes of the program SRAM at 0x0140_0000 or of the event SRAM at 0x0180_0000, and whether each carries poison. -/
def State.sramRead (s : State) (base o n : Nat) : List Byte × List Bool :=
  ((List.range n).map (fun i => s.tabByte (base + o + i)),
   (List.range n).map (fun i => decide ((base + o + i) / 4 * 4 ∈ s.tabPoison)))

/-- One word of the program SRAM written in the bytes a mask names: a poisoned byte marks it, a whole clean write clears
the mark. -/
def State.psramWord (s : State) (w v be : Nat) (bad : Bool) : State :=
  let o := 0x1400000 + 4 * w
  let s := s.setTab o (mergeBytes (s.tab o) v be)
  if bad then { s with tabPoison := o :: s.tabPoison.filter (· != o) }
  else if be = 15 then { s with tabPoison := s.tabPoison.filter (· != o) } else s

/-- Bytes written to the program SRAM, with the poison of each. -/
def State.psramWrite (s : State) (o : Nat) (bs : List Byte) (marks : List Bool) : State :=
  if bs.isEmpty then s
  else (List.range ((o + bs.length - 1) / 4 - o / 4 + 1)).foldl (fun s k =>
    let w := o / 4 + k
    let at_ (i : Nat) : Option Nat := if o ≤ 4 * w + i ∧ 4 * w + i < o + bs.length then some (4 * w + i - o) else none
    let v := (List.range 4).foldl (fun a i => match at_ i with
      | some j => a + 2 ^ (8 * i) * (bs.getD j 0).toNat | none => a) 0
    let be := (List.range 4).foldl (fun a i => if (at_ i).isSome then a + 2 ^ i else a) 0
    let bad := (List.range 4).any (fun i => match at_ i with | some j => marks.getD j false | none => false)
    s.psramWord w v be bad) s

/-- PCIE_OUT refuses a HOST request while Bus Master Enable is 0 (R336). -/
def State.bmeDrop (s : State) : State :=
  ((s.addFld R.PCIE_BME_DROP 1).setFld R.PCIE_EVT_BME_DROP 1).error pciePg 0x12 0 0 none

/-- Four free values: the header of a TLP, which the spec does not give. -/
def State.freeHdr (s : State) : List Nat × State :=
  ((List.range 4).map (fun i => Config.freeNat (s.freeCtr + i) % m32), { s with freeCtr := s.freeCtr + 4 })

/-- An error reported through AER (R350, R363) by its bit of the uncorrectable error status: as advisory non-fatal where it is
so and its severity is not fatal. Its header is logged where it is the first that stands, and a message leaves where nothing
masks it. PRESUMED: the registers and the rules are those of the PCI Express Base Specification. -/
def State.aer (s : State) (n : Nat) (advisory : Bool) : State :=
  let c := s.pcie
  let fatal := c.aerUncSev.testBit n
  let adv := advisory && !fatal
  let masked := c.aerUncMask.testBit n || (adv && c.aerCorMask.testBit 13)
  let sev := if fatal then 2 else if adv then 0 else 1
  let (h, s) := if c.aerUnc = 0 ∧ masked = false then s.freeHdr else (c.aerHdr, s)
  let s := { s with pcie := { c with
    aerUnc := putBit c.aerUnc n true
    aerCor := if adv then putBit c.aerCor 13 true else c.aerCor
    errSeen := putBit c.errSeen (if fatal then 2 else if adv then 0 else 1) true
    aerHdr := h } }
  if masked || !c.up || !c.errEn.testBit sev then s else s.emit (.errMsg sev)

/-- A TLP with EP set is received (R363): it is reported as an advisory non-fatal error. -/
def State.epReceived (s : State) : State :=
  ((((s.addFld R.PCIE_EP_RX 1).setFld R.PCIE_EVT_EP_RX 1).error pciePg 0x10 0 0 none).raise pciePg 2).aer 12 true

/-- The data of a HOST write as TLPs of at most Max Payload Size (R350), each with EP where it carries poison (R333). -/
def hostTlps (mps addr : Nat) (ro : Bool) : Nat → List Byte → List Bool → State → State
  | 0, _, _, s => s
  | fuel + 1, bs, marks, s =>
    if bs.isEmpty then s
    else
      let ep := (marks.take mps).any id
      let s := s.emit (.hostWrite addr ep ro (bs.take mps))
      hostTlps mps (addr + mps) ro fuel (bs.drop mps) (marks.drop mps) (if ep then s.addFld R.PCIE_EP_TX 1 else s)

/-- A write to HOST: none, or the cause of its error response (1 error response, 3 dropped by PCIE_OUT). -/
def State.hostOut (s : State) (addr : Nat) (ro : Bool) (bs : List Byte) (marks : List Bool) : Option Nat × State :=
  let s := s.mxCount 9
  if !s.pcie.bme then (some 3, s.bmeDrop)
  else if !s.pcie.up then (some 1, s)
  else (none, hostTlps (max 1 s.pcie.maxPayload) addr ro bs.length bs marks s)

/-- HOST reads of a range in dwords, cut at 4 KiB and at the maximum read request size (R330). -/
def hostReads (n mrrs : Nat) : Nat → Nat → Nat → State → State
  | 0, _, _, s => s
  | fuel + 1, addr, len, s =>
    if len = 0 then s
    else
      let k := min len (min mrrs (4096 - addr % 4096))
      hostReads n mrrs fuel (addr + k) (len - k) ((s.mxCount 9).emit (.hostRead n addr k))

/-- A HOST read issued by a channel for the bytes at an address; true where PCIE_OUT refuses it. -/
def State.hostIn (s : State) (n addr len : Nat) : Bool × State :=
  if !s.pcie.bme then (true, (s.mxCount 9).bmeDrop)
  else if !s.pcie.up then (true, s.mxCount 9)
  else
    let lo := addr / 4 * 4
    let l := (addr + len + 3) / 4 * 4 - lo
    (false, hostReads n (max 4 s.pcie.maxRead) l lo l s)

/-- What a completion of a HOST read is besides its data: one with EP set is counted (R363), one that does not come in time
too (R350). -/
def State.cplSeen (s : State) (c : Cpl) : State :=
  match c with
  | .good | .failed => s
  | .poisoned => s.epReceived
  | .timedOut =>
    let s := ((s.addFld R.PCIE_CPL_TIMEOUT 1).setFld R.PCIE_EVT_CPL_TIMEOUT 1).error pciePg 0x11 0 0 none
    (s.raise pciePg 3).aer 14 false

/-! ### The reads and writes of a MOVE (R330) -/

/-- The bytes of the next write of a stretch of the destination: head, body or tail (R330). -/
def cutLen (space addr len : Nat) : Nat :=
  let big := if space = 1 then 512 else 4096
  if addr % 64 ≠ 0 then min len (64 - addr % 64) else if len < 64 then len else min (len / 64 * 64) (big - addr % big)

/-- The writes of one stretch of the destination (R330). -/
def cutWrites (space : Nat) : Nat → Nat → Nat → Nat → List Burst
  | 0, _, _, _ => []
  | fuel + 1, off, addr, len =>
    if len = 0 then []
    else
      let k := cutLen space addr len
      ⟨off, k, space, addr, false⟩ :: cutWrites space fuel (off + k) (addr + k) (len - k)

/-- The writes of every stretch, in ascending order. -/
def cutSegs : Nat → List (Nat × Nat × Nat) → List Burst
  | _, [] => []
  | off, (sp, a, l) :: t => cutWrites sp l off a l ++ cutSegs (off + l) t

/-- The bytes of the next read of a stretch of the source (R330): within 4 KiB, and of HOST within the maximum read request. -/
def readLen (mrrs space addr len : Nat) : Nat :=
  min len (if space = 1 then min (addr / 4 * 4 + mrrs - addr) (4096 - addr % 4096) else 4096 - addr % 4096)

/-- The reads of one stretch of the source, and those of every stretch, in ascending order (R330). -/
def cutReads (mrrs space : Nat) : Nat → Nat → Nat → Nat → List Burst
  | 0, _, _, _ => []
  | fuel + 1, off, addr, len =>
    if len = 0 then []
    else
      let k := readLen mrrs space addr len
      ⟨off, k, space, addr, false⟩ :: cutReads mrrs space fuel (off + k) (addr + k) (len - k)
def cutSource (mrrs : Nat) : Nat → List (Nat × Nat × Nat) → List Burst
  | _, [] => []
  | off, (sp, a, l) :: t => cutReads mrrs sp l off a l ++ cutSource mrrs (off + l) t

/-- The stretch at a byte of a list of stretches, from that byte on. -/
def segAt : List (Nat × Nat × Nat) → Nat → Option (Nat × Nat × Nat)
  | [], _ => none
  | (sp, a, l) :: t, off => if off < l then some (sp, a + off, l - off) else segAt t (off - l)

/-- The part of a list of stretches from a byte on. -/
def srcSlice : List (Nat × Nat × Nat) → Nat → Nat → List (Nat × Nat × Nat)
  | [], _, _ => []
  | (sp, a, l) :: t, off, n =>
    if n = 0 then []
    else if l ≤ off then srcSlice t (off - l) n
    else (sp, a + off, min n (l - off)) :: srcSlice t 0 (n - min n (l - off))

/-- A burst written: none, or the cause of its error response. -/
def State.dmaWrite (s : State) (sp addr : Nat) (ro : Bool) (bs : List Byte) (marks : List Bool) : Option Nat × State :=
  if sp = 0 then
    let ws := (wordSpan addr bs.length).map (fun x => ((marks.drop (x.1 + x.2.1 - addr)).take (x.2.2 - x.2.1)).any id)
    let (r, s) := (s.mxMem .dma addr bs.length).writeDramP .dma addr bs (fun i => ws.getD i false)
    ((match r with | .ok => none | .decode | .both => some 2 | .errResp => some 1), s)
  else if sp = 1 then s.hostOut addr ro bs marks
  else if 262144 < addr + bs.length then (some 2, s.decodeError 0 1 addr true)
  else (none, s.psramWrite addr bs marks)

/-- The bytes of a burst leave the engine. -/
def State.burstOut (s : State) (n : Nat) (b : Burst) (bs : List Byte) (marks : List Bool) : State :=
  let (cause, s) := s.dmaWrite b.space b.addr (s.bit (R.DMACH_CFG_RELAXED n)) bs marks
  let s := ((s.addFld R.DMA_WR_BYTES b.len).subFld R.DMA_INFLIGHT b.len).addFld (R.DMACH_BYTES n) b.len
  let s := (if b.space = 1 then s.addFld R.DMA_HOST_BURSTS 1 else s.addFld R.DMA_INT_BURSTS 1).subFld (R.DMACH_REMAIN n) b.len
  let c := s.dmaCh n
  let werrs := match cause with | some k => c.werrs ++ [⟨s.fld (R.DMACH_PC n), b.space, b.addr, k, false⟩] | none => c.werrs
  s.setDmaCh n { c with werrs := werrs, hostLast := if b.space = 1 then some ((b.addr + b.len - 1) / 4 * 4) else c.hostLast }

/-- The bytes in the funnel written as far as they make up whole writes, or all of them where no more are to come, over as many
writes as they may make. -/
def pumpOut (n : Nat) (all : Bool) : Nat → Move → State → Move × State
  | 0, m, s => (m, s)
  | fuel + 1, m, s =>
    match segAt m.dst m.written with
    | none => (m, s)
    | some (sp, a, l) =>
      let k := cutLen sp a (if all then min l m.funnel.length else l)
      if k = 0 ∨ m.funnel.length < k then (m, s)
      else
        let x := m.funnel.take k
        let s := s.burstOut n ⟨m.written, k, sp, a, false⟩ (x.map (·.1)) (x.map (·.2))
        pumpOut n all fuel { m with written := m.written + k, funnel := m.funnel.drop k } s

/-- What a channel has read of its MOVE is written. -/
def State.drainOut (s : State) (n : Nat) : State :=
  match (s.dmaCh n).move with
  | some m =>
    let (m, s) := pumpOut n true m.funnel.length m s
    s.setDmaCh n { s.dmaCh n with move := some m }
  | none => s

/-! ### Stops and commands (R328) -/

/-- A channel comes to rest: STOPPED, or ERROR with its code. -/
def State.dmaHalt (s0 : State) (n : Nat) : State :=
  let s := s0.drainOut n
  let c := s.dmaCh n
  let werrs := c.werrs.map (fun w => { w with late := true })
  let s := if c.flush = 1 then s.mxClose 9 else s
  let s := s.setDmaCh n { c with
    move := none, buf := [], late := false, signalling := false, flush := 0, waited := none, werrs := werrs }
  let s := (s.setFld (R.DMACH_STAT_OVERLAP n) 0).showBuf
  if c.stop = 0 then s.setDmaState n csStopped
  else
    let s := (s.setDmaState n csError).setFld (R.DMACH_STAT_ERR_CODE n) c.stop
    (s.error (dmachPg n) c.stop 0 0 none).raise (dmachPg n) 2

/-- A channel stops, for STOP (code 0) or an error: it issues no further read, and the bursts already read are written. -/
def State.dmaStop (s : State) (n code : Nat) : State :=
  let c := s.dmaCh n
  let s := s.setDmaCh n { c with stop := code, move := c.move.map (fun m => { m with todo := [] }) }
  match c.move with
  | some m => if m.reads.isEmpty then s.dmaHalt n else s.setDmaState n csStopping
  | none => s.dmaHalt n

/-- A channel that has not run: a start ends in ERROR (R328). -/
def State.dmaRefuse (s : State) (n code : Nat) : State :=
  (s.setDmaCh n { s.dmaCh n with stop := code }).dmaHalt n

/-- The effect of DMACH.CTL.START. -/
def doDmachStart (n : Nat) (s : State) : State :=
  let st := s.fld (R.DMACH_STAT_STATE n)
  if 32 ≤ n then s
  else if st = csRunning ∨ st = csWaiting ∨ st = csStopping then s.setFld (R.DMACH_STAT_CMD_IGN n) 1
  else
    let pc := s.fld (R.DMACH_PROG_ADDR n)
    let c := s.dmaCh n
    let s := s.setDmaCh n ({ werrs := c.werrs, hostLast := c.hostLast, age := c.age } : DmaCh)
    let s := (((s.setFld (R.DMACH_PC n) pc).setFld (R.DMACH_REMAIN n) 0).showLoops n).showCrc n
    if pc % 32 ≠ 0 then s.dmaRefuse n 0x01
    else if s.fld (R.DMACH_CFG_PROG_SPACE n) = 3 then s.dmaRefuse n 0x02
    else s.setDmaState n csRunning

/-- The effect of DMACH.CTL.STOP. -/
def doDmachStop (n : Nat) (s : State) : State :=
  let st := s.fld (R.DMACH_STAT_STATE n)
  if 32 ≤ n then s
  else if st = csRunning ∨ st = csWaiting then s.dmaStop n 0
  else s.setFld (R.DMACH_STAT_CMD_IGN n) 1

/-- The effect of DMACH.CTL.CLEAR. -/
def doDmachClear (n : Nat) (s : State) : State :=
  let st := s.fld (R.DMACH_STAT_STATE n)
  if 32 ≤ n then s
  else if st = csDone ∨ st = csStopped ∨ st = csError then s.setDmaState n csIdle
  else s.setFld (R.DMACH_STAT_CMD_IGN n) 1

/-- Channels that STOP_ALL has stopped still finish their bursts: the field reads 1 (R8). -/
def State.stopAllBusy (s : State) : Bool :=
  (List.range 32).any (fun n => decide (s.fld (R.DMACH_STAT_STATE n) = csStopping) && (s.dmaCh n).all)

/-- The effect of DMA.CTL.STOP_ALL: ignored while the field reads 1. -/
def doStopAll (s : State) : State :=
  if s.stopAllBusy then s
  else (List.range 32).foldl (fun s n =>
    if s.fld (R.DMACH_STAT_STATE n) = csRunning ∨ s.fld (R.DMACH_STAT_STATE n) = csWaiting then
      (s.setDmaCh n { s.dmaCh n with all := true }).dmaStop n 0
    else s) s

/-- DMACH_START, DMACH_STOP, DMACH_CLEAR and STOP_ALL. -/
def execDmachStart (π : Path) (n : Nat) (s : State) : Host.Outcome State Fault Refusal :=
  .next (if n < 32 then s.hostCmd π (0x201040 + 0x1000 * n) (doDmachStart n) else s)
def execDmachStop (π : Path) (n : Nat) (s : State) : Host.Outcome State Fault Refusal :=
  .next (if n < 32 then s.hostCmd π (0x201040 + 0x1000 * n) (doDmachStop n) else s)
def execDmachClear (π : Path) (n : Nat) (s : State) : Host.Outcome State Fault Refusal :=
  .next (if n < 32 then s.hostCmd π (0x201040 + 0x1000 * n) (doDmachClear n) else s)
def execStopAll (π : Path) (s : State) : Host.Outcome State Fault Refusal := .next (s.hostCmd π 0x200040 doStopAll)

/-! ### Instructions (R321) -/

/-- The fields of an instruction. -/
def insByte (bs : List Byte) (i : Nat) : Nat := leAt bs i 1
def insBit (bs : List Byte) (i b : Nat) : Bool := (insByte bs i).testBit b
def insZero (bs : List Byte) (lo hi : Nat) : Bool := decide (leAt bs lo (hi - lo) = 0)

/-- The opcode is known, every reserved bit and byte is 0, and no field holds a reserved encoding. -/
def instrOk (bs : List Byte) : Bool :=
  let b1 := insByte bs 1
  let b2 := insByte bs 2
  let b3 := insByte bs 3
  match insByte bs 0 with
  | 1 => decide (b1 &&& 0x88 = 0) && decide (b1 % 8 ≠ 7) && decide (b1 / 16 % 8 ≠ 7) && decide (b2 < 32) && decide (b3 = 0)
      && insZero bs 24 32
  | 2 => decide (b1 < 2) && decide (b2 = 0) && decide (b3 = 0) && insZero bs 10 32
  | 3 => decide (b1 &&& 0xC8 = 0) && decide (b1 % 8 ≠ 7) && decide (b2 < 3) && decide (b3 = 0) && insZero bs 24 32
  | 4 => decide (b2 &&& 0x88 = 0) && decide (b2 % 8 ≠ 7) && decide (b2 / 16 % 8 ≠ 7) && decide (b3 &&& 0xCC = 0)
      && decide (b3 % 4 ≠ 3) && decide (b3 / 16 % 4 ≠ 3)
  | _ => false

/-- The fetched bytes at PC of a channel that can begin an instruction. -/
def State.dmaFetched (s : State) (n : Nat) : Option (List Byte) :=
  let c := s.dmaCh n
  if n < 32 ∧ s.fld (R.DMACH_STAT_STATE n) = csRunning ∧ c.move = none then
    (c.buf.find? (fun e => e.1 == s.fld (R.DMACH_PC n))).map (·.2)
  else none

/-- The legal instruction at PC, where it has an opcode. -/
def State.dmaInstr (s : State) (n op : Nat) : Option (List Byte) :=
  match s.dmaFetched n with
  | some bs => if instrOk bs && decide (insByte bs 0 = op) then some bs else none
  | none => none

/-- Loops that end at an address: back to the body of the innermost with an iteration left, or out of it. -/
def closeLoops : List (Nat × Nat × Option Nat) → Nat → List (Nat × Nat × Option Nat) × Nat
  | [], pc => ([], pc)
  | (b, e, left) :: t, pc =>
    if pc ≠ e then ((b, e, left) :: t, pc)
    else match left with
      | none => ((b, e, none) :: t, b)
      | some k => if 2 ≤ k then ((b, e, some (k - 1)) :: t, b) else closeLoops t pc

/-- An instruction completes: PC moves to the address that follows it in execution, and a late error stops the channel. -/
def State.dmaNext (s : State) (n pc : Nat) : State :=
  let c := s.dmaCh n
  let (ls, pc') := closeLoops c.loops pc
  let buf := if pc' = pc then c.buf.filter (fun e => decide (pc ≤ e.1)) else []
  let s := s.setDmaCh n { c with loops := ls, buf := buf, signalling := false, waited := none }
  let s := ((s.setFld (R.DMACH_PC n) pc').addFld (R.DMACH_INSTR n) 1).showLoops n
  if c.late then s.dmaStop n 0x18 else s

/-! ### PROGRAM_FETCH (R327) and ILLEGAL (R321) -/

/-- The 256 bytes at an address of the program's space, from the data a HOST read returns or from memory; none is poison or
an error response. -/
def State.fetchBlock (s : State) (n a : Nat) (data : List Byte) (cpl : Cpl) : Option (List Byte) × State :=
  let space := s.fld (R.DMACH_CFG_PROG_SPACE n)
  if space = 0 then
    let (r, s) := (s.mxMem .dma a 256).readDram .dma a 256
    (if r.bad then none else some r.bytes, s)
  else if space = 1 then
    let (refused, s) := s.hostIn n a 256
    let s := if refused then s else s.cplSeen cpl
    (if refused || decide (cpl ≠ .good) then none else some (sliceBytes data 0 256), s)
  else if 262144 ≤ a then (none, s.decodeError 0 1 a false)
  else
    let (bs, marks) := s.sramRead 0x1400000 a 256
    (if marks.any id then none else some bs, s)

/-- The effect of PROGRAM_FETCH: the aligned block of the first instruction from PC on that the channel does not hold. -/
def doProgramFetch (n : Nat) (data : List Byte) (cpl : Cpl) (s : State) : State :=
  let st := s.fld (R.DMACH_STAT_STATE n)
  if 32 ≤ n ∨ (st ≠ csRunning ∧ st ≠ csWaiting) then s
  else
    let pc := s.fld (R.DMACH_PC n)
    let c := s.dmaCh n
    match (List.range 9).find? (fun i => c.buf.all (fun e => e.1 != pc + 32 * i)) with
    | none => s
    | some i =>
      let a := (pc + 32 * i) / 256 * 256
      match s.fetchBlock n a data cpl with
      | (none, s) => s.dmaStop n 0x11
      | (some bs, s) =>
        let new := (List.range 8).filterMap (fun k =>
          let x := a + 32 * k
          if pc + 32 * i ≤ x ∧ x ≤ pc + 256 then some (x, sliceBytes bs (32 * k) 32) else none)
        s.setDmaCh n { c with buf := c.buf ++ new }

/-- PROGRAM_FETCH. -/
def execProgramFetch (n : Nat) (data : List Byte) (cpl : Cpl) (s : State) : Host.Outcome State Fault Refusal :=
  .next (doProgramFetch n data cpl s)

/-- The effect of ILLEGAL. -/
def doIllegal (n : Nat) (s : State) : State :=
  match s.dmaFetched n with
  | some bs => if instrOk bs then s else s.dmaStop n 0x10
  | none => s

/-- ILLEGAL. -/
def execIllegal (n : Nat) (s : State) : Host.Outcome State Fault Refusal := .next (doIllegal n s)

/-! ### LOOP (R323) -/

/-- The effect of LOOP. -/
def doLoop (n : Nat) (s : State) : State :=
  match s.dmaInstr n 2 with
  | none => s
  | some bs =>
    let pc := s.fld (R.DMACH_PC n)
    let body := leAt bs 8 2
    let count := leAt bs 4 4
    let forever := insBit bs 1 0
    let c := s.dmaCh n
    let stop := pc + 32 + 32 * body
    let past := match c.loops with | (_, e, _) :: _ => decide (e < stop) | [] => false
    if body = 0 ∨ past = true then s.dmaStop n 0x13
    else if !forever && decide (count = 0) then s.dmaNext n stop
    else if 4 ≤ c.loops.length then s.dmaStop n 0x12
    else
      let level := c.loops.length
      let s := if forever then
          let (v, s) := s.free m32
          s.setFld (R.DMACH_LOOP_CNT n level) v
        else s
      let s := s.setDmaCh n { s.dmaCh n with loops := (pc + 32, stop, if forever then none else some count) :: c.loops }
      s.dmaNext n (pc + 32)

/-- LOOP. -/
def execLoop (n : Nat) (s : State) : Host.Outcome State Fault Refusal := .next (doLoop n s)

/-! ### MOVE (R319, R320, R322, R330, R331) -/

/-- A range of counts of ring space, cut at multiples of the ring's size. -/
def ringSegs (space base size : Nat) : Nat → Nat → Nat → List (Nat × Nat × Nat)
  | 0, _, _ => []
  | fuel + 1, p, len =>
    if len = 0 then []
    else
      let o := p % size
      let k := min len (min (size - o) (m48 - p % m48))
      (space, base + o, k) :: ringSegs space base size fuel ((p + k) % m48) (len - k)

/-- The stretches of a range in an address space: space, address, length. -/
def State.dmaSegs (s : State) (n code v len : Nat) : List (Nat × Nat × Nat) :=
  if code = 4 then ringSegs (s.fld (R.DMACH_CFG_RING0_HOST n)) (64 * s.fld (R.DMACH_RING0_BASE n)) (64 * s.fld (R.DMACH_RING0_SIZE n))
    len (v % m48) len
  else if code = 5 then ringSegs (s.fld (R.DMACH_CFG_RING1_HOST n)) (64 * s.fld (R.DMACH_RING1_BASE n)) (64 * s.fld (R.DMACH_RING1_SIZE n))
    len (v % m48) len
  else if len = 0 then [] else [(code, v, len)]

/-- A ring that an instruction uses has no size (R320). -/
def State.ringUnset (s : State) (n code : Nat) : Bool :=
  (decide (code = 4) && decide (s.fld (R.DMACH_RING0_SIZE n) = 0)) || (decide (code = 5) && decide (s.fld (R.DMACH_RING1_SIZE n) = 0))

/-- Two lists of stretches share a byte address of one space. -/
def segsShare (a b : List (Nat × Nat × Nat)) : Bool :=
  a.any (fun x => b.any (fun y => decide (x.1 = y.1) && decide (x.2.1 < y.2.1 + y.2.2) && decide (y.2.1 < x.2.1 + x.2.2)))

/-- The address of a side of a MOVE: the field itself, or the pointer plus the field read as signed, modulo 2^48. -/
def ptrAddr (ptr : Bool) (p v : Nat) : Nat := if ptr then (p + v) % m48 else v

/-- A MOVE is complete: pointers, CRC of a downward copy, and the next instruction. -/
def State.moveDone (s : State) (n : Nat) (m : Move) : State :=
  let c := s.dmaCh n
  let crc := if m.crc && m.down then crcRun c.crc m.held else c.crc
  let covered := c.covered || (m.crc && m.down && !m.held.isEmpty)
  let s := s.setDmaCh n { c with move := none, crc := crc, covered := covered, werrs := c.werrs.map (fun w => { w with late := true }) }
  let s := (s.addFld (R.DMACH_SP n) m.spInc).addFld (R.DMACH_DP n) m.dpInc
  let s := (s.setFld (R.DMACH_STAT_OVERLAP n) 0).showCrc n
  s.showBuf.dmaNext n (s.fld (R.DMACH_PC n) + 32)

/-- The effect of MOVE: its stretches resolved, the reads of its source cut, ready for grants. -/
def doMove (n : Nat) (s : State) : State :=
  match s.dmaInstr n 1 with
  | none => s
  | some bs =>
    let sc := insByte bs 1 % 8
    let dc := insByte bs 1 / 16 % 8
    let len := leAt bs 4 4
    if sc = 3 ∨ dc = 3 ∨ dc = 6 then s.dmaStop n 0x14
    else if s.ringUnset n sc || s.ringUnset n dc then s.dmaStop n 0x15
    else
      let src := s.dmaSegs n sc (ptrAddr (insBit bs 2 0) (s.fld (R.DMACH_SP n)) (leAt bs 8 8)) len
      let dst := s.dmaSegs n dc (ptrAddr (insBit bs 2 1) (s.fld (R.DMACH_DP n)) (leAt bs 16 8)) len
      let olap := segsShare src dst
      if olap && (decide (1 < src.length) || decide (1 < dst.length)) then s.dmaStop n 0x16
      else
        let down := olap && (match src.head?, dst.head? with | some a, some b => decide (a.2.1 < b.2.1) | _, _ => false)
        let todo := cutSource (max 4 s.pcie.maxRead) 0 src
        let m : Move := ⟨if down then todo.reverse else todo, [], dst, 0, [], !insBit bs 2 4, olap, down, [],
          if insBit bs 2 2 then len else 0, if insBit bs 2 3 then len else 0⟩
        if len = 0 then s.moveDone n m
        else
          let s := (s.setDmaCh n { s.dmaCh n with move := some m }).setFld (R.DMACH_REMAIN n) len
          if olap then (s.setFld (R.DMACH_STAT_OVERLAP n) 1).addFld R.DMA_OVERLAP_MOVES 1 else s

/-- MOVE. -/
def execMove (n : Nat) (s : State) : Host.Outcome State Fault Refusal := .next (doMove n s)

/-! ### BURST_GRANT (R329) -/

/-- The HOST reads of granted bursts and of FLUSHes whose completion has not come. -/
def State.hostOutstanding (s : State) : Nat :=
  ((List.range 32).map (fun n =>
    let c := s.dmaCh n
    (match c.move with | some m => (m.reads.filter (fun b => decide (b.space = 1) && !b.refused)).length | none => 0) +
      (if c.flush = 1 then 1 else 0))).sum

/-- The most reads that may be outstanding to PCIE_OUT (R329, R350). -/
def State.hostReadLimit (s : State) : Nat := if s.pcie.tag10 then 768 else 256

/-- A burst keeps the reads outstanding to PCIE_OUT within their limit. -/
def State.readsAllow (s : State) (b : Burst) : Bool := decide (b.space ≠ 1) || decide (s.hostOutstanding < s.hostReadLimit)

/-- The bursts of a MOVE read, or granted and to be read, and not wholly written. -/
def Move.pending (m : Move) : Nat := m.reads.length + if m.funnel.isEmpty then 0 else 1

/-- A channel has a burst ready, buffer space and room among the outstanding reads for it; in overlap mode nothing of it is in
flight. -/
def State.burstReady (s : State) (n : Nat) : Bool :=
  let c := s.dmaCh n
  match c.move with
  | some m => match m.todo with
    | b :: _ => decide (s.fld (R.DMACH_STAT_STATE n) = csRunning) && decide (m.pending < 8)
        && decide (s.bufBytes + b.len ≤ 524288) && s.readsAllow b && (!m.overlap || (m.reads.isEmpty && c.werrs.all (·.late)))
    | [] => false
  | none => false

/-- The next of some channels after the one last granted at a level. -/
def State.roundRobin (s : State) (level : Nat) (ns : List Nat) : Option Nat :=
  let last := s.dma.last.get 0 level
  match ns.find? (fun n => decide (last ≤ n)) with
  | some n => some n
  | none => ns.head?

/-- The channel a burst is granted to, and the level it is granted at (4: aged). -/
def State.grantChoice (s : State) : Option (Nat × Nat) :=
  let ready := (List.range 32).filter s.burstReady
  let aged := ready.filter (fun n => decide (max 1 (s.fld R.DMA_CFG_AGE_LIMIT) ≤ (s.dmaCh n).age))
  if aged.isEmpty then
    let top := (ready.map (fun n => s.fld (R.DMACH_CFG_PRIO n))).foldl max 0
    (s.roundRobin top (ready.filter (fun n => decide (s.fld (R.DMACH_CFG_PRIO n) = top)))).map (fun n => (n, top))
  else (s.roundRobin 4 aged).map (fun n => (n, 4))

/-- A HOST read of a burst leaves the device, in the dwords that hold its bytes; one that PCIE_OUT refuses, or that finds the link down,
ends in an error response (R336, R352). -/
def State.sendRead (s : State) (n : Nat) (b : Burst) : Burst × State :=
  if b.space ≠ 1 then (b, s)
  else if !s.pcie.bme then ({ b with refused := true }, (s.mxCount 9).bmeDrop)
  else if !s.pcie.up then ({ b with refused := true }, s.mxCount 9)
  else
    let lo := b.addr / 4 * 4
    (b, (s.mxOpen 9).emit (.hostRead n lo ((b.addr + b.len + 3) / 4 * 4 - lo)))

/-- The first burst of a channel is read. -/
def State.issueBurst (s : State) (n : Nat) : State :=
  match (s.dmaCh n).move with
  | some m => match m.todo with
    | b :: t =>
      let (b, s) := s.sendRead n b
      (s.setDmaCh n { s.dmaCh n with move := some { m with todo := t, reads := m.reads ++ [b] }, age := 0 }).showBuf
    | [] => s
  | none => s

/-- The effect of BURST_GRANT. -/
def doBurstGrant (s : State) : State :=
  match s.grantChoice with
  | none => s
  | some (n, level) =>
    let others := (List.range 32).filter (fun k => s.burstReady k && k != n)
    let s := others.foldl (fun s k => s.setDmaCh k { s.dmaCh k with age := (s.dmaCh k).age + 1 }) s
    let s := { s with dma := { s.dma with last := s.dma.last.put 0 level (n + 1) } }
    s.issueBurst n

/-- BURST_GRANT. -/
def execBurstGrant (s : State) : Host.Outcome State Fault Refusal := .next (doBurstGrant s)

/-! ### DMA_READ_RETURN (R330, R332, R333) -/

/-- The bytes of a burst, with the poison of each: those inside the device are read, in whole granules, those of the host are what the
completion carries. Data that does not come is free, and poison. -/
def State.burstData (s : State) (b : Burst) (data : List Byte) (ep : Bool) : List Byte × List Bool × State :=
  let none_ (s : State) : List Byte × List Bool × State :=
    ((List.range b.len).map (Config.badData s.freeCtr), List.replicate b.len true, { s with freeCtr := s.freeCtr + 1 })
  if b.space = 1 then
    if b.refused then none_ s else (sliceBytes data 0 b.len, List.replicate b.len ep, s)
  else if b.space = 0 then
    let lo := b.addr / 64 * 64
    let n := (b.addr + b.len + 63) / 64 * 64 - lo
    let (r, s) := (s.mxMem .dma lo n).readDram .dma lo n
    (sliceBytes r.bytes (b.addr - lo) b.len, (List.range b.len).map (fun i => r.markAt ((b.addr - lo + i) / 32)), s)
  else if (if b.space = 2 then 262144 else 131072) < b.addr + b.len then none_ (s.decodeError 0 1 b.addr false)
  else
    let (bs, marks) := s.sramRead (if b.space = 2 then 0x1400000 else 0x1800000) b.addr b.len
    (bs, marks, if b.space = 6 then s.mxCount 11 else s)

/-- The bytes of a burst enter the funnel, the CRC and the poison count. -/
def State.burstIn (s : State) (n : Nat) (m : Move) (bs : List Byte) (marks : List Bool) : State :=
  let bad := (marks.filter id).length
  let s := (s.addFld R.DMA_RD_BYTES bs.length).addFld R.DMA_INFLIGHT bs.length
  let c := s.dmaCh n
  let up := m.crc && !m.down
  let s := s.setDmaCh n { c with
    crc := if up then crcRun c.crc bs else c.crc
    covered := c.covered || (up && !bs.isEmpty)
    crcPoison := c.crcPoison || (m.crc && decide (0 < bad)) }
  let s := s.showCrc n
  if bad = 0 then s
  else ((s.addFld (R.DMACH_POISON_BYTES n) bad).setFld (R.DMACH_STAT_POISON_SEEN n) 1).raise (dmachPg n) 4

/-- After a burst: the MOVE goes on, is complete, or stops. -/
def State.burstAfter (s : State) (n : Nat) (m : Move) (poison : Bool) : State :=
  let s := (s.setDmaCh n { s.dmaCh n with move := some m }).showBuf
  if s.fld (R.DMACH_STAT_STATE n) = csStopping then (if m.reads.isEmpty then s.dmaHalt n else s)
  else if poison && s.bit (R.DMACH_CFG_STOP_ON_POISON n) then s.dmaStop n 0x1B
  else if m.reads.isEmpty && m.todo.isEmpty then s.moveDone n m
  else s

/-- The oldest burst of a channel whose data has not come, where it has one. -/
def State.oldestRead (s : State) (n : Nat) : Option (Move × Burst × List Burst) :=
  match (s.dmaCh n).move with
  | some m => match m.reads with
    | b :: t => some (m, b, t)
    | [] => none
  | none => none

/-- The bytes of a burst written: in overlap mode all of them at once, in the direction of the copy; else as far as they make up whole
writes with those before them (R330, R331). -/
def State.writeBurst (s : State) (n : Nat) (m : Move) (b : Burst) (bs : List Byte) (marks : List Bool) : Move × State :=
  if m.overlap then
    let ws := cutSegs b.off (srcSlice m.dst b.off b.len)
    let s := (if m.down then ws.reverse else ws).foldl (fun s w =>
      s.burstOut n w ((bs.drop (w.off - b.off)).take w.len) ((marks.drop (w.off - b.off)).take w.len)) s
    (m, s)
  else
    let m := { m with funnel := m.funnel ++ bs.zip marks }
    pumpOut n false m.funnel.length m s

/-- The data of the oldest burst of a channel comes, and is written. -/
def State.takeBurst (s : State) (n : Nat) (m : Move) (b : Burst) (t : List Burst) (data : List Byte) (ep : Bool) : State :=
  let (bs, marks, s) := s.burstData b data ep
  let s := s.burstIn n m bs marks
  let m := { m with reads := t, held := if m.crc && m.down then bs ++ m.held else m.held }
  let (m, s) := s.writeBurst n m b bs marks
  s.burstAfter n m (marks.any id)

/-- A HOST read of a burst is outstanding. -/
def Burst.fromHost (b : Burst) : Bool := decide (b.space = 1) && !b.refused

/-- Every HOST read of a MOVE that is outstanding ends in an error response (R352). -/
def Move.hostLost (m : Move) : Move :=
  { m with reads := m.reads.map (fun b => if b.space = 1 then { b with refused := true } else b) }

/-- The HOST reads of a channel that are outstanding. -/
def DmaCh.outstanding (c : DmaCh) : Nat :=
  (match c.move with | some m => (m.reads.filter Burst.fromHost).length | none => 0) + if c.flush = 1 then 1 else 0

/-- Responses of target t that come at once. -/
def State.mxCloseAll (s : State) (t k : Nat) : State := (s.addFld (R.MX_RSP t) k).subFld (R.MX_OUT t) k

/-- Every HOST read outstanding ends in an error response (R352). -/
def State.readsLost (s : State) : State :=
  (List.range 32).foldl (fun s n =>
    let c := s.dmaCh n
    (s.mxCloseAll 9 c.outstanding).setDmaCh n
      { c with move := c.move.map Move.hostLost, flush := if c.flush = 0 then 0 else 2 }) s

/-- The effect of DMA_READ_RETURN for a burst: the data of the oldest one comes. -/
def State.burstReturn (s : State) (n : Nat) (data : List Byte) (cpl : Cpl) : State :=
  match s.oldestRead n with
  | none => s
  | some (m, b, t) =>
    let s := if b.fromHost then (s.mxClose 9).cplSeen cpl else s
    s.takeBurst n m b t data (decide (cpl ≠ .good))

/-- The effect of COMPLETION_TIMEOUT for a burst: the oldest one is a HOST read, which times out (R333, R350). -/
def State.burstTimeout (s : State) (n : Nat) : State :=
  match s.oldestRead n with
  | none => s
  | some (m, b, t) =>
    if !b.fromHost then s else ((s.mxClose 9).cplSeen .timedOut).takeBurst n m { b with refused := true } t [] true

/-! ### WRITE_ERROR_RESPONSE (R334, R335) -/

/-- A late error: the first is recorded, and the channel stops after the instruction it executes. -/
def State.lateError (s : State) (n : Nat) (w : WErr) : State :=
  let s := if s.bit (R.DMACH_STAT_LATE_ERR n) then s
    else
      let s := (s.setFld (R.DMACH_LATE_PC n) w.pc).setFld (R.DMACH_LATE_ADDR n) w.addr
      let s := (s.setFld (R.DMACH_LATE_INFO_SPACE n) w.space).setFld (R.DMACH_LATE_INFO_CAUSE n) w.cause
      (s.setFld (R.DMACH_STAT_LATE_ERR n) 1).raise (dmachPg n) 3
  let c := s.dmaCh n
  let st := s.fld (R.DMACH_STAT_STATE n)
  if st = csRunning ∧ c.move = none ∧ c.signalling = false then s.dmaStop n 0x18
  else if st = csRunning ∨ st = csWaiting then s.setDmaCh n { c with late := true }
  else s

/-- The effect of WRITE_ERROR_RESPONSE: the oldest failed write of a channel is handled. -/
def doWriteErrorResponse (n : Nat) (s : State) : State :=
  let c := s.dmaCh n
  match c.werrs with
  | [] => s
  | w :: t =>
    let s := s.setDmaCh n { c with werrs := t }
    if w.late || c.move.isNone then s.lateError n w
    else if s.fld (R.DMACH_STAT_STATE n) = csStopping then
      s.setDmaCh n { s.dmaCh n with stop := if c.stop = 0 then 0x17 else c.stop }
    else s.dmaStop n 0x17

/-- WRITE_ERROR_RESPONSE. -/
def execWriteErrorResponse (n : Nat) (s : State) : Host.Outcome State Fault Refusal := .next (doWriteErrorResponse n s)

/-! ### Resets (R338, R346) -/

/-- A channel returns to IDLE at once, and the matrix completes its bursts in flight; what has been read and not written is lost. -/
def State.dmaReset (s : State) (n : Nat) : State :=
  let c := s.dmaCh n
  let (k, f) := match c.move with | some m => (m.reads.length, m.funnel.length) | none => (0, 0)
  let k := if c.flush = 1 then k + 1 else k
  let s := if k = 0 then s else (s.addFld R.MX_MRST_BURSTS k).raise mxPg 2
  let s := s.mxCloseAll 9 c.outstanding
  let s := (s.addFld R.DMA_LOST_RESET f).subFld R.DMA_INFLIGHT f
  let s := (s.setDmaCh n {}).showBuf
  ((s.setFld (R.DMACH_STAT_OVERLAP n) 0).setFld (R.DMACH_REMAIN n) 0).setDmaState n csIdle

/-- A reset or switch-off that stops the DMA does so for every channel. -/
def State.stopDma (s : State) : State :=
  let s := (List.range 32).foldl (fun s n => s.dmaReset n) s
  { s with dma := {} }

end Sys2Proof.Machine
end

