-- ==== Sys2Proof/Machine/Matrix.lean ====
section
/-! DEFINITION. The bus matrix (spec/11 R339 to R347): paths, arbitration, decode errors and the counters of requests. -/

namespace Sys2Proof.Machine

/-- Master ports by number: the ports of R339 in its order, POOL0 to POOL7 as eight. -/
def mxPort (q : MxReq) : Nat :=
  let m := masterCode q.master
  if m < 7 then m else if m = 7 then 7 + q.port % 8 else m + 7

/-- The arbitration class of a master (R341). -/
def mxClass (m : Master) : Nat :=
  match m with
  | .arrive | .chanRd | .mereWr | .pool | .drain | .beamw => 1
  | .host | .dma | .wellA | .wellB | .fill => 2
  | .scrub => 3

/-- A path of the table of R339: targets 0 to 7 are MC0 to MC7, 8 REG, 9 PCIE_OUT, 10 FLASH, 11 ESRAM. -/
def mxPath (nMc : Nat) (m : Master) (t : Nat) : Bool :=
  if t < 8 then decide (t < nMc)
  else match m with
    | .host => decide (t = 8)
    | .dma => decide (t = 8) || decide (t = 9) || decide (t = 11)
    | .wellA | .wellB => decide (t = 8) || decide (t = 10) || decide (t = 11)
    | _ => false

/-- How a request stands at a target: legal, a decode error, or a request to another controller. -/
inductive MxKind where
  | legal | decode | elsewhere
  deriving DecidableEq, Repr

/-- The kind of a request (R339, R343). -/
def State.mxKind (s : State) (t : Nat) (q : MxReq) : MxKind :=
  if !mxPath s.nMc q.master t then .decode
  else if t < 8 then (match s.mcOf q.master q.addr with
    | none => .decode
    | some k => if k = t then .legal else .elsewhere)
  else if t = 11 ∧ 131072 ≤ q.addr then .decode
  else .legal

/-- The class a request is granted in: an aged class 2 request counts as class 1 (R341). -/
def State.mxRank (s : State) (q : MxReq) : Nat :=
  if mxClass q.master = 2 ∧ max 1 (s.fld R.MX_CFG_AGE_LIMIT) ≤ q.waited then 1 else mxClass q.master

/-- The ports of a target: P0 and P1 of a controller, one of every other target (R339). -/
def mxPorts (t : Nat) : List Nat := if t < 8 then [0, 1] else [0]

/-- The port of its target that a request enters by: that of its DRAM channel, P0 for the even local channels and P1 for the
odd ones (R281). -/
def State.mxPortOf (s : State) (t : Nat) (q : MxReq) : Nat :=
  if t < 8 then (match s.placeOf q.master q.addr with | some p => placeChan p % 2 | none => 0) else 0

/-- The request granted by a target port among some of one class: the first master port after the one granted last in it. -/
def State.mxPick (s : State) (tp cls : Nat) (qs : List MxReq) : Option MxReq :=
  let last := s.mx.last.get 0 (8 * tp + cls)
  let least (l : List MxReq) : Option MxReq := l.foldl (fun a q => match a with
    | none => some q
    | some b => if mxPort q < mxPort b then some q else some b) none
  match least (qs.filter (fun q => decide (last ≤ mxPort q))) with
  | some q => some q
  | none => least qs

/-- A request granted by port `po` of target t and answered: it counts once on each side (R345, R347). -/
def State.mxGrant (s : State) (t po cls : Nat) (q : MxReq) : State :=
  let tp := 2 * t + po
  let s := s.mxCount t
  { s with mx := { s.mx with last := s.mx.last.put 0 (8 * tp + cls) (mxPort q + 1), park := s.mx.park.put 0 tp (mxPort q + 1) } }

/-- One target port grants one request of those that enter by it, the lowest class first (R341). -/
def State.mxServe (s : State) (t : Nat) (legal : List MxReq) (po : Nat) : State :=
  let mine := legal.filter (fun q => decide (s.mxPortOf t q = po))
  let cls := (mine.map s.mxRank).foldl min 3
  match s.mxPick (2 * t + po) cls (mine.filter (fun q => decide (s.mxRank q = cls))) with
  | some q => s.mxGrant t po cls q
  | none => s

/-- The effect of MATRIX_REQUEST: decode errors are answered as R343 says, and each port of the target grants one of the
rest. -/
def doMatrixRequest (t : Nat) (qs : List MxReq) (s : State) : State :=
  if 12 ≤ t ∨ s.domOn 19 = false then s
  else
    let s := (qs.filter (fun q => s.mxKind t q == .decode)).foldl
      (fun s q => s.decodeError (if q.master = .host then 1 else 0) (masterCode q.master) q.addr q.write) s
    let legal := qs.filter (fun q => s.mxKind t q == .legal)
    (mxPorts t).foldl (fun s po => s.mxServe t legal po) s

/-- MATRIX_REQUEST. -/
def execMatrixRequest (t : Nat) (qs : List MxReq) (s : State) : Host.Outcome State Fault Refusal := .next (doMatrixRequest t qs s)

/-- A switch-off or reset of the FAB domain: outstanding requests go to the lost-in-reset counters (R347). -/
def State.stopMatrix (s : State) : State :=
  let s := (List.range 12).foldl (fun s t => (s.addFld (R.MX_LOST_RESET t) (s.fld (R.MX_OUT t))).setFld (R.MX_OUT t) 0) s
  { s with mx := {} }

end Sys2Proof.Machine
end

