-- ==== Sys2Proof/Machine/Tarn.lean ====
section
/-! DEFINITION. The Tarn and the TUNE DAC (spec/13 R379 to R391, R395 to R398; TRN0, TRN1 and TUNE pages). -/

namespace Sys2Proof.Machine

def trn0Pg : Page := pg .trn0
def trn1Pg : Page := pg .trn1
def trn2Pg : Page := pg .trn2
def tunePg : Page := pg .tune

/-- States of the Tarn (R388). -/
def tsFreerun : Nat := 0
def tsAcquire : Nat := 1
def tsLocked : Nat := 2
def tsHoldover : Nat := 3
/-- ACTIVE with no reference. -/
def refNone : Nat := 3

/-- An integer cut to a signed field of 32 bits (saturating). -/
def satFld (v : Int) : Nat := unsgn 32 (max (-2147483648) (min 2147483647 v))

/-! ### The TUNE DAC (R395 to R398) -/

/-- The output at zero scale. -/
def State.tuneZero (s : State) : State := (s.setFld R.TUNE_STAT_ZERO 1).setFld R.TUNE_OUT_CODE 0

/-- A code written to the DAC: in force at once, kept while a range change runs, and without effect on the output while a
fault is present. -/
def State.tuneWrite (s : State) (code : Nat) : State :=
  let s := { s with tune := { s.tune with code := code % 2 ^ 24 } }.setFld R.TUNE_STAT_WRITTEN 1
  if s.bit R.TUNE_STAT_FAULT then s
  else
    let s := { s with tune := { s.tune with waits := false } }
    if s.bit R.TUNE_STAT_RANGING then s else (s.setFld R.TUNE_STAT_ZERO 0).setFld R.TUNE_OUT_CODE code

/-- A fault cause that was absent appears (R397). -/
def State.tuneFaultOn (s : State) (cause : Nat) : State :=
  if cause ∈ s.tune.faults then s
  else
    let s := { s with tune := { s.tune with faults := cause :: s.tune.faults, waits := true } }.tuneZero
    let s := ((s.setFld R.TUNE_STAT_FAULT 1).setFld R.TUNE_STAT_FAULT_SEEN 1).setFld R.TUNE_STAT_CAUSE cause
    ((s.addFld R.TUNE_FAULTS_COUNT 1).error tunePg 0x10 0 0 none).raise tunePg 0

/-! ### States (R388) -/

/-- ACTIVE, in TRN0.STAT and in each REFr_STAT. -/
def State.setActive (s : State) (r : Nat) : State :=
  (List.range 3).foldl (fun s k => s.setBit (R.TRN1_REF_STAT_ACTIVE k) (decide (k = r))) (s.setFld R.TRN0_STAT_ACTIVE r)

/-- The phase step remaining, with PSTEP_BUSY. -/
def State.setPstep (s : State) (v : Int) : State :=
  (s.setFld R.TRN0_PSTEP_REM_PS (satFld v)).setBit R.TRN0_STAT_PSTEP_BUSY (decide (v ≠ 0))

/-- The Tarn changes its state. -/
def State.setTarn (s : State) (st : Nat) : State :=
  let old := s.fld R.TRN0_STAT_STATE
  if old = st then s
  else
    let s := s.setFld R.TRN0_STAT_STATE st
    let s := if old = tsLocked ∨ old = tsHoldover then s.setPstep 0 else s
    let s := if st = tsAcquire ∨ st = tsLocked then s else s.setFld R.TRN0_PHASE_ERR_PS 0
    let s := { s with tarn := { s.tarn with inBounds := 0, lockedMs := 0, slewing := false, acquiring := decide (st = tsAcquire) } }
    let s := if st = tsFreerun ∨ st = tsHoldover then s.setActive refNone else s
    ((s.emit (.tarnSt st)).info trn0Pg 0xE1 none old st 0 0).raise trn0Pg 0

/-- Something holds the Tarn in FREERUN. -/
def State.freerunCause (s : State) : Bool :=
  s.bit R.TUNE_STAT_FAULT || s.bit R.TRN0_STAT_OSC_LOST || decide (s.fld R.TRN0_CFG_MODE = 2) || s.bit R.TUNE_CFG_SRC

/-- The code of HOLDOVER and of the first write in ACQUIRE (R389, R390). -/
def State.learnedCode (s : State) : Option Nat :=
  if s.bit R.TRN0_STAT_HOLD_VALID then some (s.fld R.TRN0_HOLD_CODE_CODE)
  else if s.bit R.TRN0_HIST_VALID then some (s.fld R.TRN0_HIST_CODE) else none

/-- A switch in progress ends, done or abandoned. -/
def State.endSwitch (s : State) : State :=
  { s with tarn := { s.tarn with switch := none, fresh := [], built := true } }.setFld R.TRN0_STAT_SWITCHING 0

/-- Entry to HOLDOVER, or to FREERUN where no code is learned. -/
def State.holdOver (s : State) : State :=
  match s.learnedCode with
  | some c =>
    let s := (s.setTarn tsHoldover).tuneWrite c
    (s.addFld R.TRN0_HOLDOVERS 1).error trn0Pg 0x11 0 0 none
  | none =>
    if s.fld R.TRN0_STAT_STATE = tsFreerun then s else (s.setTarn tsFreerun).error trn0Pg 0x15 0 0 none

/-- The state follows the choice of selection: the rows of R388 in their order, and a switch where another reference than
the active one is chosen (R386). -/
def State.followChoice (s : State) (choice : Option Nat) : State :=
  let st := s.fld R.TRN0_STAT_STATE
  if s.freerunCause then
    let s := if s.tarn.switch.isSome then s.endSwitch else s
    s.setTarn tsFreerun
  else if s.tarn.switch.isSome then s
  else
    let choice := if s.fld R.TRN0_CFG_MODE = 1 then none else choice
    match choice with
    | none => if st = tsHoldover then s else s.holdOver
    | some r =>
      if st = tsFreerun ∨ st = tsHoldover then
        let s := { s with tarn := { s.tarn with built := false } }
        (s.setTarn tsAcquire).setActive r
      else if s.fld R.TRN0_STAT_ACTIVE = r then s
      else
        let s := { s with tarn := { s.tarn with
          switch := some (s.fld R.TRN0_STAT_ACTIVE, r), built := false, fresh := []
          before := (s.fld R.TRN0_BUILDOUT_PS, s.tarn.setpoint) } }
        s.setFld R.TRN0_STAT_SWITCHING 1

/-! ### References (R381 to R385) -/

/-- The lane whose receive CDR gives REFC (R63): the lowest in use of link 0, while that is UP or DEGRADED. -/
def State.refcLane (s : State) : Option Nat := if s.carries 0 then some (s.link 0).first else none

/-- REFC is there: while link 0 is not UP or DEGRADED, or its lane's CDR is not locked, it is lost (R63). -/
def State.refcLive (s : State) : Bool :=
  match s.refcLane with | some n => s.bit (R.SLK_STAT_CDR_LOCK n) | none => false

/-- The quality level in force (R382). -/
def State.refQl (s : State) (r : Nat) : Nat :=
  if s.bit (R.TRN1_REF_CFG_QL_OVR r) then s.fld (R.TRN1_REF_CFG_QL_VAL r)
  else if r = 2 then (if s.bit (R.LNK_REFC_QL_VALID 0) then s.fld (R.LNK_REFC_QL_QL 0) else 0)
  else s.tarn.qlLast.get 0 (2 + r)

/-- REFr_STAT.QL of every reference. -/
def State.showQl (s : State) : State :=
  (List.range 3).foldl (fun s r => s.setFld (R.TRN1_REF_STAT_QL r) (s.refQl r)) s

/-- FOFS of a reference. -/
def State.fofs (s : State) (r : Nat) : Int := s.sfld (R.TRN1_REF_FOFS_PPT r)

/-- The window of the frequency check in ppb. -/
def State.qualWin (s : State) : Nat := max 1 (s.fld R.TRN0_QUAL_WIN)
def State.qualTime (s : State) : Nat := max 1 (s.fld R.TRN0_QUAL_TIME)

/-- The frequency check of a reference fails (R383). -/
def State.freqFails (s : State) (r : Nat) : Bool :=
  if s.fld R.TRN0_STAT_ACTIVE = r then
    s.bit R.TRN0_STAT_HOLD_VALID &&
      decide (s.qualWin * 2 ^ 24 < ((s.fld R.TUNE_OUT_CODE : Int) - s.fld R.TRN0_HOLD_CODE_CODE).natAbs * max 1 (s.fld R.TUNE_KV_PPB))
  else decide (1000 * s.qualWin < (s.fofs r).natAbs)

/-- A loss condition of R383 holds. -/
def State.refBad (s : State) (r : Nat) : Bool :=
  (decide (r = 2) && !s.refcLive) || !s.bit (R.TRN1_REF_STAT_ACT r) || decide (s.fld (R.TRN1_REF_STAT_FREQ_DET r) = 0) || decide (s.refQl r = 0)
    || s.bit (R.TRN1_REF_CFG_DISABLE r)
    || (decide (r ≠ 2) && s.bit (R.TRN1_REF_CFG_PPS_REQ r) && !s.bit (R.TRN1_REF_STAT_PPS_OK r))
    || s.freqFails r

/-- ELIGIBLE of a reference changed to a value: ELIG_CHANGE. -/
def State.setElig (s : State) (r : Nat) (b : Bool) : State :=
  if s.bit (R.TRN1_REF_STAT_ELIGIBLE r) = b then s else (s.setBit (R.TRN1_REF_STAT_ELIGIBLE r) b).raise trn1Pg r

/-- A reference is lost: the loss counts where it was eligible or qualifying. -/
def State.loseRef (s : State) (r : Nat) : State :=
  let was := s.bit (R.TRN1_REF_STAT_ELIGIBLE r) || s.bit (R.TRN1_REF_STAT_QUALIFYING r)
  let s := (s.setFld (R.TRN1_REF_STAT_QUALIFYING r) 0).setFld (R.TRN1_REF_STAT_QUAL_SEC r) 0
  let s := s.setElig r false
  if was then
    let s := (s.addFld (R.TRN1_REF_LOSS_COUNT r) 1).error trn1Pg 0x10 0 0 none
    if s.fld R.TRN0_STAT_ACTIVE = r then s.error trn0Pg 0x10 0 0 none else s
  else s

/-- One more measurement without a loss condition (R384). -/
def State.qualify (s : State) (r : Nat) : State :=
  let n := min 255 (s.fld (R.TRN1_REF_STAT_QUAL_SEC r) + 1)
  let s := s.setFld (R.TRN1_REF_STAT_QUAL_SEC r) n
  if s.bit (R.TRN1_REF_STAT_ELIGIBLE r) then s
  else if s.qualTime ≤ n then
    let s := (s.setFld (R.TRN1_REF_STAT_QUALIFYING r) 0).setElig r true
    if s.tarn.switch.isSome then { s with tarn := { s.tarn with fresh := r :: s.tarn.fresh } } else s
  else s.setFld (R.TRN1_REF_STAT_QUALIFYING r) 1

/-- The pairs of references. -/
def refPairs : List (Nat × Nat) := [(0, 1), (0, 2), (1, 2)]

/-- A pair agrees by its present offsets. -/
def State.pairNow (s : State) (q : Nat × Nat) : Bool :=
  decide (s.fld R.TRN0_DISAGREE_PPB = 0) || decide ((s.fofs q.1 - s.fofs q.2).natAbs ≤ 1000 * s.fld R.TRN0_DISAGREE_PPB)

/-- After a measurement: a pair that disagrees stays so until it has agreed on enough measurements (R385). -/
def State.judgePair (s : State) (q : Nat × Nat) : State :=
  let key := 3 * q.1 + q.2
  let t := s.tarn
  if !(s.bit (R.TRN1_REF_STAT_ELIGIBLE q.1) && s.bit (R.TRN1_REF_STAT_ELIGIBLE q.2)) then s
  else if !s.pairNow q then
    { s with tarn := { t with apart := q :: t.apart.filter (· != q), agreeing := t.agreeing.put 0 key 0 } }
  else if q ∈ t.apart then
    let n := t.agreeing.get 0 key + 1
    if s.qualTime ≤ n then { s with tarn := { t with apart := t.apart.filter (· != q), agreeing := t.agreeing.put 0 key 0 } }
    else { s with tarn := { t with agreeing := t.agreeing.put 0 key n } }
  else s

/-- Two references agree. -/
def State.agree (s : State) (a b : Nat) : Bool :=
  let q := (min a b, max a b)
  decide (a = b) || decide (s.fld R.TRN0_DISAGREE_PPB = 0) || (!(decide (q ∈ s.tarn.apart)) && s.pairNow q)

/-- Every pair of some references agrees. -/
def State.allAgree (s : State) (rs : List Nat) : Bool := rs.all (fun a => rs.all (fun b => s.agree a b))

/-- The members of a list with the least value of a measure. -/
def leastBy (f : Nat → Nat) (rs : List Nat) : List Nat := rs.filter (fun r => rs.all (fun q => decide (f r ≤ f q)))

/-- The choice of selection and DISAGREE (R385). -/
def State.choose (s : State) : Option Nat × Bool :=
  let e := (List.range 3).filter (fun r => s.bit (R.TRN1_REF_STAT_ELIGIBLE r))
  if e.isEmpty then (none, s.bit R.TRN0_STAT_DISAGREE)
  else
    let best := leastBy (fun r => s.fld (R.TRN1_REF_CFG_PRIO r)) (leastBy s.refQl e)
    if s.allAgree best then (best.head?, false)
    else if s.fld R.TRN0_STAT_ACTIVE ∈ best then (some (s.fld R.TRN0_STAT_ACTIVE), true)
    else
      let support (r : Nat) : Nat := (e.filter (fun q => q != r && s.agree q r)).length
      let top := (best.map support).foldl max 0
      let m := best.filter (fun r => decide (support r = top))
      if 1 ≤ top ∧ s.allAgree m = true then (m.head?, true) else (none, true)

/-- The new reference of a switch is lost (R387). -/
def State.switchLost (s : State) : Bool :=
  match s.tarn.switch with
  | some (_, r) => !s.bit (R.TRN1_REF_STAT_ELIGIBLE r)
  | none => false

/-- A switch abandoned: the loop holds its code, and selection runs from the state before the switch, its build-out with it
(R387). -/
def State.abandonSwitch (s : State) : State :=
  match s.tarn.switch with
  | some (old, _) =>
    let b := s.tarn.before
    let s := { s with tarn := { s.tarn with setpoint := b.2 } }.setFld R.TRN0_BUILDOUT_PS b.1
    ((s.endSwitch.setActive old).setFld R.TRN0_STAT_SWITCH_ABORT 1).error trn0Pg 0x13 0 0 none
  | none => s

/-- Selection runs, and the state follows it. -/
def State.select (s : State) : State :=
  let s := if s.switchLost then s.abandonSwitch else s
  let (c, d) := s.choose
  let rise := d && !s.bit R.TRN0_STAT_DISAGREE
  let s := s.setBit R.TRN0_STAT_DISAGREE d
  let s := if rise then ((s.addFld R.TRN0_DISAGREES 1).error trn0Pg 0x12 0 0 none).raise trn0Pg 2 else s
  s.followChoice c

/-- The effect of QL_SAMPLE: the pins of REFA and REFB; a value seen twice in succession is taken. -/
def doQlSample (a b : Nat) (s : State) : State :=
  let take (s : State) (r v : Nat) : State :=
    let q := s.tarn.qlLast
    let q := if q.get 0 r = v then q.put 0 (2 + r) v else q
    { s with tarn := { s.tarn with qlLast := q.put 0 r v } }
  (take (take s 0 (a % 8)) 1 (b % 8)).showQl

/-- QL_SAMPLE. -/
def execQlSample (a b : Nat) (s : State) : Host.Outcome State Fault Refusal := .next (doQlSample a b s)

/-- 10 MHz in units of 10 µHz. -/
def tenMhz : Nat := 1000000000000

/-- The nominal frequency that lies within ±1000 ppm of a measured one (R381): 1 10 MHz, 2 100 MHz, 0 none. -/
def nominalOf (f : Nat) : Nat :=
  if tenMhz * 999 ≤ f * 1000 ∧ f * 1000 ≤ tenMhz * 1001 then 1
  else if tenMhz * 9990 ≤ f * 1000 ∧ f * 1000 ≤ tenMhz * 10010 then 2 else 0

/-- The nominal frequency that a measurement finds of a reference: REFC's is 100 MHz, and FREQ may name one alone. -/
def State.detect (s : State) (r f : Nat) : Nat :=
  let cfg := s.fld (R.TRN1_REF_CFG_FREQ r)
  let k := nominalOf f
  if r = 2 then (if k = 2 then 2 else 0) else if cfg = 0 ∨ cfg = k then k else 0

/-- What FOFS is measured against: the nominal frequency found, or else the one that is expected, 0 where none is. -/
def State.refNominal (s : State) (r f : Nat) : Nat :=
  let k := s.detect r f
  if k ≠ 0 then k else if r = 2 then 2 else s.fld (R.TRN1_REF_CFG_FREQ r) % 3

/-- The fractional offset of a measured frequency from a nominal one, in units of 10^-12. -/
def pptOf (k f : Nat) : Int := if k = 1 then (f : Int) - tenMhz else ((f : Int) - 10 * tenMhz) / 10

/-- What a measurement finds of a reference (R381, R383). The offset of a clock that has no nominal frequency is a free value (the
spec gives none). -/
def State.takeMeas (s : State) (r : Nat) (m : RefMeas) : State :=
  let k := s.refNominal r m.freq
  let act := m.act && (decide (r ≠ 2) || s.refcLive)
  let det := if act then s.detect r m.freq else 0
  let (v, s) := if k = 0 then s.free m32 else (satFld (pptOf k m.freq), s)
  let s := (s.setBit (R.TRN1_REF_STAT_ACT r) act).setBit (R.TRN1_REF_STAT_PPS_OK r) (m.pps && decide (r ≠ 2))
  (s.setFld (R.TRN1_REF_STAT_FREQ_DET r) det).setFld (R.TRN1_REF_FOFS_PPT r) v

/-- The effect of REF_MEASUREMENT: offsets, losses, qualification, agreement, selection; a second of HOLDOVER counts. -/
def doRefMeasurement (meas : List RefMeas) (s : State) : State :=
  let s := if s.fld R.TRN0_STAT_STATE = tsHoldover then s.addFld R.TRN0_HOLD_SEC 1 else s
  let s := (List.range 3).foldl (fun s r => s.takeMeas r (meas.getD r ⟨false, 0, false⟩)) s.showQl
  let bad := (List.range 3).filter (fun r => s.refBad r)
  let s := (List.range 3).foldl (fun s r => if r ∈ bad then s.loseRef r else s.qualify r) s
  (refPairs.foldl State.judgePair s).select

/-- REF_MEASUREMENT. -/
def execRefMeasurement (meas : List RefMeas) (s : State) : Host.Outcome State Fault Refusal := .next (doRefMeasurement meas s)

/-- The effect of REF_ACTIVITY_LOSS. -/
def doRefActivityLoss (r : Nat) (s : State) : State :=
  if 3 ≤ r then s
  else
    ((s.setFld (R.TRN1_REF_STAT_ACT r) 0).loseRef r).select

/-- REF_ACTIVITY_LOSS. -/
def execRefActivityLoss (r : Nat) (s : State) : Host.Outcome State Fault Refusal := .next (doRefActivityLoss r s)

/-! ### Switches (R386, R387) -/

/-- BUILDOUT takes a measured offset, modulo 1 µs: from here the phase error reads zero. -/
def State.buildOut (s : State) (offset : Int) : State :=
  let o := (offset + 500000) % 1000000 - 500000
  ({ s with tarn := { s.tarn with built := true, setpoint := 0 } }.setFld R.TRN0_BUILDOUT_PS (unsgn 32 o)).setFld R.TRN0_PHASE_ERR_PS 0

/-- The effect of SWITCH_BUILDOUT: BUILDOUT takes the phase of the new reference, of a switch or of an entry to ACQUIRE. -/
def doSwitchBuildout (offset : Int) (s : State) : State :=
  if s.tarn.built then s
  else
    match s.tarn.switch with
    | some (_, r) => (s.buildOut offset).setActive r
    | none => if s.fld R.TRN0_STAT_STATE = tsAcquire then s.buildOut offset else s

/-- SWITCH_BUILDOUT. -/
def execSwitchBuildout (offset : Int) (s : State) : Host.Outcome State Fault Refusal := .next (doSwitchBuildout offset s)

/-- The effect of SWITCH_DONE: references that became eligible meanwhile qualify afresh. -/
def doSwitchDone (s : State) : State :=
  match s.tarn.switch with
  | some (old, new) =>
    if !s.tarn.built then s
    else
      let again := (List.range 3).filter (fun r => decide (r ∈ s.tarn.fresh))
      let s := s.endSwitch
      let s := again.foldl (fun s r =>
        ((s.setElig r false).setFld (R.TRN1_REF_STAT_QUAL_SEC r) 0).setFld (R.TRN1_REF_STAT_QUALIFYING r) 0) s
      let s := ((s.addFld R.TRN0_SWITCHES 1).info trn0Pg 0xE2 none old new 0 0).raise trn0Pg 1
      s.select
  | none => s

/-- SWITCH_DONE. -/
def execSwitchDone (s : State) : Host.Outcome State Fault Refusal := .next (doSwitchDone s)

/-! ### The loop (R389 to R391) -/

/-- Updates of 1 ms in 5 / BW seconds. -/
def State.settleMs (s : State) : Nat :=
  match s.fld R.TRN0_CFG_LOOP_BW with
  | 0 => 500000
  | 1 => 50000
  | 2 => 5000
  | _ => 500

/-- Milliseconds that HOLD_CODE averages. -/
def State.holdMs (s : State) : Nat := 1000 * max 1 (s.fld R.TRN0_CFG_HOLD_AVG)

/-- The slew limit in ps/s. -/
def State.pslew (s : State) : Nat := max 1 (min 1000000 (s.fld R.TRN0_PSLEW_PS_PER_S))

/-- One millisecond of a phase step worked off. -/
def State.workOff (s : State) : State :=
  let rem := s.sfld R.TRN0_PSTEP_REM_PS
  if rem = 0 then { s with tarn := { s.tarn with slew := 0 } }
  else
    let acc := s.tarn.slew + s.pslew
    let step := min (acc / 1000) rem.natAbs
    let s := { s with tarn := { s.tarn with slew := acc % 1000 } }
    let left : Int := if 0 < rem then rem - step else rem + step
    let s := s.setPstep left
    if left = 0 then s.raise trn0Pg 3 else s

/-- The offset that a phase step adds to the held code in HOLDOVER. -/
def State.slewCode (s : State) : Int :=
  let d : Int := (s.pslew * 2 ^ 24 / (1000 * max 1 (s.fld R.TUNE_KV_PPB)) : Nat)
  if 0 < s.sfld R.TRN0_PSTEP_REM_PS then d else -d

/-- The code that HOLDOVER holds. -/
def State.heldCode (s : State) : Nat := s.learnedCode.getD (s.fld R.TUNE_OUT_CODE)

/-- The held code again, after a phase step in HOLDOVER. -/
def State.endSlew (s : State) : State :=
  if s.tarn.slewing then { s with tarn := { s.tarn with slewing := false } }.tuneWrite s.heldCode else s

/-- A millisecond of HOLDOVER: what the offset in force has worked off of a phase step, then the offset while some of the step
remains, and the held code after it. -/
def State.holdTick (s : State) : State :=
  let s := if s.tarn.slewing then s.workOff else s
  if s.sfld R.TRN0_PSTEP_REM_PS = 0 then s.endSlew
  else
    let c : Int := s.heldCode + s.slewCode
    { s with tarn := { s.tarn with slewing := true } }.tuneWrite (max 0 (min 16777215 c)).toNat

/-- A millisecond of LOCKED: a phase step moves the phase setpoint of the loop by what is worked off of it. -/
def State.moveSetpoint (s : State) : State :=
  let t := s.workOff
  { t with tarn := { t.tarn with setpoint := t.tarn.setpoint + (s.sfld R.TRN0_PSTEP_REM_PS - t.sfld R.TRN0_PSTEP_REM_PS) } }

/-- A millisecond of LOCKED counts toward the hour of R390, in a switch too. -/
def State.countLocked (s : State) : State :=
  if s.fld R.TRN0_STAT_STATE = tsLocked ∧ s.bit R.TRN0_STAT_HOLD_VALID = true then { s with tarn := { s.tarn with saveMs := s.tarn.saveMs + 1 } }
  else s

/-- The average of the codes of LOCKED time (R390). -/
def State.learn (s : State) : State :=
  let t := s.tarn
  let ms := t.lockedMs + 1
  let s := { s with tarn := { t with lockedMs := ms } }
  if ms ≤ s.settleMs then s
  else
    let codes := (s.fld R.TUNE_OUT_CODE :: t.codes).take s.holdMs
    let s := { s with tarn := { s.tarn with codes := codes } }
    if codes.length < s.holdMs then s
    else (s.setFld R.TRN0_HOLD_CODE_CODE (codes.sum / codes.length)).setFld R.TRN0_STAT_HOLD_VALID 1

/-- Lock is judged by the phase error (R388). Entry to LOCKED from ACQUIRE asks for an alignment of the time of day where
TOD.CFG.AUTO_ALIGN is 1 (R400). -/
def State.judgeLock (s : State) (e : Int) : State :=
  let st := s.fld R.TRN0_STAT_STATE
  if s.bit R.TRN0_STAT_SWITCHING then s
  else if st = tsAcquire then
    if e.natAbs ≤ 2000 then
      let n := s.tarn.inBounds + 1
      let s := { s with tarn := { s.tarn with inBounds := n } }
      if s.settleMs ≤ n then
        let s := s.setTarn tsLocked
        if s.bit R.TOD_CFG_AUTO_ALIGN then { s with tod := { s.tod with align := true } }.setFld R.TOD_STAT_PEND 1 else s
      else s
    else { s with tarn := { s.tarn with inBounds := 0 } }
  else if 20000 < e.natAbs then s.setTarn tsAcquire
  else s

/-- A code corrected by the loop: an amount added to it, or taken from it where the oscillator's frequency falls as the code
rises (R389). -/
def State.corrected (s : State) (d : Int) : Nat :=
  let c : Int := if s.bit R.TUNE_CFG_SLOPE_NEG then s.fld R.TUNE_OUT_CODE - d else s.fld R.TUNE_OUT_CODE + d
  (max 0 (min 16777215 c)).toNat

/-- The code the loop writes: the learned one first, then the code in force corrected by what its filter gives, a free value (the
spec gives no filter). -/
def State.loopCode (s : State) : Nat × State :=
  if s.tarn.acquiring then (s.learnedCode.getD 0x800000, { s with tarn := { s.tarn with acquiring := false } })
  else
    let (v, t) := s.free (2 ^ 25)
    (s.corrected ((v : Int) - 2 ^ 24), t)

/-- The effect of LOOP_UPDATE, with the phase in ps by which the output's edges fall later than those of the active
reference. -/
def doLoopUpdate (phase : Int) (s : State) : State :=
  let st := s.fld R.TRN0_STAT_STATE
  let s := s.countLocked
  if st = tsHoldover then s.holdTick
  else if (st ≠ tsAcquire ∧ st ≠ tsLocked) ∨ s.tarn.built = false then s
  else
    let e := (phase - s.sfld R.TRN0_BUILDOUT_PS - s.tarn.setpoint + 500000) % 1000000 - 500000
    let s := s.setFld R.TRN0_PHASE_ERR_PS (satFld e)
    let (code, s) := s.loopCode
    let s := s.tuneWrite code
    let s := if st = tsLocked then s.moveSetpoint else s
    let s := if st = tsLocked ∧ s.bit R.TRN0_STAT_SWITCHING = false then s.learn else s
    s.judgeLock e

/-- LOOP_UPDATE. -/
def execLoopUpdate (phase : Int) (s : State) : Host.Outcome State Fault Refusal := .next (doLoopUpdate phase s)

/-- HOLD_CODE copied to HIST, and a save requested (R390). -/
def State.copyHist (s : State) : State :=
  ((s.setFld R.TRN0_HIST_CODE (s.fld R.TRN0_HOLD_CODE_CODE)).setFld R.TRN0_HIST_VALID 1).requestSave

/-- The effect of HIST_SAVE_TIMER: an hour of LOCKED time with HOLD_VALID has passed. -/
def doHistSaveTimer (s : State) : State :=
  if s.tarn.saveMs < 3600000 then s
  else { s with tarn := { s.tarn with saveMs := s.tarn.saveMs - 3600000 } }.copyHist

/-- HIST_SAVE_TIMER. -/
def execHistSaveTimer (s : State) : Host.Outcome State Fault Refusal := .next (doHistSaveTimer s)

/-- The effect of TRN0.CTL.HIST_SAVE. -/
def doHistSave (s : State) : State := if s.bit R.TRN0_STAT_HOLD_VALID then s.copyHist else s

/-- HIST_SAVE. -/
def execHistSave (π : Path) (s : State) : Host.Outcome State Fault Refusal := .next (s.hostCmd π 0x10040 doHistSave)

/-- The effect of a write to TRN0.PSTEP. -/
def doPstepWrite (v : Nat) (s : State) : State :=
  let st := s.fld R.TRN0_STAT_STATE
  if st = tsLocked ∨ st = tsHoldover then
    let old := s.sfld R.TRN0_PSTEP_REM_PS
    let new := max (-2147483647) (min 2147483647 (old + sgn 32 (v % m32)))
    let s := s.setPstep new
    if old ≠ 0 ∧ new = 0 then s.raise trn0Pg 3 else s
  else s.setFld R.TRN0_STAT_PSTEP_IGN 1

/-- PSTEP_WRITE. -/
def execPstepWrite (π : Path) (v : Nat) (s : State) : Host.Outcome State Fault Refusal := .next (s.hostCmd π 0x10054 (doPstepWrite v))

/-- The effect of TRN0.CTL.PSTEP_CANCEL. -/
def doPstepCancel (s : State) : State := (s.setPstep 0).endSlew

/-- PSTEP_CANCEL. -/
def execPstepCancel (π : Path) (s : State) : Host.Outcome State Fault Refusal := .next (s.hostCmd π 0x10040 doPstepCancel)

/-! ### OSC_IN (R380) -/

/-- The effect of OSC_LOST. -/
def doOscLost (s : State) : State :=
  if s.bit R.TRN0_STAT_OSC_LOST then { s with tarn := { s.tarn with oscBack := false } }
  else
    let s := { s with tarn := { s.tarn with oscBack := false } }
    let s := ((s.setFld R.TRN0_STAT_OSC_LOST 1).error trn0Pg 0x14 0 0 none).raise trn0Pg 4
    (s.tuneFaultOn 5).select

/-- The effect of OSC_RETURN. -/
def doOscReturn (s : State) : State :=
  if s.bit R.TRN0_STAT_OSC_LOST then { s with tarn := { s.tarn with oscBack := true } } else s

/-- The effect of OSC_PULL_DONE. -/
def doOscPullDone (s : State) : State :=
  if s.bit R.TRN0_STAT_OSC_LOST && s.tarn.oscBack then
    ({ s with tarn := { s.tarn with oscBack := false } }.setFld R.TRN0_STAT_OSC_LOST 0).select
  else s

/-- OSC_LOST, OSC_RETURN, OSC_PULL_DONE. -/
def execOscLost (s : State) : Host.Outcome State Fault Refusal := .next (doOscLost s)
def execOscReturn (s : State) : Host.Outcome State Fault Refusal := .next (doOscReturn s)
def execOscPullDone (s : State) : Host.Outcome State Fault Refusal := .next (doOscPullDone s)

/-! ### Commands of the TUNE DAC -/

/-- The effect of TUNE_FAULT; cause OSC_LOST comes with OSC_LOST alone. -/
def doTuneFault (cause : Nat) (s : State) : State :=
  if 1 ≤ cause ∧ cause ≤ 4 then (s.tuneFaultOn cause).select else s

/-- The effect of TUNE_FAULT_CLEAR: a condition has been absent for 10 ms. -/
def doTuneFaultClear (cause : Nat) (s : State) : State :=
  if cause ∉ s.tune.faults ∨ (cause = 5 ∧ s.bit R.TRN0_STAT_OSC_LOST = true) then s
  else
    let rest := s.tune.faults.filter (· != cause)
    let s := { s with tune := { s.tune with faults := rest } }
    if rest.isEmpty then (s.setFld R.TUNE_STAT_FAULT 0).select else s

/-- TUNE_FAULT and TUNE_FAULT_CLEAR. -/
def execTuneFault (cause : Nat) (s : State) : Host.Outcome State Fault Refusal := .next (doTuneFault cause s)
def execTuneFaultClear (cause : Nat) (s : State) : Host.Outcome State Fault Refusal := .next (doTuneFaultClear cause s)

/-- The effect of a write of TUNE.CODE. -/
def doTuneCodeWrite (v : Nat) (s : State) : State :=
  let s := s.setFld R.TUNE_CODE v
  if s.bit R.TUNE_CFG_SRC then s.tuneWrite (s.fld R.TUNE_CODE) else s

/-- TUNE_CODE_WRITE. -/
def execTuneCodeWrite (π : Path) (v : Nat) (s : State) : Host.Outcome State Fault Refusal :=
  .next (s.hostCmd π 0x15048 (doTuneCodeWrite v))

/-- The effect of a write of TUNE.CFG: a change of RANGE starts the sequence of R398, or starts it again. -/
def doRangeChange (v : Nat) (s : State) : State :=
  let old := s.fld R.TUNE_CFG_RANGE
  let s := s.setFld R.TUNE_CFG_RANGE v
  let s := (s.setFld R.TUNE_CFG_SRC (v / 16)).setFld R.TUNE_CFG_SLOPE_NEG (v / 32)
  let s := if old = s.fld R.TUNE_CFG_RANGE then s else (s.setFld R.TUNE_STAT_RANGING 1).tuneZero
  s.select

/-- RANGE_CHANGE. -/
def execRangeChange (π : Path) (v : Nat) (s : State) : Host.Outcome State Fault Refusal :=
  .next (s.hostCmd π 0x15040 (doRangeChange v))

/-- The effect of RANGE_DONE. -/
def doRangeDone (s : State) : State :=
  if !s.bit R.TUNE_STAT_RANGING then s
  else
    let s := s.setFld R.TUNE_STAT_RANGING 0
    let s := if s.tune.waits || s.bit R.TUNE_STAT_FAULT then s
      else (s.setFld R.TUNE_STAT_ZERO 0).setFld R.TUNE_OUT_CODE s.tune.code
    s.raise tunePg 1

/-- RANGE_DONE. -/
def execRangeDone (s : State) : Host.Outcome State Fault Refusal := .next (doRangeDone s)

end Sys2Proof.Machine
end

