-- ==== Sys2Proof/Machine/Tod.lean ====
section
/-! DEFINITION. The frame grid, the pulse outputs and the time of day (spec/13 R392 to R394, R399 to R402; spec/03 R85; TRN2
and TOD pages). -/

namespace Sys2Proof.Machine

def todPg : Page := pg .tod

/-! ### The time of day (R399) -/

/-- Half nanoseconds in a second, and in a frame period of 4096 cycles of 2.5 ns. -/
def secHalf : Nat := 2000000000
def frameHalf : Nat := 20480

/-- A pulse on PPS_OUT, where the output is enabled (R393). -/
def State.ppsOut (s : State) : State :=
  if s.bit R.TRN2_PULSE_CFG_PPS_EN then s.emit (.pulse 1 (max 1 (min 999999 (s.fld R.TRN2_PPS_W_USEC)))) else s

/-- The time of day moves on by half nanoseconds; a carry into the seconds raises PPS_OUT. -/
def State.todAdvance (s : State) (n : Nat) : State :=
  let t := s.tod.half + n
  if t < secHalf then { s with tod := { s.tod with half := t } }
  else { s with tod := { s.tod with sec := (s.tod.sec + t / secHalf) % m48, half := t % secHalf } }.ppsOut

/-- The part of the frame period in progress that has passed grows, at most to its end. -/
def State.todWithin (s : State) (n : Nat) : State :=
  let k := min n (frameHalf - s.tod.ahead)
  let s := s.todAdvance k
  { s with tod := { s.tod with ahead := s.tod.ahead + k } }

/-- The grids have started: bring-up has completed step 4 (R393). -/
def State.gridOn (s : State) : Bool := decide (4 ≤ s.fld R.ST_STATE_STEP)

/-- The effect of TOD_SECOND_WRAP: the wrap that falls in the frame period in progress. -/
def doTodSecondWrap (s : State) : State :=
  let k := secHalf - s.tod.half
  if s.gridOn && decide (s.tod.ahead + k ≤ frameHalf) then s.todWithin k else s

/-- TOD_SECOND_WRAP. -/
def execTodSecondWrap (s : State) : Host.Outcome State Fault Refusal := .next (doTodSecondWrap s)

/-- The effect of a read of TOD.NOW_NS, some CTL_CLK cycles after the last command: the whole time is latched for the path,
and the nanoseconds are returned. -/
def doTodNowRead (π : Path) (cycles : Nat) (s : State) : State :=
  let s := if s.gridOn then s.todWithin (5 * cycles) else s
  let ns := s.tod.half / 2
  let s := { s with tod := { s.tod with capNs := s.tod.capNs.put 0 (pathCode π) ns, capSec := s.tod.capSec.put 0 (pathCode π) s.tod.sec } }
  s.answer π ns

/-- TOD_NOW_READ. -/
def execTodNowRead (π : Path) (cycles : Nat) (s : State) : Host.Outcome State Fault Refusal :=
  .next (if s.reaches π then
    (match s.gate 0x1404C with
      | .served => doTodNowRead π cycles s
      | g => (s.turnAway g π 0x1404C false).answer π 0)
  else s)

/-! ### Frame ticks and SYNC_OUT (R85, R393) -/

/-- A SYNC_OUT edge of the grid at the present tick: the pulse, where enabled, its interrupt and FT_PHASE. -/
def State.syncOut (s : State) : State :=
  if s.syncEdge then
    let s := s.setFld R.TRN2_FT_PHASE_TICKS 0
    let s := if s.bit R.TRN2_PULSE_CFG_SYNC_EN then s.emit (.pulse 0 (max 1 (s.fld R.TRN2_PULSE_CFG_SYNC_W))) else s
    s.raise trn2Pg 1
  else s.addFld R.TRN2_FT_PHASE_TICKS 1

/-- A frame tick: the tick count, ARR.NOW while its domain is on, the outputs of the grid, and the lag of the chunk in
progress. At the boundary of a device arm ARM_APPLY gives INTEG_OUT, when it is known what runs from the frame on. -/
def State.frameTick (s : State) : State :=
  let s := { s with ticks := s.ticks + 1 }
  let s := if s.domOn 7 then (s.addFld R.ARR_NOW 1).judgeLag else s
  let s := s.syncOut
  if s.deviceDue then s else s.integOut

/-- The grids start at a frame tick, which stands as the realign edge (R393). -/
def State.startGrid (s : State) : State :=
  { s with tarn := { s.tarn with syncBase := s.ticks + 1 } }.frameTick

/-- The effect of FRAME_TICK. -/
def doFrameTick (s : State) : State :=
  if !s.gridOn then s
  else
    let s := s.todAdvance (frameHalf - s.tod.ahead)
    { s with tod := { s.tod with ahead := 0 } }.frameTick.fillStep

/-- FRAME_TICK. -/
def execFrameTick (s : State) : Host.Outcome State Fault Refusal := .next (doFrameTick s)

/-! ### CLKOUT (R392) -/

/-- The phase of a CLKOUT divider at the last frame tick, in ROOT_CLK cycles: a frame period is 4096 × 12 of them. -/
def State.clkPhase (s : State) (k : Nat) : Nat :=
  (s.tarn.clkBase.get 0 k + (s.ticks - s.tarn.syncBase) * 49152) % max 1 (s.fld (R.TRN2_CLKOUT_DIV k))

/-- What CLKOUTn carries. -/
def State.clkOut (s : State) (k : Nat) : State :=
  s.emit (if s.bit (R.TRN2_CLKOUT_EN k) then .clkOut k (s.fld (R.TRN2_CLKOUT_DIV k)) (s.clkPhase k) else .clkOut k 0 0)

/-- A CLKOUT whose register has changed: a new divider has an arbitrary phase until the next realign, a free value; the output
changes where it is enabled or has been. -/
def State.clkChange (s : State) (k div : Nat) (en : Bool) : State :=
  let s := if s.fld (R.TRN2_CLKOUT_DIV k) = div then s
    else
      let (v, t) := s.free (max 1 (s.fld (R.TRN2_CLKOUT_DIV k)))
      { t with tarn := { t.tarn with clkBase := t.tarn.clkBase.put 0 k v } }
  if en || s.bit (R.TRN2_CLKOUT_EN k) then s.clkOut k else s

/-- Every CLKOUT divider restarts with a rising edge (R394). -/
def State.clkRestart (s : State) : State :=
  (List.range 4).foldl (fun s k => if s.bit (R.TRN2_CLKOUT_EN k) then s.clkOut k else s)
    { s with tarn := { s.tarn with clkBase := [] } }

/-! ### Realign (R394) -/

/-- A realign pending or not. -/
def State.setRealign (s : State) (b : Bool) : State :=
  { s with tarn := { s.tarn with realign := b } }.setBit R.TRN2_STAT_REALIGN_PEND b

/-- CFG_BLOCKED of TRN2: a write or command dropped. -/
def State.trn2Blocked (s : State) : State := (s.setFld R.TRN2_STAT_CFG_BLOCKED 1).error trn2Pg 0x10 0 0 none

/-- The effect of TRN2.CTL.REALIGN. -/
def doRealign (s : State) : State := if s.running then s.trn2Blocked else s.setRealign true

/-- The effect of TRN2.CTL.REALIGN_CANCEL. -/
def doRealignCancel (s : State) : State := s.setRealign false

/-- REALIGN and REALIGN_CANCEL. -/
def execRealign (π : Path) (s : State) : Host.Outcome State Fault Refusal := .next (s.hostCmd π 0x12040 doRealign)
def execRealignCancel (π : Path) (s : State) : Host.Outcome State Fault Refusal := .next (s.hostCmd π 0x12040 doRealignCancel)

/-- The time of day stands at a PPS_OUT edge whose seconds are a multiple of ALIGN_MOD. -/
def State.realignDue (s : State) : Bool :=
  s.tarn.realign && s.gridOn && decide (s.tod.half = 0) && decide (s.tod.sec % max 1 (s.fld R.TRN2_ALIGN_MOD_SECONDS) = 0)

/-- The realign edge is the edge at which a LOAD_SYNC that waits acts (R86). -/
def State.realignLoad (s : State) : State :=
  match s.arr.load with
  | .sync => if s.loadRipe then s.loadFrame else s
  | _ => s

/-- The effect of REALIGN_EDGE: the grids and the CLKOUT dividers restart here; the frame period cut short counts as one frame tick, and a LOAD_SYNC
that waits acts at it (R86). -/
def doRealignEdge (s : State) : State :=
  if !s.realignDue then s
  else
    let s := s.setRealign false
    let s := { s with tarn := { s.tarn with syncBase := s.ticks + 1 }, tod := { s.tod with ahead := 0 } }
    (s.frameTick.clkRestart.realignLoad.addFld R.TRN2_REALIGNS_COUNT 1).raise trn2Pg 0

/-- REALIGN_EDGE. -/
def execRealignEdge (s : State) : Host.Outcome State Fault Refusal := .next (doRealignEdge s)

/-! ### Commands of the time of day (R400, R402) -/

/-- PEND while a command waits. -/
def State.setTodPend (s : State) (load align : Bool) : State :=
  { s with tod := { s.tod with load := load, align := align } }.setBit R.TOD_STAT_PEND (load || align)

def doLoadPps (s : State) : State := s.setTodPend true s.tod.align
def doAlign (s : State) : State := s.setTodPend s.tod.load true
def doTodCancel (s : State) : State := s.setTodPend false false

/-- LOAD_PPS, ALIGN and TOD_CANCEL. -/
def execLoadPps (π : Path) (s : State) : Host.Outcome State Fault Refusal := .next (s.hostCmd π 0x14040 doLoadPps)
def execAlign (π : Path) (s : State) : Host.Outcome State Fault Refusal := .next (s.hostCmd π 0x14040 doAlign)
def execTodCancel (π : Path) (s : State) : Host.Outcome State Fault Refusal := .next (s.hostCmd π 0x14040 doTodCancel)

/-- A step of the time of day: the seconds are set and the nanoseconds start from 0 at an edge that lies some half nanoseconds
back. -/
def State.todStep (s : State) (sec back : Nat) : State :=
  let s := { s with tod := { s.tod with sec := sec % m48, half := 0 } }.setTodPend false false
  let s := (s.addFld R.TOD_STEPS_COUNT 1).setFld R.TOD_STAT_STEPPED 1
  ((s.ppsOut.info todPg 0xE1 none (s.tod.sec % m32) (s.tod.sec / m32) 0 0).raise todPg 2).todAdvance back

/-- Where the delayed PPS edge lies after the time that the time of day shows, in ps, for an edge that lies `offset` after it. -/
def State.ppsAt (s : State) (offset : Int) : Int := offset + s.sfld R.TOD_PPS_DELAY_PS

/-- The time of day's offset from the delayed edge in ps: it stands at a multiple of a second where it has none (R400). -/
def State.ppsOfs (s : State) (offset : Int) : Int :=
  let x := (s.tod.half * 500 + s.ppsAt offset) % 1000000000000
  if x < 500000000000 then x else x - 1000000000000

/-- The CTL_CLK edge nearest the delayed edge, in half nanoseconds after the time shown: a cycle is 5 of them, 2500 ps. -/
def State.ppsEdge (s : State) (offset : Int) : Int := (s.ppsAt offset + 1250) / 2500 * 5

/-- The effect of REF_PPS: a PPS edge of the active reference, `offset` ps after the time that the time of day shows. A command acts
at the CTL_CLK edge nearest the edge delayed by PPS_DELAY; the time of day is counted up to it where it lies ahead in the frame
period. -/
def doRefPps (offset : Int) (s : State) : State :=
  if 2 ≤ s.fld R.TRN0_STAT_ACTIVE then s
  else
    let k := s.ppsEdge offset
    let at_ : Int := s.tod.sec * secHalf + s.tod.half + k
    let s := s.setFld R.TOD_PPS_OFS_PS (if s.bit R.TOD_STAT_VALID then satFld (s.ppsOfs offset) else 0)
    let s := s.raise todPg 3
    if !(s.tod.load || s.tod.align) then s
    else
      let s := if 0 < k then s.todWithin k.toNat else s
      let back := (-k).toNat
      if s.tod.load then (s.todStep (s.fld R.TOD_SEC_LD_SEC) back).setFld R.TOD_STAT_VALID 1
      else s.todStep ((at_ / secHalf).toNat + (if (secHalf / 2 : Int) ≤ at_ % secHalf then 1 else 0)) back

/-- REF_PPS. -/
def execRefPps (offset : Int) (s : State) : Host.Outcome State Fault Refusal := .next (doRefPps offset s)

/-- The effect of NO_PPS: a command has waited 2 s. -/
def doNoPps (s : State) : State :=
  if s.bit R.TOD_STAT_PEND then (s.setFld R.TOD_STAT_NO_PPS 1).error todPg 0x10 0 0 none else s

/-- NO_PPS. -/
def execNoPps (s : State) : Host.Outcome State Fault Refusal := .next (doNoPps s)

/-- The composite time of R402. -/
def State.todComposite (s : State) : Nat := s.tod.sec % 2 ^ 34 * 2 ^ 30 + s.tod.half / 2

/-- The effect of CMP_FIRE. -/
def doCmpFire (n : Nat) (s : State) : State :=
  if n < 2 ∧ s.bit (R.TOD_CMP_CTL_ARM n) = true ∧ 0 ≤ seqDiff 64 s.todComposite (s.fld (R.TOD_CMP_TGT_C n)) then
    ((s.setFld (R.TOD_CMP_CTL_ARM n) 0).setFld (R.TOD_CMP_CTL_FIRED n) 1).raise todPg n
  else s

/-- CMP_FIRE. -/
def execCmpFire (n : Nat) (s : State) : Host.Outcome State Fault Refusal := .next (doCmpFire n s)

end Sys2Proof.Machine
end

