-- ==== Sys2Proof/Machine/Account.lean ====
section
/-! DEFINITION. The event log (spec/15 R436 to R443), the freeze of counters (spec/12 R377) and the snapshots and identities of
the ACC page (spec/15 R428 to R433). -/

namespace Sys2Proof.Machine

def accPg : Page := pg .acc

/-! ### EVENT_RECORD (R436 to R439, R442, R443) -/

/-- The BAR0 offset of a ring slot. -/
def ringSlot (s : Nat) : Nat := 0x1800000 + 32 * (s % 4096)

/-- The eight words of an entry. -/
def State.entryWords (s : State) (e : Ev) (seq : Nat) : List Nat :=
  let frame := e.label.getD s.now
  let flags := (if e.label.isSome then 1 else 0) + (if s.evLoss ≠ 0 then 2 else 0) + (if s.bit R.ARR_STAT_NOW_VALID then 0 else 4)
  let source := e.source % 2 ^ 14
  [e.code % 65536 + 65536 * source, frame % m32, frame / m32 % 65536 + 65536 * flags + 2 ^ 24 * min 255 s.evLoss, seq,
   e.arg0, e.arg1, e.arg2, e.arg3]

/-- EVT.RESIDENT as the pointers stand; EVENT is raised when it rises to the threshold. -/
def State.showResident (s : State) : State :=
  let old := s.fld R.EVT_RESIDENT
  let new := (s.fld R.EVT_WPTR_SEQ + m32 - s.fld R.EVT_RPTR_SEQ) % m32
  let thr := max 1 (s.fld R.EVT_CFG_IRQ_THR)
  let s := s.setFld R.EVT_RESIDENT new
  if old < thr ∧ thr ≤ new then s.raise evtPg 0 else s

/-- The ring slot of the next entry may be reused. -/
def State.slotFree (s : State) : Bool :=
  let old := (s.fld R.EVT_WPTR_SEQ + m32 - 4096) % m32
  decide (0 < seqDiff 32 (s.fld R.EVT_RPTR_SEQ) old) || decide (0 < seqDiff 32 (s.fld R.EVT_SPILL_HEAD_SEQ) old)

/-- An entry written to the ring with the next EVSEQ. -/
def State.recordEntry (s : State) (e : Ev) : State :=
  let seq := s.fld R.EVT_WPTR_SEQ
  let s := (s.entryWords e seq).zipIdx.foldl (fun s x => s.setTab (ringSlot seq + 4 * x.2) x.1) s
  let s := { s with evLoss := 0 }
  let s := ((s.addFld R.EVT_GEN 1).addFld R.EVT_RECORDED 1).setFld R.EVT_WPTR_SEQ (seq + 1)
  s.showResident

/-- The effect of EVENT_RECORD: the oldest event of the queue is recorded, or dropped where its slot is not free. -/
def doEventRecord (s : State) : State :=
  match s.evq with
  | [] => s
  | e :: t =>
    let s := { s with evq := t }
    if s.slotFree then s.recordEntry e else s.dropEvent

/-- EVENT_RECORD. -/
def execEventRecord (s : State) : Host.Outcome State Fault Refusal := .next (doEventRecord s)

/-! ### SPILL_COPY (R440) and RPTR (R441) -/

/-- Ring entries copied to the spill, one by one, until the write pointer, a full spill or a write that is not accepted. -/
def spillEntries (m : Master) : Nat → State → State
  | 0, s => s
  | n + 1, s =>
    let h := s.fld R.EVT_SPILL_HEAD_SEQ
    if s.spillFull then (s.setFld R.EVT_STAT_SPILL_FULL 1).raise evtPg 2
    else if h = s.fld R.EVT_WPTR_SEQ then s
    else
      let bs := (List.range 8).flatMap (fun k => leBytes 4 (s.tab (ringSlot h + 4 * k)))
      let (r, s) := s.writeDram m (0xFE000000 + 32 * (h % 1048576)) bs
      if r = .ok then spillEntries m n (s.setFld R.EVT_SPILL_HEAD_SEQ (h + 1)) else s

/-- The effect of SPILL_COPY. -/
def doSpillCopy (s : State) : State :=
  match s.wellIn with
  | none => s
  | some w =>
    let waiting := (s.fld R.EVT_WPTR_SEQ + m32 - s.fld R.EVT_SPILL_HEAD_SEQ) % m32
    if !s.bit R.EVT_CFG_SPILL_EN || decide (waiting < max 256 (s.fld R.EVT_SPILL_THR_ENTRIES)) then s
    else spillEntries (if w = 0 then .wellA else .wellB) (waiting + 1) s

/-- SPILL_COPY. -/
def execSpillCopy (s : State) : Host.Outcome State Fault Refusal := .next (doSpillCopy s)

/-- The effect of a write to EVT.RPTR. -/
def doEvtRptrWrite (v : Nat) (s : State) : State :=
  let r := s.fld R.EVT_RPTR_SEQ
  let k := (v % m32 + m32 - r) % m32
  if k ≤ (s.fld R.EVT_WPTR_SEQ + m32 - r) % m32 then
    let s := ((s.setFld R.EVT_RPTR_SEQ v).addFld R.EVT_CONSUMED k).showResident
    if s.spillFull then s else s.setFld R.EVT_STAT_SPILL_FULL 0
  else s.setFld R.EVT_STAT_RPTR_BAD 1

/-- EVT_RPTR_WRITE. -/
def execEvtRptrWrite (π : Path) (v : Nat) (s : State) : Host.Outcome State Fault Refusal :=
  .next (s.hostCmd π 0x300050 (doEvtRptrWrite v))

/-! ### Freezes (R377, R430, R433) -/

/-- The counter fields of a page. -/
def countFields (p : Page) : List Fld :=
  let of (b : Nat) (rs : List RegDesc) : List Fld :=
    (rs.filter (·.cnt)).flatMap (fun r => r.fields.map (fun x => (⟨p.base + b + r.off, x.lo, x.w⟩ : Fld)))
  of 0 hdrRegs ++ (match armOffset p.kind with | some a => of a armRegs | none => []) ++ of 0 (blockRegs p.kind)

/-- The keys of the per-input counter window, which page CHN1 latches. -/
def inputLo : Nat := 0x1180000 * 64
def inputHi : Nat := 0x11E0000 * 64

/-- The fields of SCR.TRKn (R309). -/
def State.trackView (s : State) (rel lo : Nat) : Option Nat :=
  if rel < 0x200 ∨ 0x400 ≤ rel then none
  else
    let p (t : Track) : Nat := t.word * 32
    let of (f : Track → Nat) : Nat := match s.track ((rel - 0x200) / 8) with | some t => f t | none => 0
    match rel % 8, lo with
    | 0, 0 => some (of (fun t => placeChan (p t)))
    | 0, 6 => some (of (fun t => placeBank (p t)))
    | 0, 10 => some (of (fun t => placeRow (p t)))
    | 0, 26 => some (of (fun t => placeWord (p t)))
    | 4, 0 => some (of (fun t => min 4 t.count))
    | 4, 4 => some (of (fun t => min 2 t.rewrites))
    | 4, 7 => some (of (fun _ => 1))
    | _, _ => none

/-- What a counter field counts: the tracking table is held beside its registers. -/
def State.counted (s : State) (p : Page) (f : Fld) : Nat :=
  if p.kind = .scr then (s.trackView (f.off - p.base) f.lo).getD (s.fld f) else s.fld f

/-- A page latches its counters and ARR.NOW; the arrival area's once the tiles accepted so far are placed (R99). -/
def State.freezePage (s : State) (p : Page) : State :=
  let s := if p.kind = .arr then s.placeAll else s
  let v := s.snap.vals.clear (p.base * 64) ((p.base + 4096) * 64)
  let v := (countFields p).foldl (fun (m : SMap Nat) f => SMap.put 0 m f.key (s.counted p f)) v
  let v := if p.kind = .chn1 then SMap.graft v inputLo inputHi s.regs else v
  let s := { s with snap := { s.snap with vals := v } }
  (s.setFld (R.PG_CTL_FREEZE p) 1).setFld (R.PG_SNAP_SEQ_FRAME p) s.now

/-- Pages for which a test holds are no longer frozen; a page of the ACC snapshot that breaks away is shown. -/
def State.thawPages (s : State) (test : Page → Bool) : State :=
  let hit (k : Nat) : Bool := match pageAt k with | some p => test p | none => false
  let v := s.snap.vals.filter (fun e => !hit (e.1 / 64))
  let gone := s.snap.byAcc.any hit
  let s := { s with snap := { vals := v, byAcc := s.snap.byAcc.filter (fun b => !hit b), broken := s.snap.broken || gone } }
  if gone then s.setFld R.ACC_STAT_BROKEN 1 else s

/-- Every present page of the ordering code. -/
def State.allPages (s : State) : List Page :=
  PageKind.all.flatMap (fun k => (List.range (k.count s.dev.code)).map (fun i => (⟨k, i⟩ : Page)))

/-- A driver's write of PG_CTL.FREEZE. -/
def doPageFreeze (p : Page) (on : Bool) (s : State) : State :=
  if on = s.bit (R.PG_CTL_FREEZE p) then s
  else if on then s.freezePage p
  else (s.setFld (R.PG_CTL_FREEZE p) 0).thawPages (fun q => decide (q = p))

/-- PAGE_FREEZE. -/
def execPageFreeze (π : Path) (p : Page) (on : Bool) (s : State) : Host.Outcome State Fault Refusal :=
  .next (s.hostCmd π (p.base + 8) (doPageFreeze p on))

/-- The value of a counter in the snapshot of its page, or as it stands where the page is not frozen. -/
def State.frozen (s : State) (f : Fld) : Nat :=
  match pageAt f.off with
  | some p => if s.bit (R.PG_CTL_FREEZE p) then s.snap.vals.get 0 f.key else s.fld f
  | none => if s.bit (R.PG_CTL_FREEZE (pg .chn1)) then s.snap.vals.get 0 f.key else s.fld f

/-! ### ACC commands (R430, R432) -/

/-- The effect of ACC.CTL.FREEZE_ALL. -/
def doFreezeAll (s : State) : State :=
  let ps := s.allPages.filter (fun p => s.domOn p.domain)
  let s := ps.foldl State.freezePage s
  let s := { s with snap := { s.snap with byAcc := ps.map Page.base, broken := false } }
  let s := (s.setFld R.ACC_SNAP_FRAME_FRAME s.now).setFld R.ACC_STAT_FROZEN 1
  (s.addFld R.ACC_SNAPS_COUNT 1).info accPg 0xE1 none (s.now % m32) (s.now / m32) 0 0

/-- CMD_IGN of ACC. -/
def State.accIgnored (s : State) : State := s.setFld R.ACC_STAT_CMD_IGN 1

/-- The effect of ACC.CTL.THAW_ALL. -/
def doThawAll (s : State) : State :=
  if s.bit R.ACC_STAT_CHECK_BUSY then s.accIgnored
  else
    let s := s.allPages.foldl (fun s p => s.setFld (R.PG_CTL_FREEZE p) 0) s
    { s with snap := {} }.setFld R.ACC_STAT_FROZEN 0

/-- The effect of ACC.CTL.CHECK. -/
def doCheck (s : State) : State :=
  if !s.bit R.ACC_STAT_FROZEN || s.bit R.ACC_STAT_CHECK_BUSY || s.snap.broken then s.accIgnored
  else (s.setFld R.ACC_STAT_CHECK_BUSY 1).setFld R.ACC_CTL_CHECK 1

/-- FREEZE_ALL, THAW_ALL and CHECK. -/
def execFreezeAll (π : Path) (s : State) : Host.Outcome State Fault Refusal := .next (s.hostCmd π 0x2C0040 doFreezeAll)
def execThawAll (π : Path) (s : State) : Host.Outcome State Fault Refusal := .next (s.hostCmd π 0x2C0040 doThawAll)
def execCheck (π : Path) (s : State) : Host.Outcome State Fault Refusal := .next (s.hostCmd π 0x2C0040 doCheck)

/-- A sum of counters of a snapshot modulo 2^48. -/
def State.sumFrozen (s : State) (fs : List Fld) : Nat := (fs.map s.frozen).sum % m48

/-- An identity: one counter equals the sum of others. -/
def State.balances (s : State) (f : Fld) (fs : List Fld) : Bool := decide (s.frozen f % m48 = s.sumFrozen fs)

/-- The identities of R428 by ACC bit: how many instances each has, and whether one holds. -/
def State.identCount (s : State) (k : Nat) : Nat :=
  match k with
  | 0 => s.nLanes
  | 3 => min 4096 s.lastCfg.n
  | 10 => 12
  | 11 => 2
  | _ => 1

/-- Instance i of identity k holds on the frozen values. -/
def State.identHolds (s : State) (k i : Nat) : Bool :=
  match k with
  | 0 => s.balances (R.LNK_RX_TILES i) [R.LNK_ACCEPTED i, R.LNK_DROP_RESET i, R.LNK_DROP_TRUNC i, R.LNK_DROP_ELASTIC i,
      R.LNK_DROP_FEC i, R.LNK_DROP_HDR_CRC i, R.LNK_DROP_HDR_FIELD i, R.LNK_DROP_NOT_MAPPED i, R.LNK_DROP_WINDOW i, R.LNK_DROP_GAP i]
  | 1 => s.balances R.ARR_IN ((List.range s.nLanes).map R.LNK_ACCEPTED)
  | 2 => s.balances R.ARR_IN [R.ARR_CONSUMED, R.ARR_INVAL_CRC, R.ARR_INVAL_POISON, R.ARR_INVAL_DUP, R.ARR_INVAL_OVERRUN,
      R.ARR_INVAL_UNUSED, R.ARR_LOST_RESET, R.ARR_RESIDENT]
  | 3 => s.balances (inputCtr i 0) ((List.range 10).map (fun r => inputCtr i (r + 1)))
  | 4 => s.balances R.MERE_PRODUCED [R.MERE_WRITTEN, R.MERE_DISC_HELD, R.MERE_LOST_OPEN, R.MERE_OPEN_COUNT]
  | 5 => s.balances R.MERE_WRITTEN [R.MERE_CONSUMED, R.MERE_DISC_SKIP, R.MERE_DISC_STOP, R.MERE_LOST_RESET, R.MERE_RESIDENT]
  | 6 => s.balances R.BAS_CR_ISSUED [R.BAS_CR_RETURNED, R.BAS_CR_LOST_RESET, R.BAS_CR_OUT]
  | 7 => s.balances R.BAS_CR_RETURNED [R.BAS_COMMITTED, R.BAS_REJ_CRC, R.BAS_REJ_DIAG, R.BAS_REJ_DUP, R.BAS_REJ_FAILED,
      R.BAS_LOST_CB, R.BAS_IN_CB]
  | 8 => s.balances R.BM_BSAMP [R.BM_BVALID, R.BM_BINVAL_MASK, R.BM_BINVAL_FAIL, R.BM_BINVAL_WT]
  | 9 => s.balances R.DMA_RD_BYTES [R.DMA_WR_BYTES, R.DMA_LOST_RESET, R.DMA_INFLIGHT]
  | 10 => s.balances (R.MX_REQ i) [R.MX_RSP i, R.MX_LOST_RESET i, R.MX_OUT i]
  | 11 => if i = 0 then s.balances R.EVT_GEN [R.EVT_RECORDED, R.EVT_DROPPED]
      else s.balances R.EVT_RECORDED [R.EVT_CONSUMED, R.EVT_LOST_RESET, R.EVT_LOST_REMAP, R.EVT_RESIDENT]
  | _ => true

/-- The first instance of an identity that fails. -/
def State.firstFail (s : State) (k : Nat) : Option Nat := (List.range (s.identCount k)).find? (fun i => !s.identHolds k i)

/-- The effect of CHECK_DONE: of a snapshot that has broken meanwhile nothing is reported (R433). -/
def doCheckDone (s : State) : State :=
  if !s.bit R.ACC_STAT_CHECK_BUSY then s
  else if s.snap.broken then ((s.setFld R.ACC_STAT_CHECK_BUSY 0).setFld R.ACC_CTL_CHECK 0).accIgnored
  else
    let fails := (List.range 12).filterMap (fun k => (s.firstFail k).map (fun i => (k, i)))
    let s := s.setFld R.ACC_RESULT_FAILED ((fails.map (fun x => 2 ^ x.1)).sum)
    let (k, i) := fails.headD (15, 0)
    let s := (s.setFld R.ACC_DETAIL_IDENT k).setFld R.ACC_DETAIL_INSTANCE (if k = 11 then 0 else i)
    let s := ((s.setFld R.ACC_STAT_CHECK_BUSY 0).setFld R.ACC_CTL_CHECK 0).setFld R.ACC_STAT_CHECK_DONE 1
    let s := s.raise accPg 0
    if fails.isEmpty then s
    else ((s.addFld R.ACC_CHECK_FAILS_COUNT 1).error accPg 0x10 0 0 none).raise accPg 1

/-- CHECK_DONE. -/
def execCheckDone (s : State) : Host.Outcome State Fault Refusal := .next (doCheckDone s)

end Sys2Proof.Machine
end

