-- ==== Sys2Proof/Machine/Power.lean ====
section
/-! DEFINITION. Power domains, device states, resets and bring-up (spec/14 R403 to R418; PWR, ST and SEC pages). -/

namespace Sys2Proof.Machine

def pwrPg : Page := pg .pwr
def stPg : Page := pg .st
def scrPg : Page := pg .scr

/-! ### Groups after a reset (R272) -/

/-- The supervisor of a group begins: a locked-out engine stays so, every other is tested once. A locked-out engine's slot
goes to the Fallow, or has no bearer. -/
def State.beginGroup (s : State) (g : Nat) : State :=
  let locked (sl : Nat) : Bool := s.bit (R.GSV_HIST_LOCKED_OUT g sl)
  let bore : SMap Nat := (List.range 8).foldl (fun m sl => if locked sl then m.put 0 sl (sl + 1) else m) []
  let s := s.setGsv g { fallow := if locked 8 then none else some 8, bore := bore }
  let s := { s with bas := { s.bas with failed := s.bas.failed.filter (fun n => decide (n / 9 ≠ g)) } }
  let s := (List.range 9).foldl (fun s sl =>
    let n := 9 * g + sl
    if locked sl then (s.setFld (R.ENG_STAT_STATE n) esLocked).setFld (R.GSV_HEALTH_FAILED g sl) 1
    else (s.setFld (R.ENG_STAT_STATE n) (if sl = 8 then esStandby else esIdle)).startTest n) s
  let bare := (List.range 8).filter locked
  let s := bare.foldl (fun s sl =>
    s.signBearer g sl sl ((s.gsv g).fallow.isSome && decide ((s.gsv g).takeover = none))) s
  s.refreshGroup g

/-! ### What a switch-off or reset stops -/

/-- The run ends at once, without completing its integration (R413). -/
def State.cutRun (s : State) : State :=
  let runs := match s.sward.runs with
    | (f, none) :: t => (f, some s.now) :: t
    | l => l
  { s with sward := { runs := runs, engs := s.sward.engs, replanDue := s.sward.replanDue } }.setFld R.XS_STAT_RUN 0

/-- The engines of a group are zeroed (R182, R416). -/
def State.zeroGroup (s : State) (g : Nat) : State :=
  (List.range 9).foldl (fun s sl =>
    let s := s.engineReset (9 * g + sl)
    (s.setEng (9 * g + sl) {}).setFld (R.ENG_STAT_STATE (9 * g + sl)) esOff) s

/-- Links with a lane in a domain. -/
def State.linksLaned (s : State) (d : Nat) : List Nat :=
  (List.range s.nLanes).filter (fun j =>
    (List.range s.nLanes).any (fun n => s.laneLink n == some j && decide ((⟨.slk, n⟩ : Page).domain = d)))

/-- Links with a lane or their page in a domain. -/
def State.linksIn (s : State) (d : Nat) : List Nat :=
  (List.range s.nLanes).filter (fun j => decide ((lnkPg j).domain = d) || (s.linksLaned d).contains j)

/-- The arrival area, the channeliser and the Mere stop (R100, R159). -/
def State.stopChan (s : State) : State :=
  let s := (s.stopArr R.ARR_LOST_RESET).clearResident R.ARR_LOST_RESET
  { s.stopMere with chn := {}, dly := {}, arr := {} }

/-- The Basin, the beam combiner and the peak finder stop (R220). -/
def State.stopBas (s : State) : State := { s.stopBasin with bas := {}, beam := {} }

/-- A Well stops. -/
def State.stopWells (s : State) : State :=
  let s := s.dropSave
  let s := (s.setFld (R.WELL_STAT_STATE 0) wsOff).setFld (R.WELL_STAT_STATE 1) wsOff
  { s with well := {}, flash := { s.flash with keys := false } }.holdAvs

/-- The blocks of a domain stop, with the lost-in-reset accounting of their chapters (R405). -/
def State.stopBlocks (s : State) (d : Nat) : State :=
  if d = 1 then s.stopWells
  else if 3 ≤ d ∧ d ≤ 6 then
    let s := (s.linksIn d).foldl (fun s j => s.stopLink R.LNK_DROP_RESET j) s
    { s with lanes := s.lanes.filter (fun e => decide ((⟨.slk, e.1⟩ : Page).domain ≠ d)) }
  else if d = 7 then s.stopChan
  else if 8 ≤ d ∧ d ≤ 15 then s.zeroGroup (d - 8)
  else if d = 16 then s.stopBas
  else if d = 17 ∨ d = 18 then { s with dram := { s.dram with logs := s.dram.logs.filter (fun e => decide (e.1 / 4 + 17 ≠ d)) } }
  else if d = 19 then
    let s := (s.cutRun.stopDma).stopMatrix
    { s with dram := { s.dram with tracks := [], spareQ := [] } }
  else s

/-- A domain switched off (R404, R405, R471, R473). -/
def State.stopDomain (s : State) (d : Nat) : State :=
  if !s.domOn d then s
  else
    let s := (s.dropArms (fun p => decide (p.domain = d))).stopBlocks d
    let cfgs := if d = 7 then [s.bareCfg] else s.cfgs
    let s := { s with cfgs := cfgs }.dropSets (fun p => decide (p.domain = d))
    let s := s.clearPaths (fun p => decide (p.domain = d))
    let s := s.setFld R.PWR_DOM_STAT_ON (putBit (s.fld R.PWR_DOM_STAT_ON) d false)
    s.addFld R.PWR_SWITCHES_COUNT 1

/-- A field of one of two or three classes on the pages for which a test holds. -/
def State.clearClasses (s : State) (f : Bool) (test : Page → Bool) : State :=
  s.clearRegs (fun k => (match keyPage k with | some p => test p | none => false) &&
    (keyClass k == .H || keyClass k == .B || (f && keyClass k == .F)))

/-- A domain switched on: the class H and B fields of its pages take their reset values (R405). -/
def State.startDomain (s : State) (d : Nat) : State :=
  if s.domOn d then s
  else
    let s := s.setFld R.PWR_DOM_STAT_ON (putBit (s.fld R.PWR_DOM_STAT_ON) d true)
    let s := s.thawPages (fun p => decide (p.domain = d))
    let s := s.clearClasses false (fun p => decide (p.domain = d))
    let gone (o : Nat) : Bool := decide (windowDomain o = some d) && decide (o < 0x1400000)
    let s := { s with tables := s.tables.filter (fun e => !gone e.1), tabPoison := s.tabPoison.filter (fun o => !gone o) }
    if 8 ≤ d ∧ d ≤ 15 then s.beginGroup (d - 8) else s

/-- Leaving STANDBY, the class H and B fields of the pages whose domain has stayed on take their reset values as well (R416). -/
def State.wakeKept (s : State) : State :=
  let kept (p : Page) : Bool := decide (p.domain = 2 ∨ p.domain = 17 ∨ p.domain = 18) && s.domOn p.domain
  let s := ((s.thawPages kept).clearClasses false kept).clearPaths kept
  { s with tables := s.tables.filter (fun e => decide (0x1000000 ≤ e.1)), dram := { s.dram with logs := [] } }

/-! ### DOM_EN (R403 to R407) -/

/-- The bits that exist on the ordering code, and those that DOM_EN switches. -/
def State.domPresent (s : State) : Nat := if s.dev.code = .f then 0xFFFFF else 0xB0F9F
def domSwitched (d : Nat) : Bool := decide (3 ≤ d ∧ d ≤ 16)

/-- A mask with a bit for each domain for which a test holds. -/
def domMask (t : Nat → Bool) : Nat := (List.range 20).foldl (fun m d => if t d then m + 2 ^ d else m) 0

/-- Switching a domain off is refused (R406). -/
def State.domRefused (s : State) (d : Nat) : Bool :=
  s.running && (decide (d = 7) || decide (d = 16)
    || (decide (8 ≤ d ∧ d ≤ 15) && (List.range 9).any (fun sl => s.bit (R.ENG_ROLE_ASSIGNED (9 * (d - 8) + sl))))
    || (decide (3 ≤ d ∧ d ≤ 6) && (s.linksLaned d).any (fun j => s.bit (R.PG_CTL_ENABLE (lnkPg j)) && s.tileSetUsed j)))

/-- The effect of a write to PWR.DOM_EN; a refusal's code 0x11 comes before 0x12 of the same write (R376). -/
def doDomEnWrite (v : Nat) (s : State) : State :=
  let old := s.fld R.PWR_DOM_EN_EN
  let absent := (List.range 20).any (fun d => v.testBit d && !s.domPresent.testBit d)
  let new := domMask (fun d => if domSwitched d && s.domPresent.testBit d then v.testBit d else old.testBit d)
  let active := decide (s.fld R.ST_STATE_DEV_STATE = 0)
  let refused := active && (List.range 20).any (fun d => old.testBit d && !new.testBit d && s.domRefused d)
  let s := if refused then (s.setFld R.PWR_STAT_DOM_REFUSED 1).error pwrPg 0x11 0 0 none else s
  let s := if absent then (s.setFld R.PWR_STAT_ABSENT_REQ 1).error pwrPg 0x12 0 0 none else s
  if refused || decide (new = old) then s
  else
    let s := s.setFld R.PWR_DOM_EN_EN new
    if !active then s
    else
      let off (d : Nat) : Bool := old.testBit d && !new.testBit d
      let s := s.dropArms (fun p => off p.domain)
      let s := (List.range 20).foldl (fun s d => if off d then s.stopDomain d else s) s
      { s with pwr := { s.pwr with target := some new } }.setFld R.PWR_DOM_STAT_SWITCHING 1

/-- DOM_EN_WRITE. -/
def execDomEnWrite (π : Path) (v : Nat) (s : State) : Host.Outcome State Fault Refusal :=
  .next (s.hostCmd π 0x2048 (doDomEnWrite v))

/-- The domains that DOM_EN names come on. -/
def State.startNamed (s : State) (mask : Nat) : State :=
  (List.range 20).foldl (fun s d => if domSwitched d && mask.testBit d then s.startDomain d else s) s

/-- The domains that DOM_EN switches and does not name go off. -/
def State.stopUnnamed (s : State) (mask : Nat) : State :=
  let off (d : Nat) : Bool := domSwitched d && !mask.testBit d && s.domOn d
  let s := s.dropArms (fun p => off p.domain)
  (List.range 20).foldl (fun s d => if off d then s.stopDomain d else s) s

/-- The domains of a mask that the device state lets come on: in IDLE neither CHAN nor ENG, in STANDBY none (R408). -/
def State.domAllowed (s : State) (m : Nat) : Nat :=
  match s.fld R.ST_STATE_DEV_STATE with
  | 0 => m
  | 1 => m % 128 + m / 65536 * 65536
  | _ => 0

/-- The effect of DOMAIN_DONE: every switch has completed. -/
def doDomainDone (s : State) : State :=
  match s.pwr.target with
  | none => s
  | some m =>
    let s := { s with pwr := { s.pwr with target := none } }.startNamed (s.domAllowed m)
    let s := s.setFld R.PWR_DOM_STAT_SWITCHING 0
    (s.info pwrPg 0xE2 none (s.regValue 0x204C) 0 0 0).raise pwrPg 1

/-- DOMAIN_DONE. -/
def execDomainDone (s : State) : Host.Outcome State Fault Refusal := .next (doDomainDone s)

/-! ### Device states (R408 to R412) -/

/-- A state command refused (R409). -/
def State.stateRefused (s : State) : State := (s.setFld R.PWR_STAT_REFUSED 1).error pwrPg 0x10 0 0 none

/-- A transition begins. -/
def State.beginTrans (s : State) (t : Nat) : State :=
  { s with pwr := { s.pwr with trans := some t } }.setFld R.PWR_STAT_TRANSITION 1

/-- Nothing forbids IDLE or STANDBY (R409). -/
def State.quiet (s : State) : Bool :=
  decide (s.fld R.ST_STATE_DEV_STATE = 0) && !s.running && s.dmaIdle && !s.bit R.BAS_STAT_FINISHING
    && !s.bit R.MAP_STAT_FILL_BUSY && !s.bit R.MAP_STAT_REMAP_BUSY

/-- The domains as DOM_EN names them: those it switches and does not name go off, the others come on. -/
def State.followDomEn (s : State) : State := (s.stopUnnamed (s.fld R.PWR_DOM_EN_EN)).startNamed (s.fld R.PWR_DOM_EN_EN)

/-- The exit from IDLE begins (R410): the DORMANT links wake, CHAN and the ENG domains come on, every channel leaves
self-refresh. -/
def State.leaveIdle (s : State) : State :=
  let woken := (List.range s.nLanes).filter (fun j => decide (s.lkstate j = lkDormant))
  let s := { s with pwr := { s.pwr with woken := woken } }.beginTrans 0
  (woken.foldl (fun s j => s.wakeLink j) s).followDomEn.setSelfRefresh false

/-- The effects of the state commands. -/
def doGoActive (s : State) : State :=
  let st := s.fld R.ST_STATE_DEV_STATE
  if s.pwr.trans.isSome ∨ st = 0 then s.stateRefused
  else if st = 1 then s.leaveIdle
  else s.beginTrans 0
def doGoIdle (s : State) : State :=
  if s.pwr.trans.isSome || !s.quiet then s.stateRefused
  else (List.range s.nLanes).foldl (fun s j => s.askDormant j true) (s.beginTrans 1)
def doGoStandby (s : State) : State :=
  if s.pwr.trans.isSome || !s.quiet then s.stateRefused else s.beginTrans 2

/-- GO_ACTIVE, GO_IDLE and GO_STANDBY. -/
def execGoActive (π : Path) (s : State) : Host.Outcome State Fault Refusal := .next (s.hostCmd π 0x2040 doGoActive)
def execGoIdle (π : Path) (s : State) : Host.Outcome State Fault Refusal := .next (s.hostCmd π 0x2040 doGoIdle)
def execGoStandby (π : Path) (s : State) : Host.Outcome State Fault Refusal := .next (s.hostCmd π 0x2040 doGoStandby)

/-- The memory after a loss of its contents (R313): nothing has been written since. -/
def DramSt.lost (d : DramSt) : DramSt :=
  { d with cells := [], bg := [], words := [], wfaults := [], reads := [], failed := [], held := [], sysDone := false, epoch := d.epoch + 1,
           retraining := [], manual := [] }

/-- The contents of DRAM are lost (R313), and with them the unread events that only the spill holds (R442). -/
def State.loseDram (s : State) : State :=
  let s := s.loseSpill R.EVT_LOST_RESET
  { s with dram := s.dram.lost, pwr := { s.pwr with trained := [] } }

/-- A link that the exit from IDLE woke carries data again, or has gone down (DESIGN CHOICE: R410 says nothing of a link that does
not come up). -/
def State.wokenDone (s : State) (j : Nat) : Bool :=
  decide (s.lkstate j ∈ [lkDisabled, lkUp, lkDegraded, lkDown])

/-- The work of a transition to a state is done. -/
def State.transReady (s : State) (t : Nat) : Bool :=
  if t = 1 then (List.range s.nLanes).all (fun j => !(s.link j).dormWait)
  else if t = 2 then s.wellIn.isNone || (!s.bit R.NVR_STAT_DIRTY && !s.bit R.NVR_STAT_BUSY)
  else if s.fld R.ST_STATE_DEV_STATE = 1 then s.pwr.woken.all s.wokenDone
  else s.ready

/-- The entry to STANDBY (R411). -/
def State.enterStandby (s : State) : State :=
  let ret := s.bit R.PWR_CFG_MEM_RET
  let off (d : Nat) : Bool := d != 0 && d != 2 && !(ret && (d == 17 || d == 18))
  let s := (List.range s.nLanes).foldl (fun s j => s.stopLink R.LNK_DROP_RESET j) s
  let s := (if ret then s.setSelfRefresh true else s.loseDram)
  let s := s.dropArms (fun p => off p.domain && s.domOn p.domain)
  let s := (List.range 20).foldl (fun s d => if off d then s.stopDomain d else s) s
  (s.setFld R.ST_STATE_READY 0).setFld R.ST_STATE_STEP 4

/-- The work of a transition. -/
def State.transWork (s : State) (t : Nat) : State :=
  if t = 1 then
    let s := s.setSelfRefresh true
    let s := s.dropArms (fun p => decide (7 ≤ p.domain ∧ p.domain ≤ 15))
    [7, 8, 9, 10, 11, 12, 13, 14, 15].foldl (fun s d => s.stopDomain d) s
  else if t = 2 then s.enterStandby
  else if s.fld R.ST_STATE_DEV_STATE = 1 then s.followDomEn
  else s

/-- The effect of STATE_DONE. -/
def doStateDone (s : State) : State :=
  match s.pwr.trans with
  | none => s
  | some t =>
    if !s.transReady t then s
    else
      let s := { s.transWork t with pwr := { (s.transWork t).pwr with trans := none } }
      let s := ((s.setFld R.ST_STATE_DEV_STATE t).setFld R.PWR_STAT_STATE t).setFld R.PWR_STAT_TRANSITION 0
      ((s.addFld R.PWR_TRANSITIONS_COUNT 1).info pwrPg 0xE1 none t 0 0 0).raise pwrPg 0

/-- STATE_DONE. -/
def execStateDone (s : State) : Host.Outcome State Fault Refusal := .next (doStateDone s)

/-! ### Resets (R413 to R416) -/

/-- Everything outside AON but the Wells and the memory stops. -/
def State.stopAll (s : State) : State :=
  let s := s.dropArms (fun p => !p.aon)
  let s := (List.range s.nLanes).foldl (fun s j => s.stopLink R.LNK_DROP_RESET j) s
  let s := s.stopChan.stopBas.cutRun
  let s := (List.range s.nGroups).foldl (fun s g => s.zeroGroup g) s
  (s.stopDma).stopMatrix

/-- The state outside registers that goes with them. -/
def State.forget (s : State) : State :=
  { s with
    actives := [], cfgs := [], arms := {}, lanes := [], links := [], gsvs := []
    sward := { runs := s.sward.runs }
    dram := { s.dram with logs := [], tracks := [], spareQ := [] } }

/-- The table windows of class H, the MSI-X structures, and with class F the program SRAM, are cleared. -/
def State.clearTabs (s : State) (f : Bool) : State :=
  let gone (o : Nat) : Bool := decide (o < 0x1400000) || (f && decide (o < 0x1800000))
  { s with tables := s.tables.filter (fun e => !gone e.1), tabPoison := s.tabPoison.filter (fun o => !gone o) }

/-- The class H and B fields of every page take their reset values, with `f` the class F fields too; what shows the state of
a Well is kept, since the Wells run on. -/
def State.loadClasses (s : State) (f : Bool) : State :=
  let w0 := s.fld (R.WELL_STAT_STATE 0)
  let w1 := s.fld (R.WELL_STAT_STATE 1)
  let s := s.thawPages (fun p => !p.aon)
  let s := (s.clearClasses f (fun _ => true)).clearPaths (fun p => !p.aon)
  let s := s.clearTabs f
  let s := (s.setFld (R.WELL_STAT_STATE 0) w0).setFld (R.WELL_STAT_STATE 1) w1
  let s := { s with well := { s.well with op := none, saved := none, tested := none } }
  (s.setFld R.MBX_STAT_WELL (s.wellIn.getD 0)).setBit R.MBX_STAT_NO_WELL s.wellIn.isNone

/-- The groups whose domain is on begin again. -/
def State.beginGroups (s : State) : State :=
  (List.range s.nGroups).foldl (fun s g => if s.domOn (8 + g) then s.beginGroup g else s) s

/-- The configuration registers of the function as a reset leaves them; AER keeps what it holds (PRESUMED: its registers are
sticky in the PCI Express Base Specification). -/
def State.resetPcie (s : State) (up : Bool) : State :=
  let c := s.pcie
  { s with pcie := {
      restored := c.restored, perst := c.perst, up := up, width := if up then c.width else 0
      aerUnc := c.aerUnc, aerUncMask := c.aerUncMask, aerUncSev := c.aerUncSev
      aerCor := c.aerCor, aerCorMask := c.aerCorMask, aerHdr := c.aerHdr } }

/-- A hot reset or FLR (R413, R354). -/
def State.hostReset (s : State) : State := (s.stopAll.forget.loadClasses false).beginGroups

/-- The effect of HOT_RESET: the link retrains. -/
def doHotReset (s : State) : State :=
  if s.pcie.perst then s
  else (((s.hostReset.resetPcie s.pcie.up).setFld R.ST_RST_CAUSE_HOT 1))

/-- The effect of FLR: the link and its settings stay. -/
def doFlr (s : State) : State :=
  if s.pcie.perst then s
  else
    let t := s.hostReset.resetPcie s.pcie.up
    { t with pcie := { t.pcie with maxPayload := s.pcie.maxPayload } }.setFld R.ST_RST_CAUSE_FLR 1

/-- HOT_RESET and FLR. -/
def execHotReset (s : State) : Host.Outcome State Fault Refusal := .next (doHotReset s)
def execFlr (s : State) : Host.Outcome State Fault Refusal := .next (doFlr s)

/-- Bring-up goes back to step 4 from a later one, and leaves a stop at step 5 or later (R414, R418). -/
def State.backToFour (s : State) : State :=
  let s := if 5 ≤ s.fld R.ST_STATE_FAIL_STEP then (s.setFld R.ST_STATE_FAIL_STEP 0).setFld R.ST_STATE_FAIL_CODE 0 else s
  let s := if 4 ≤ s.fld R.ST_STATE_STEP then s.setFld R.ST_STATE_STEP 4 else s
  s.setFld R.ST_STATE_READY 0

/-- PERST# stops the controllers (R300, R303, R413): every write they hold is performed, reads whose data has not been returned are
discarded, and no retrain goes on. A fill stops where it stands; a remap leaves its regions as at its end (DESIGN CHOICE: the
spec does not say). -/
def State.stopMemory (s : State) : State :=
  let off := s.dram.retraining
  let s := { s with dram := { s.dram with retraining := [], manual := [], urgent := [], reads := [], failed := [] } }
  let s := off.foldl (fun s c => (s.setFld (R.MC_STAT_OFFLINE (c / 8)) 0).serveHeld c (fun q => q.write)) s
  let s := s.setFld R.MAP_STAT_FILL_BUSY 0
  if s.bit R.MAP_STAT_REMAP_BUSY then s.loseMapped.setFld R.MAP_STAT_REMAP_BUSY 0 else s

/-- The effect of PERST_ASSERT. -/
def doPerstAssert (s : State) : State :=
  if s.pcie.perst then s
  else
    let s := (s.stopAll.stopMemory.stopWells).setSelfRefresh true
    let s := (s.forget.loadClasses true).beginGroups
    let s := (s.resetPcie false).backToFour
    let s := { s with
      pcie := { s.pcie with perst := true }
      pwr := { s.pwr with trans := none, target := none } }
    let s := ((s.setFld R.PWR_STAT_TRANSITION 0).setFld R.PWR_STAT_STATE 0).setFld R.ST_STATE_DEV_STATE 0
    (s.setFld R.PWR_DOM_STAT_SWITCHING 0).setFld R.ST_RST_CAUSE_PERST 1

/-- The effect of PERST_RELEASE. -/
def doPerstRelease (s : State) : State := { s with pcie := { s.pcie with perst := false } }

/-- PERST_ASSERT and PERST_RELEASE. -/
def execPerstAssert (s : State) : Host.Outcome State Fault Refusal := .next (doPerstAssert s)
def execPerstRelease (s : State) : Host.Outcome State Fault Refusal := .next (doPerstRelease s)

/-- The pins held in POR, with their levels (R454). -/
def heldPins : List (Pin × Level) :=
  (List.range 4).map (fun n => (.clkOut n, .low)) ++
  [(.syncOut, .low), (.ppsOut, .low), (.integOut, .low), (.tarnSt 0, .low), (.tarnSt 1, .low), (.mspiRdy, .low), (.tune, .zeroScale),
    (.mspiMiso, .highZ), (.tdo, .highZ), (.flash, .highZ), (.thermtrip, .released)]

/-- The effect of POR: the state of `State.reset`, but for the device's fuses, its boot flash, the level of PERST#, and the
model's own fields; the pins are held. -/
def doPor (s : State) : State :=
  { State.reset with
    dev := s.dev
    pending := s.pending
    out := (heldPins.map (fun x => Out.held x.1 x.2)).reverse ++ s.out
    freeCtr := s.freeCtr
    flash := { slot0 := s.flash.slot0, slot1 := s.flash.slot1, bank0 := s.flash.bank0, bank1 := s.flash.bank1 }
    pcie := { perst := s.pcie.perst }
    dram := { epoch := s.dram.epoch + 1 } }

/-- POR. -/
def execPor (s : State) : Host.Outcome State Fault Refusal := .next (doPor s)

/-! ### Bring-up (R417, R418) -/

/-- A step fails: bring-up stops (R418). -/
def State.failStep (s : State) (code : Nat) : State :=
  let s := s.setFld R.ST_STATE_FAIL_STEP (s.fld R.ST_STATE_STEP + 1)
  (s.setFld R.ST_STATE_FAIL_CODE code).raise stPg 1

/-- Domains come on, each shown from then on. -/
def State.startAll (s : State) (ds : List Nat) : State :=
  (ds.filter (fun d => s.domPresent.testBit d)).foldl (fun s d => s.startDomain d) s

/-- Step 2: fuses loaded and checked, factory spares applied, the MEM domains on. -/
def stepTwo (s : State) : Option Nat × State :=
  let s := (s.setFld R.FUSE_STAT_LOADED 1).setBit R.FUSE_STAT_CRC_OK s.dev.fuseCrcOk
  if !s.dev.fuseCrcOk then (some 0x01, s.error (pg .fuse) 0x10 0 0 none)
  else (none, (s.setFld R.FUSE_STAT_FACT_SPARES s.dev.factSpares.length).startAll [17, 18])

/-- The boot ROM checks a slot (R424): a rejected one is counted. -/
def State.checkSlot (s : State) (img : Option Img) : Bool × State :=
  if (match img with | some x => s.imgOk x | none => false) then (true, s)
  else (false, (s.addFld R.SEC_AUTH_FAILS_COUNT 1).error secPg 0x10 0 0 none)

/-- The Wells start the accepted image with the higher version, and load the key SRAM while debug is closed (R424, R425). -/
def State.bootImage (s : State) : Bool × State :=
  let (ok0, s) := s.checkSlot s.flash.slot0
  let (ok1, s) := s.checkSlot s.flash.slot1
  let ver (i : Option Img) : Nat := match i with | some x => x.version | none => 0
  let slot := if ok0 && (!ok1 || decide (ver s.flash.slot1 ≤ ver s.flash.slot0)) then 0 else 1
  let img := if slot = 0 then s.flash.slot0 else s.flash.slot1
  let s := (s.setBit R.SEC_BOOT_SLOT0_OK ok0).setBit R.SEC_BOOT_SLOT1_OK ok1
  if !ok0 && !ok1 then (false, s)
  else
    let keys := !s.bit R.SEC_DBG_STAT_OPENED
    let s := { s with flash := { s.flash with running := img, keys := keys } }
    let s := (s.setFld R.SEC_BOOT_SLOT slot).setFld R.SEC_BOOT_KEY_INDEX (match img with | some x => x.key | none => 0)
    (true, (s.setBit R.SEC_BOOT_KEYSRAM_LOADED keys).setFld R.SEC_FW_VER_VERSION (ver img))

/-- A Well's self-test at boot. -/
def State.wellBoots (s : State) (b : Nat) (ok : Bool) : State :=
  if ok then s.setWell b wsStandby
  else
    let s := ((s.setWell b wsFailed).setFld (R.WELL_STAT_CAUSE b) 5).addFld (R.WELL_FAILS_COUNT b) 1
    (s.error (wellPg b) 0x11 0 0 none).raise (wellPg b) 1

/-- Onamen reads the record (R417, R421): class K fields after POR, spares and retired channels where a MEM domain was off;
after POR a valid Tarn history is written to the TUNE DAC once (R390). -/
def State.readRecord (s : State) (memOn : Nat) : State :=
  let por := !s.pcie.restored
  let t := s.restoreRecord por (fun c => por || !memOn.testBit (17 + c / 32))
  let s := (List.range 4).foldl (fun t k => t.clkChange k (s.fld (R.TRN2_CLKOUT_DIV k)) (s.bit (R.TRN2_CLKOUT_EN k))) t
  let s := { s with pcie := { s.pcie with restored := true } }
  if por && s.bit R.TRN0_HIST_VALID && decide (s.fld R.TRN0_STAT_STATE = tsFreerun) && !s.bit R.TUNE_CFG_SRC
  then s.tuneWrite (s.fld R.TRN0_HIST_CODE) else s

/-- Step 5. -/
def stepFive (env : BringupEnv) (s : State) : Option Nat × State :=
  let memOn := s.fld R.PWR_DOM_STAT_ON
  let s := if s.fld R.ST_STATE_DEV_STATE = 2 then s.wakeKept else s
  let s := (s.startAll [1, 2, 17, 18, 19]).flashCmds [(0x6B, slotAt 0, []), (0x6B, slotAt 1, [])]
  if env.fail = 5 then (some 0x05, s)
  else
    let (ok, s) := s.bootImage
    if !ok then (some 0x04, s)
    else
      let s := (s.wellBoots 0 env.wellA).wellBoots 1 env.wellB
      if !env.wellA && !env.wellB then (some 0x06, s.sendAvs 800)
      else (none, (s.takeControl (if env.wellA then 0 else 1)).readRecord memOn)

/-- A channel trains, or finds no working setting and is retired (R302); it is not tried again until its domain has been off
(R414). A retired channel that trains returns to service in the bring-up after a POR. -/
def State.trainChan (s : State) (env : BringupEnv) (c : Nat) : State :=
  let k := c / 8
  if env.trained.testBit c then
    let s := if s.pwr.cold then s.setFld R.MAP_RETIRED (putBit (s.fld R.MAP_RETIRED) c false) else s
    let s := if s.chanRetired c then s else s.setFld (R.MC_STAT_RETIRED k) (putBit (s.fld (R.MC_STAT_RETIRED k)) (c % 8) false)
    let s := if s.chanRetired c then s else s.setFld (R.MC_STAT_ACTIVE k) (putBit (s.fld (R.MC_STAT_ACTIVE k)) (c % 8) true)
    { s with
      dram := { s.dram with lastTemp := s.dram.lastTemp.put 0 c (env.temps.getD (c / 16) 0) }
      pwr := { s.pwr with trained := c :: s.pwr.trained } }
  else
    let s := s.setFld (R.MC_STAT_ACTIVE k) (putBit (s.fld (R.MC_STAT_ACTIVE k)) (c % 8) false)
    let s := if s.chanRetired c then s else s.retireChan c
    let s := s.setFld (R.MC_STAT_RETIRED k) (putBit (s.fld (R.MC_STAT_RETIRED k)) (c % 8) true)
    { s with pwr := { s.pwr with trained := c :: s.pwr.trained } }

/-- The map is built from the channels in service (R282, R302), in the bring-up after a POR; later the map is kept (R416). -/
def State.buildMap (s : State) : State :=
  if !s.pwr.cold then s.refreshCeiling else
  let n := s.activeChans.length
  let s := { s with dram := { s.dram with mapped := s.activeChans } }
  let s := (s.setFld R.MAP_STAT_ACT_CH n).setFld R.MAP_STAT_MAP_CH n
  (s.setFld R.MAP_STAT_REMAP_NEEDED 0).refreshCeiling

/-- Step 6: an exit from self-refresh, and the training of every channel that has not trained. -/
def stepSix (env : BringupEnv) (s : State) : Option Nat × State :=
  let todo := (List.range s.nChans).filter (fun c => decide (c ∉ s.pwr.trained))
  let s := s.setSelfRefresh false
  let s := if todo.isEmpty then s else (todo.foldl (fun s c => s.trainChan env c) s).buildMap
  if s.activeChans.isEmpty then (some 0x07, s) else (none, s)

/-- HWFILL (R317): zeros over every active channel, once after POR. -/
def State.hwFill (s : State) : State :=
  if s.pwr.cold && s.bit R.MAP_HWFILL_EN then
    let chans := s.activeChans
    { s with dram := s.dram.cover ⟨.zero, 0, chans, 0, 0, chans.length * 2 ^ 31⟩ }.setFld R.MAP_STAT_HWFILL_DONE 1
  else s

/-- Step 7: the self-tests of R312, HWFILL (R317), and region 7, which the Wells write where its contents are not kept. HWFILL comes
before region 7 is written, which it would else overwrite (DEDUCED). -/
def stepSeven (env : BringupEnv) (s : State) : Option Nat × State :=
  let mcs := env.badMc % 2 ^ s.nMc
  let crcs := env.badCrc % 2048
  let s := ((s.setFld R.SCR_BIST_DONE 1).setFld R.SCR_BIST_ECC_FAIL mcs).setFld R.SCR_BIST_CRC_FAIL crcs
  let s := (s.setBit R.SCR_BIST_PASS (decide (mcs = 0 ∧ crcs = 0))).raise scrPg 4
  let s := if mcs = 0 ∧ crcs = 0 then s else s.error scrPg 0x13 0 0 none
  let s := (List.range s.nChans).foldl (fun s c => if mcs.testBit (c / 8) then s.retireChan c else s) s
  let s := if mcs = 0 then s else s.buildMap
  if env.fail = 8 ∨ s.activeChans.isEmpty = true then (some 0x08, s)
  else
    let s := s.hwFill
    let s := if s.dram.sysDone then s else s.writeSys
    (none, { s with pwr := { s.pwr with cold := false } })

/-- Step 9: READY. -/
def stepNine (s : State) : State :=
  (s.setFld R.ST_STATE_READY 1).raise stPg 0

/-- What a bring-up step does, by its number; the code of R418 where it fails. -/
def State.bringStep (s : State) (env : BringupEnv) (n : Nat) : Option Nat × State :=
  match n with
  | 2 => stepTwo s
  | 4 => if env.fail = 2 ∨ env.fail = 3 then (some env.fail, s) else (none, (s.startAll [2, 19]).startGrid)
  | 5 => stepFive env s
  | 6 => stepSix env s
  | 7 => stepSeven env s
  | 8 => (none, s.followDomEn)
  | 9 => (none, stepNine s)
  | _ => (none, s)

/-- Bring-up waits: it is complete or stopped, PERST# holds it at step 4, or the device is in STANDBY. -/
def State.bringupWaits (s : State) : Bool :=
  s.ready || decide (s.fld R.ST_STATE_FAIL_STEP ≠ 0) || (decide (4 ≤ s.fld R.ST_STATE_STEP) && s.pcie.perst)
    || (decide (s.fld R.ST_STATE_DEV_STATE = 2) && decide (s.pwr.trans ≠ some 0))

/-- The effect of BRINGUP_STEP. -/
def doBringupStep (env : BringupEnv) (s : State) : State :=
  if s.bringupWaits then s
  else
    let n := s.fld R.ST_STATE_STEP + 1
    match s.bringStep env n with
    | (some code, s) => s.failStep code
    | (none, s) => s.setFld R.ST_STATE_STEP n

/-- BRINGUP_STEP. -/
def execBringupStep (env : BringupEnv) (s : State) : Host.Outcome State Fault Refusal := .next (doBringupStep env s)

end Sys2Proof.Machine
end

