-- ==== Sys2Proof/Machine/Aging.lean ====
section
/-! DEFINITION. VDD_CORE (spec/16 R455, R456), over-temperature (R465) and boundary scan (spec/14 R427). -/

namespace Sys2Proof.Machine

/-- The regulator acknowledges the setpoint sent last. -/
def State.avsAck (s : State) : State := { s with pwr := { s.pwr with avsAcked := s.pwr.avsSent, avsOpen := false } }

/-- The effect of AVS_RETRY: a setpoint that is not acknowledged is sent again. -/
def doAvsRetry (ack : Bool) (s : State) : State :=
  if !s.pwr.avsOpen then s
  else
    let s := s.sendAvs s.pwr.avsSent
    if ack then s.avsAck else s

/-- AVS_RETRY. -/
def execAvsRetry (ack : Bool) (s : State) : Host.Outcome State Fault Refusal := .next (doAvsRetry ack s)

/-- The setpoint, in steps of 5 mV within 700 to 800 mV, that a measured need comes to. -/
def setpointOf (need : Nat) : Nat := max 700 (min 800 ((need + 4) / 5 * 5))

/-- No lowering within the last 60 s. -/
def State.mayLower (s : State) : Bool :=
  match s.pwr.avsLowered with
  | none => true
  | some t => decide (t + minuteTicks ≤ s.ticks)

/-- The setpoint the Well in control wants: up to the need at once, down by at most 5 mV in 60 s. -/
def State.nextSetpoint (s : State) (need : Nat) : Nat :=
  let want := setpointOf need
  let now := s.pwr.avsAcked
  if now ≤ want then want
  else if s.pwr.avsSent < now then s.pwr.avsSent
  else if s.mayLower then now - 5 else now

/-- The effect of AGING_MONITOR: `need` is the least level, in millivolts, at which every domain that is on meets its margin,
as the monitors read; a new setpoint is sent, and acknowledged or not. -/
def doAgingMonitor (need : Nat) (ack : Bool) (s : State) : State :=
  match s.wellIn with
  | none => s
  | some _ =>
    let v := s.nextSetpoint need
    if v = s.pwr.avsSent then s
    else
      let s := if v < s.pwr.avsAcked then { s with pwr := { s.pwr with avsLowered := some s.ticks } } else s
      let s := s.sendAvs v
      if ack then s.avsAck else s

/-- AGING_MONITOR. -/
def execAgingMonitor (need : Nat) (ack : Bool) (s : State) : Host.Outcome State Fault Refusal := .next (doAgingMonitor need ack s)

/-- The effect of THERMTRIP: a sensor reading in °C. -/
def doThermtrip (t : Int) (s : State) : State := if 135 < t then { s with thermtrip := true } else s

/-- THERMTRIP. -/
def execThermtrip (t : Int) (s : State) : Host.Outcome State Fault Refusal := .next (doThermtrip t s)

/-- Sums with every value replaced by a free one. -/
def corruptSums (use from_ : Nat) (l : List (Int × Int)) : List (Int × Int) :=
  (List.range l.length).map (fun i => (Config.corrupt use (2 * (from_ + i)), Config.corrupt use (2 * (from_ + i) + 1)))

/-- The partial sums in the engines and in the Basin take values that the spec leaves open (R427). -/
def State.corruptRun (s : State) : State :=
  let u := s.freeCtr
  let engs := s.sward.engs.map (fun (e : Nat × EngSt) =>
    (e.1, { e.2 with ctx := e.2.ctx.map (fun (c : Nat × List (Int × Int)) => (c.1, corruptSums u ((e.1 * 36 + c.1) * 8192) c.2)) }))
  let slices := s.bas.slices.zipIdx.map (fun (a : Assembly × Nat) =>
    { a.1 with sums := corruptSums (u + 1) (a.2 * 8192) a.1.sums })
  { s with freeCtr := u + 2, sward := { s.sward with engs := engs }, bas := { s.bas with slices := slices } }

/-- The effect of BOUNDARY_SCAN: every link stops, and a run in progress is corrupted. -/
def doBoundaryScan (s : State) : State :=
  let s := (List.range s.nLanes).foldl (fun s j => s.stopLink R.LNK_DROP_TRUNC j) s
  if s.running then s.corruptRun else s

/-- BOUNDARY_SCAN. -/
def execBoundaryScan (s : State) : Host.Outcome State Fault Refusal := .next (doBoundaryScan s)

end Sys2Proof.Machine
end

