-- ==== Sys2Proof/Machine/Pcie.lean ====
section
/-! DEFINITION. The PCI Express function (spec/12 R349 to R353, R360 to R366): configuration requests, the link, the BAR2 window,
D3hot and pending MSI-X messages. -/

namespace Sys2Proof.Machine

/-! ### Configuration requests (R349 to R351) -/

/-- Completion statuses: successful, unsupported request, configuration request retry. -/
def stSc : Nat := 0
def stUr : Nat := 1
def stCrs : Nat := 2

/-- Max payload and read request sizes by the codes of Device Control (PCI Express), within the device's limits (R350). -/
def payloadSize (c : Nat) : Nat := if c ≤ 2 then 128 * 2 ^ c else 512
def readSize (c : Nat) : Nat := if c ≤ 5 then 128 * 2 ^ c else 4096
def sizeCode (v : Nat) : Nat := ((List.range 6).find? (fun c => decide (128 * 2 ^ c = v))).getD 0

/-- Ones where the flags of a list of (bit, flag) stand. -/
def flagWord (l : List (Nat × Bool)) : Nat := (l.map (fun x => if x.2 then 2 ^ x.1 else 0)).sum

/-- What a configuration register reads as (R349, R350, R360, R366). -/
def State.cfgRead (s : State) (r : CfgReg) : Nat :=
  let c := s.pcie
  match r with
  | .ids => 0x64721E5A
  | .classRev => 0x11800000 + s.dev.stepping
  | .subsystem => s.fld R.PCIE_SUBSYS_SVID + 65536 * s.fld R.PCIE_SUBSYS_SSID
  | .command => flagWord [(1, c.memEn), (2, c.bme)]
  | .bar0Lo => c.bar0 % m32 / 2 ^ 26 * 2 ^ 26 + 4
  | .bar0Hi => c.bar0 / m32
  | .bar2Lo => c.bar2 % m32 / 2 ^ 30 * 2 ^ 30 + 12
  | .bar2Hi => c.bar2 / m32
  | .intPin => 0
  | .msixCtl => 2047 + flagWord [(14, c.funcMask), (15, c.msixEn)]
  | .powerState => if c.d3hot then 11 else 8
  | .serialLo => s.fld R.ID_SERIAL % m32
  | .serialHi => s.fld R.ID_SERIAL / m32
  | .devCtl => c.errEn + 32 * sizeCode c.maxPayload + 4096 * sizeCode c.maxRead + 65536 * c.errSeen
  | .devCtl2 => c.timeout + flagWord [(4, c.noTimeout), (10, c.ltr), (12, c.tag10)]
  | .devCtl3 => if c.l0p = 0 then 0 else 8 + 16 * (if c.l0p = 4 then 2 else 3)
  | .linkCtl => flagWord [(1, c.aspm)]
  | .l1ss => c.l1ss
  | .rebar => 256 * (c.bar2Exp + 10)
  | .aerUnc => c.aerUnc
  | .aerUncMask => c.aerUncMask
  | .aerUncSev => c.aerUncSev
  | .aerCor => c.aerCor
  | .aerCorMask => c.aerCorMask
  | .aerHdr0 => c.aerHdr.getD 0 0
  | .aerHdr1 => c.aerHdr.getD 1 0
  | .aerHdr2 => c.aerHdr.getD 2 0
  | .aerHdr3 => c.aerHdr.getD 3 0
  | .doeStatus => flagWord [(0, !s.doeServed), (2, c.doeErr)]
  | .doeWrite => 0

/-- The largest BAR2 size of the ordering code, as log2 of GiB (R350). -/
def State.bar2Max (s : State) : Nat := if s.dev.code = .f then 7 else 6

/-- A 64-bit BAR with one half replaced, aligned to its size. -/
def barHalf (old v size : Nat) (hi : Bool) : Nat :=
  let n := if hi then old % m32 + m32 * (v % m32) else old / m32 * m32 + v % m32
  n / size * size

/-- The ranges of the completion timeout (R350): the default, and A to D with two values each. -/
def timeoutCode (old v : Nat) : Nat := if v % 16 ∈ [0, 1, 2, 5, 6, 9, 10, 13, 14] then v % 16 else old

/-- A dword written to the DOE mailbox (R367): an object that would pass 1024 dwords is dropped, and none is taken until an
Abort. -/
def State.doeDword (s : State) (v : Nat) : PcieSt :=
  let c := s.pcie
  if !s.doeServed || c.doeErr then c
  else if 1024 ≤ c.doe.length then { c with doe := [], doeErr := true }
  else { c with doe := c.doe ++ [v % m32] }

/-- What a write leaves in the configuration registers. The bits within the registers are those of the PCI Express Base
Specification (PRESUMED). -/
def State.cfgWrite (s : State) (r : CfgReg) (v : Nat) : PcieSt :=
  let c := s.pcie
  match r with
  | .ids | .classRev | .subsystem | .intPin | .serialLo | .serialHi | .aerHdr0 | .aerHdr1 | .aerHdr2 | .aerHdr3 | .doeStatus => c
  | .command => { c with memEn := v.testBit 1, bme := v.testBit 2 }
  | .bar0Lo => { c with bar0 := barHalf c.bar0 v (2 ^ 26) false }
  | .bar0Hi => { c with bar0 := barHalf c.bar0 v (2 ^ 26) true }
  | .bar2Lo => { c with bar2 := barHalf c.bar2 v (2 ^ (30 + c.bar2Exp)) false }
  | .bar2Hi => { c with bar2 := barHalf c.bar2 v (2 ^ (30 + c.bar2Exp)) true }
  | .msixCtl => { c with funcMask := v.testBit 14, msixEn := v.testBit 15 }
  | .powerState => { c with d3hot := decide (v % 4 = 3) }
  | .devCtl => { c with
      errEn := v % 16
      maxPayload := payloadSize (v / 32 % 8)
      maxRead := readSize (v / 4096 % 8)
      errSeen := c.errSeen &&& (c.errSeen ^^^ v / 65536 % 16) }
  | .devCtl2 => { c with timeout := timeoutCode c.timeout v, noTimeout := v.testBit 4, ltr := v.testBit 10, tag10 := v.testBit 12 }
  | .devCtl3 => { c with l0p := if !v.testBit 3 then 0 else if v / 16 % 8 = 2 then 4 else if v / 16 % 8 = 3 then 8 else 0 }
  | .linkCtl => { c with aspm := v.testBit 1 }
  | .l1ss => { c with l1ss := v % 16 }
  | .aerUnc => { c with aerUnc := c.aerUnc &&& (c.aerUnc ^^^ v % m32) }
  | .aerUncMask => { c with aerUncMask := v % m32 }
  | .aerUncSev => { c with aerUncSev := v % m32 }
  | .aerCor => { c with aerCor := c.aerCor &&& (c.aerCor ^^^ v % m32) }
  | .aerCorMask => { c with aerCorMask := v % m32 }
  | .doeWrite => s.doeDword v
  | .rebar =>
    let e := v / 256 % 64
    if 10 ≤ e ∧ e - 10 ≤ s.bar2Max then { c with bar2Exp := e - 10 } else c

/-- The lanes in use where L0p is asked for some number of them (R350): in FLIT mode, no more than the link trained to. -/
def State.l0pWidth (s : State) : Nat :=
  if s.bit R.PCIE_LINK_FLIT && decide (s.pcie.l0p ≠ 0 ∧ s.pcie.l0p < s.pcie.width) then s.pcie.l0p else s.pcie.width

/-- LINK shows what L0p makes of the link's width; a change is a LINK_CHANGE. -/
def State.showL0p (s : State) : State :=
  let w := s.l0pWidth
  if !s.pcie.up || decide (s.fld R.PCIE_LINK_WIDTH = w) then s
  else ((s.setFld R.PCIE_LINK_WIDTH w).setBit R.PCIE_LINK_L0P (decide (w ≠ s.pcie.width))).raise pciePg 0

/-- The effect of CONFIG_REQUEST. -/
def doConfigRequest (q : CfgReq) (s : State) : State :=
  if s.pcie.perst then s
  else if q.function ≠ 0 then s.emit (.cfg stUr 0)
  else if !s.pcie.restored then s.emit (.cfg stCrs 0)
  else if q.write then
    let s := { s with pcie := s.cfgWrite q.reg q.value }.emit (.cfg stSc 0)
    if q.reg = .devCtl3 then s.showL0p else s
  else s.emit (.cfg stSc (s.cfgRead q.reg))

/-- CONFIG_REQUEST. -/
def execConfigRequest (q : CfgReq) (s : State) : Host.Outcome State Fault Refusal := .next (doConfigRequest q s)

/-! ### The link (R351, R352) -/

/-- The effect of PCIE_LINK_UP: LINK shows the link from the end of training, with no L0p asked for yet. -/
def doPcieLinkUp (speed width : Nat) (flit rev : Bool) (s : State) : State :=
  if s.pcie.perst || decide (s.fld R.ST_STATE_STEP < 4) then s
  else
    let s := { s with pcie := { s.pcie with up := true, width := width % 32, l0p := 0 } }
    let s := ((s.setFld R.PCIE_LINK_SPEED speed).setFld R.PCIE_LINK_WIDTH width).setBit R.PCIE_LINK_FLIT flit
    ((s.setBit R.PCIE_LINK_REVERSED rev).setBit R.PCIE_LINK_L0P false).raise pciePg 0

/-- PCIE_LINK_UP. -/
def execPcieLinkUp (speed width : Nat) (flit rev : Bool) (s : State) : Host.Outcome State Fault Refusal :=
  .next (doPcieLinkUp speed width flit rev s)

/-- The effect of PCIE_LINK_DOWN: the reads outstanding to the host end in error responses. -/
def doPcieLinkDown (s : State) : State :=
  if !s.pcie.up then s
  else
    let s := { s with pcie := { s.pcie with up := false } }.readsLost
    let s := ((s.setFld R.PCIE_LINK_SPEED 0).setFld R.PCIE_LINK_WIDTH 0).setBit R.PCIE_LINK_FLIT false
    let s := (s.setBit R.PCIE_LINK_REVERSED false).setBit R.PCIE_LINK_L0P false
    (((s.addFld R.PCIE_LINK_DOWN 1).error pciePg 0x13 0 0 none).raise pciePg 0).raise pciePg 1

/-- PCIE_LINK_DOWN. -/
def execPcieLinkDown (s : State) : Host.Outcome State Fault Refusal := .next (doPcieLinkDown s)

/-! ### D3hot (R353) -/

/-- The effects of D3HOT_ENTRY and D0_RETURN. -/
def doD3hotEntry (s : State) : State := { s with pcie := { s.pcie with d3hot := true } }
def doD0Return (s : State) : State := { s with pcie := { s.pcie with d3hot := false } }

/-- D3HOT_ENTRY and D0_RETURN. -/
def execD3hotEntry (s : State) : Host.Outcome State Fault Refusal := .next (doD3hotEntry s)
def execD0Return (s : State) : Host.Outcome State Fault Refusal := .next (doD0Return s)

/-! ### Pending messages (R366) -/

/-- The effect of PENDING_MESSAGE_SEND. -/
def doPendingMessageSend (v : Nat) (s : State) : State :=
  if decide (v < 2048) && s.pba v && s.pcie.msixEn && !s.msixHeld v then (s.setPba v false).emit (s.msixMsg v) else s

/-- PENDING_MESSAGE_SEND. -/
def execPendingMessageSend (v : Nat) (s : State) : Host.Outcome State Fault Refusal := .next (doPendingMessageSend v s)

/-! ### The BAR2 window (R360 to R363) -/

/-- The DRAM address of a BAR2 offset. -/
def State.bar2Addr (s : State) (off : Nat) : Nat := s.fld R.PCIE_WIN_BASE_BASE * 2 ^ 30 + off

/-- The end of a BAR2 read: its completion, and EP_TX where it carries EP; nothing leaves while the link is down (R352). -/
def State.bar2Answer (s : State) (status : Nat) (ep : Bool) (data : List Byte) : State :=
  if !s.pcie.up then s
  else
    let s := if ep then s.addFld R.PCIE_EP_TX 1 else s
    s.emit (.bar2 status ep data)

/-- The completions of a read, each of at most Max Payload Size (R350) and with EP where it carries poison (R362, R363); `marks`
says it of a byte by its address. They are cut at multiples of that size (DESIGN CHOICE: a log entry). -/
def bar2Cut (mps : Nat) (marks : Nat → Bool) : Nat → Nat → List Byte → List (Bool × List Byte)
  | 0, _, _ => []
  | fuel + 1, a, bs =>
    let k := mps - a % mps
    let x := ((List.range (min k bs.length)).any (fun i => marks (a + i)), bs.take k)
    if bs.length ≤ k then [x] else x :: bar2Cut mps marks fuel (a + k) (bs.drop k)

/-- The completions of a read of BAR2 at a DRAM address. -/
def State.bar2Cpls (s : State) (a : Nat) (bs : List Byte) (marks : Nat → Bool) : List (Bool × List Byte) :=
  bar2Cut (max 1 s.pcie.maxPayload) marks (bs.length + 1) a bs

/-- A read of BAR2 at a DRAM address answered. -/
def State.bar2Data (s : State) (a : Nat) (bs : List Byte) (marks : Nat → Bool) : State :=
  (s.bar2Cpls a bs marks).foldl (fun s x => s.bar2Answer stSc x.1 x.2) s

/-- The effect of BAR2_READ. While the fabric is off a request completes as one that decodes to nothing (DESIGN CHOICE: the
spec names no answer there). -/
def doBar2Read (off len : Nat) (s : State) : State :=
  if s.pcie.perst then s
  else if s.pcie.d3hot then s.bar2Answer stUr false []
  else
    let a := s.bar2Addr off
    if !s.domOn 19 then s.bar2Data a (List.replicate len 0) (fun _ => false)
    else
      let (r, s) := (s.mxMem .host a len).readDram .host a len
      if r.decode then s.bar2Data a (List.replicate len 0) (fun _ => false)
      else s.bar2Data a r.bytes (fun x => r.marks.getD (x / 32 - a / 32) false)

/-- BAR2_READ. -/
def execBar2Read (off len : Nat) (s : State) : Host.Outcome State Fault Refusal := .next (doBar2Read off len s)

/-- The effect of BAR2_WRITE: with EP it is written as stored poison over every word it touches. -/
def doBar2Write (off : Nat) (data : List Byte) (ep : Bool) (s : State) : State :=
  if s.pcie.perst || s.pcie.d3hot then s
  else
    let s := if ep then s.epReceived else s
    if !s.domOn 19 then s else
    let a := s.bar2Addr off
    let (r, s) := (s.mxMem .host a data.length).writeDramP .host a data (fun _ => ep)
    if r.refused then s.winDrop else s

/-- BAR2_WRITE. -/
def execBar2Write (off : Nat) (data : List Byte) (ep : Bool) (s : State) : Host.Outcome State Fault Refusal :=
  .next (doBar2Write off data ep s)

end Sys2Proof.Machine
end

