-- ==== Sys2Proof/Machine/Read.lean ====
section
/-! DEFINITION. What a read of BAR0 returns (spec/00 R4 to R8, R469 to R471; spec/12 R356 to R359, R374 to R377): registers, fields
that show other state, counters under FREEZE, the latches of pairs, clearing reads, and table windows. -/

namespace Sys2Proof.Machine

/-! ### PG_STAT (R375) -/

/-- Kinds of page whose block PG_CTL.ENABLE starts. -/
def needsEnable (k : PageKind) : Bool := k == .lnk || k == .arr || k == .bas

/-- A channel of the DMA works. -/
def State.dmaBusy (s : State) (n : Nat) : Bool :=
  let st := s.fld (R.DMACH_STAT_STATE n)
  st == csRunning || st == csWaiting || st == csStopping

/-- The block of a page works, or one of its commands is in progress. -/
def State.blockBusy (s : State) (p : Page) : Bool :=
  let i := p.inst
  match p.kind with
  | .pwr => s.bit R.PWR_STAT_TRANSITION || s.bit R.PWR_DOM_STAT_SWITCHING
  | .trn0 => s.bit R.TRN0_STAT_SWITCHING || s.bit R.TRN0_STAT_PSTEP_BUSY
  | .trn2 => s.bit R.TRN2_STAT_REALIGN_PEND
  | .tod => s.bit R.TOD_STAT_PEND
  | .tune => s.bit R.TUNE_STAT_RANGING
  | .slk => decide (s.lstate i ∈ [lsS1, lsTrain, lsWaking, lsRetrain]) || (s.lane i).alone
  | .lnk => decide (s.lkstate i ∈ [lkNegotiate, lkWaking, lkRetrain])
  | .arr => s.bit R.ARR_STAT_INIT_BUSY || s.bit R.ARR_STAT_LOAD_PEND
  | .dly | .chn0 | .chn1 => s.bit R.CHN1_STAT_RUNNING
  | .mere => s.bit R.MERE_STAT_RUNNING || s.mere.filling || s.bit R.MERE_CTL_PLAN_EVAL
  | .eng => (s.eng i).testing || (s.eng i).phase != 0
  | .gsv => s.bit (R.GSV_STAT_REPLAYING i) || (s.gsv i).takeover.isSome
  | .xs => s.running || s.bit R.XS_CTL_EVAL
  | .bm => s.bit R.BM_STAT_B_RUN || s.bit R.BM_STAT_WL_BUSY
  | .bas => s.bit R.BAS_STAT_FINISHING || !s.bas.ints.isEmpty
  | .pk => s.bas.ints.any (fun x => decide (x.stage = 2))
  | .st => !s.ready && decide (s.fld R.ST_STATE_FAIL_STEP = 0)
  | .pcie => (List.range 32).any (fun n => decide ((s.dmaCh n).outstanding ≠ 0))
  | .mx => (List.range 12).any (fun t => s.fld (R.MX_OUT t) != 0)
  | .mc => s.fld (R.MC_STAT_OFFLINE i) != 0
  | .map => s.bit R.MAP_STAT_FILL_BUSY || s.bit R.MAP_STAT_REMAP_BUSY
  | .scr => s.bit R.SCR_STAT_ACTIVE || !s.dram.spareQ.isEmpty
  | .dma => (List.range 32).any (fun n => s.dmaBusy n)
  | .dmach => s.dmaBusy i
  | .well => s.fld (R.WELL_STAT_STATE i) == wsTest
  | .mbx => s.bit R.MBX_STAT_BUSY
  | .acc => s.bit R.ACC_STAT_CHECK_BUSY
  | .evt => !s.evq.isEmpty
  | .sec => s.bit R.SEC_DBG_STAT_ERASING
  | .nvr => s.bit R.NVR_STAT_BUSY || s.bit R.NVR_STAT_DIRTY
  | _ => false

/-- One for true. -/
def bitOf (b : Bool) : Nat := if b then 1 else 0

/-- The fields of PG_STAT and PG_IRQ_STAT (R359, R375, R376). -/
def State.headerView (s : State) (p : Page) (rel lo : Nat) : Option Nat :=
  match rel, lo with
  | 0xC, 0 => some (bitOf (s.domOn p.domain && (!needsEnable p.kind || s.bit (R.PG_CTL_ENABLE p))))
  | 0xC, 1 => some (bitOf (s.domOn p.domain && (s.blockBusy p || s.armBusy p)))
  | 0xC, 2 => some (s.fld (R.PG_ERR_CODE_VALID p))
  | 0xC, 3 => some (bitOf (!s.domOn p.domain))
  | 0x14, _ => some (s.fld (R.PG_IRQ_RAW p) &&& s.fld (R.PG_IRQ_EN p))
  | _, _ => none

/-! ### Fields that show other state -/

/-- The oldest entry of a controller's error log; all zero where the log is empty. -/
def State.logHead (s : State) (k : Nat) : Option LogEnt := (s.mcLog k).head?

/-- The fields of MC.LOG_STAT and LOG_A to LOG_C. -/
def State.logView (s : State) (k rel lo : Nat) : Option Nat :=
  let of (f : LogEnt → Nat) : Nat := match s.logHead k with | some e => f e | none => 0
  match rel, lo with
  | 0x50, 0 => some (s.mcLog k).length
  | 0x54, 0 => some (of (·.type))
  | 0x54, 4 => some (of (fun e => e.chan % 8))
  | 0x54, 8 => some (of (·.bank))
  | 0x54, 12 => some (of (·.master))
  | 0x54, 16 => some (of (·.symbol))
  | 0x58, 0 => some (of (·.row))
  | 0x58, 16 => some (of (·.word))
  | 0x5C, _ => some (of (·.frame))
  | _, _ => none

/-- Commands whose SC field shows that what they started is in progress (R8), where no field of its own holds that. DESIGN CHOICE:
what SCR.CTL.START starts is the beginning of a pass, so that the field reads 0 while the pass goes on. -/
def State.ctlView (s : State) (p : Page) (rel lo : Nat) : Option Nat :=
  match p.kind, rel, lo with
  | .pwr, 0x40, n => some (bitOf (decide (s.pwr.trans = some n)))
  | .trn2, 0x40, 0 => some (s.fld R.TRN2_STAT_REALIGN_PEND)
  | .tod, 0x40, 0 => some (bitOf s.tod.load)
  | .tod, 0x40, 1 => some (bitOf s.tod.align)
  | .eng, 0x40, 0 => some (bitOf (s.eng p.inst).testing)
  | .gsv, 0x40, 6 => some (bitOf (decide (s.fld (R.GSV_CTL_SLOT p.inst) < 9) && (s.eng (9 * p.inst + s.fld (R.GSV_CTL_SLOT p.inst))).testing))
  | .dma, 0x40, 0 => some (bitOf s.stopAllBusy)
  | .dmach, 0x40, 1 => some (bitOf (s.fld (R.DMACH_STAT_STATE p.inst) == csStopping))
  | .nvr, 0x40, 0 => some (bitOf s.savePending)
  | .mbx, 0x44, 0 => some (s.fld R.MBX_STAT_BUSY)
  | _, _, _ => none

/-- The magnitude and sign bit of a limit that can lie below 0 (R101, R117). -/
def limitView (v : Int) (lo : Nat) : Nat := if lo = 0 then v.toNat else bitOf (decide (v < 0))

/-- Fields computed from other state: taps in use (R50), O_max (R101), EXPIRED (R108), REVERTS (R271), H and O_ch (R117), MERE.CEILING (R163), region sizes (R282), the spare queue
(R310) and the time captured on a path (R401). -/
def State.otherView (s : State) (π : Path) (p : Page) (rel lo : Nat) : Option Nat :=
  match p.kind with
  | .slk =>
    if rel ≠ 0x48 then none
    else
      let t := s.txTaps p.inst
      some (if lo = 0 then t.1 else if lo = 8 then t.2 else 64 - t.1 - t.2)
  | .dly => if rel = 0x70 ∧ lo = 0 ∧ s.bit R.DLY_CFG_MODEL_EN = false then some 0 else none
  | .gsv => if 0x60 ≤ rel ∧ rel < 0x84 ∧ lo = 12 then some (min 2 (s.recentReverts p.inst ((rel - 0x60) / 4)).length) else none
  | .arr => if rel = 0x6C then some (limitView s.oMaxRaw lo) else none
  | .chn1 =>
    if rel = 0x44 then
      some (histLen (s.fld R.ARR_GEOM_MODE) (s.fld R.CHN0_CFG_K) (s.fld R.CHN0_CFG_M_ZOOM) (s.fld R.CHN0_CFG_TAPS))
    else if rel = 0x48 then some (limitView s.oCh lo)
    else if rel = 0x40 ∧ lo = 4 then some (s.fld R.CHN0_CFG_COEF_BANK)
    else if rel = 0x40 ∧ lo = 5 then some (s.fld R.CHN0_CFG_GAIN_BANK)
    else none
  | .mere => if rel = 0x58 then some s.ceiling else none
  | .mc => s.logView p.inst rel lo
  | .map => if 0x100 ≤ rel ∧ rel < 0x140 then some (s.rgnSize ((rel - 0x100) / 8)) else none
  | .scr => if rel = 0x48 ∧ lo = 8 then some s.dram.spareQ.length else s.trackView rel lo
  | .tod =>
    if rel = 0x4C then some (s.tod.half / 2)
    else if rel = 0x50 then some (s.tod.capNs.get 0 (pathCode π))
    else if rel = 0x54 then some (s.tod.capSec.get 0 (pathCode π))
    else none
  | _ => none

/-- What a field shows where it is not its stored value. -/
def State.view (s : State) (π : Path) (p : Page) (rel lo : Nat) : Option Nat :=
  match s.headerView p rel lo with
  | some v => some v
  | none => match s.ctlView p rel lo with
    | some v => some v
    | none => s.otherView π p rel lo

/-! ### Registers -/

/-- What a field reads as: a command field without a state of its own reads 0 (R8), a counter of a frozen page its snapshot
(R377). -/
def State.readField (s : State) (π : Path) (p : Page) (rel : Nat) (r : RegDesc) (x : FieldDesc) : Nat :=
  let f : Fld := ⟨p.base + rel, x.lo, x.w⟩
  if x.acc = .wo then 0
  else if r.cnt && s.bit (R.PG_CTL_FREEZE p) then s.snap.vals.get 0 f.key
  else match s.view π p rel x.lo with
    | some v => v % 2 ^ x.w
    | none => s.fld f

/-- The whole value of a register, 64 bits of a pair. -/
def State.readValue (s : State) (π : Path) (p : Page) (rel : Nat) (r : RegDesc) : Nat :=
  (r.fields.map (fun x => s.readField π p rel r x * 2 ^ x.lo)).sum

/-- The RC fields of a register cleared by the read; an extreme becomes empty (R8, R469). -/
def State.clearRc (s : State) (off : Nat) : List FieldDesc → State
  | [] => s
  | x :: t =>
    let f : Fld := ⟨off, x.lo, x.w⟩
    if x.acc = .rc then { s.setFld f 0 with exts := s.exts.filter (· != f.key) }.clearRc off t else s.clearRc off t

/-- The latch of a pair on a path (R5). -/
def State.latchHi (s : State) (π : Path) (off v : Nat) : State := { s with latch := s.latch.put 0 (pathKey π off) v }

/-- What a read of a page returns, and its side effects: a _LO read latches the high half, a _HI read returns the latch. -/
def State.readPage (s : State) (π : Path) (p : Page) (off : Nat) : Nat × State :=
  let rel := off - p.base
  match regRow p.kind rel with
  | none => (0, s)
  | some (b, r) =>
    let base := b + r.off
    if r.pair && rel != base then (s.latch.get 0 (pathKey π (p.base + base)), s)
    else
      let v := s.readValue π p base r
      let s := if p.kind = .tod ∧ rel = 0x4C then
        { s with tod := { s.tod with capNs := s.tod.capNs.put 0 (pathCode π) (s.tod.half / 2), capSec := s.tod.capSec.put 0 (pathCode π) s.tod.sec } }
        else s
      let s := if r.pair then s.latchHi π off (v / m32) else s
      (v % m32, s.clearRc (p.base + base) r.fields)

/-! ### Table windows -/

/-- The per-input counters (R141). -/
def isCounter (off : Nat) : Bool := decide (0x1180000 ≤ off ∧ off < 0x11E0000)

/-- What a read of a table window returns (R5 for the counters). -/
def State.readWindow (s : State) (π : Path) (off : Nat) : Nat × State :=
  if isCounter off then
    let lo := off / 8 * 8
    if off % 8 = 0 then
      let v := s.frozen ⟨lo, 0, 48⟩
      (v % m32, s.latchHi π lo (v / m32))
    else (s.latch.get 0 (pathKey π lo), s)
  else (s.tab off, s)

/-- A read of an aligned dword of BAR0: how it fares, what it returns, and the state after. -/
def State.readAt (s : State) (π : Path) (off : Nat) : Gate × Nat × State :=
  match s.gate off with
  | .served =>
    let (v, s) := match pageAt off with
      | some p => s.readPage π p off
      | none => s.readWindow π off
    (.served, v, s)
  | g => (g, 0, s.turnAway g π off false)

/-- A host's read of a dword of BAR0: what it returns leaves on its path. -/
def State.hostRead (s : State) (π : Path) (off : Nat) : State :=
  if s.reaches π then
    let (_, v, s) := s.readAt π (off / 4 * 4)
    s.answer π v
  else s.readRefused π

end Sys2Proof.Machine
end

