-- ==== Sys2Proof/Machine/Scrub.lean ====
section
/-! DEFINITION. The scrubber and the soft spares (R307 to R311). -/

namespace Sys2Proof.Machine

/-- The row index of a place in ROW decode order (R283, R307). -/
def rowIndex (p : Nat) : Nat := encodeCa 2 p / 2048

/-- The row stretches that the scrubber covers on a channel, in ROW decode order: the slice of region 7 and of enabled
regions with SCRUB, or, after HWFILL, everything (R307). A slice in CHI or BGF order covers the same rows of every
bank. -/
def State.scrubRows (s : State) (c : Nat) : List (Nat × Nat) :=
  if s.bit R.MAP_STAT_HWFILL_DONE then [(0, 2 ^ 20)] else
  (List.range 8).flatMap (fun r =>
    if !s.bit (R.MAP_RGN_CTL_ENABLE r) || !s.bit (R.MAP_RGN_CTL_SCRUB r) || decide (c ∉ s.rgnChans r) then []
    else if s.rgnOrder r = 2 then [(s.rgnCbase r / 2048, (s.rgnCbase r + s.rgnCsize r) / 2048)]
    else (List.range 16).map (fun b =>
      (b * 65536 + s.rgnCbase r / 32768, b * 65536 + (s.rgnCbase r + s.rgnCsize r) / 32768)))

/-- A row of a channel is covered. -/
def State.scrubCovers (s : State) (c row : Nat) : Bool :=
  (s.scrubRows c).any (fun x => decide (x.1 ≤ row) && decide (row < x.2))

/-- The rows covered on a channel below a row index. -/
def rowsBelow (l : List (Nat × Nat)) (row : Nat) : Nat :=
  (l.map (fun x => min (x.2 - x.1) (row - x.1))).sum

/-- Rows done and rows in all, at the end of a row of a channel: row by row, the channels in turn (R307). -/
def State.scrubShare (s : State) (c row : Nat) : Nat × Nat :=
  let cs := s.activeChans
  let done := (cs.map (fun x => rowsBelow (s.scrubRows x) (if x ≤ c then row + 1 else row))).sum
  let all := (cs.map (fun x => rowsBelow (s.scrubRows x) (2 ^ 20))).sum
  (done, all)

/-- The first row index from a row on that the scrubber covers on some channel. -/
def State.scrubRow (s : State) (cs : List Nat) (row : Nat) : Option Nat :=
  let next := (cs.flatMap s.scrubRows).filterMap (fun x => if row < x.2 then some (max row x.1) else none)
  next.foldl (fun b r => match b with | some m => some (min m r) | none => some r) none

/-- The word that a pass reads after a word (row, channel, word), or as its first (R307): row by row in ROW decode order, and in
each row the channels that cover it in turn; none at the end of the pass. -/
def State.scrubNext (s : State) (last : Option (Nat × Nat × Nat)) : Option (Nat × Nat × Nat) :=
  let cs := s.activeChans
  let firstIn (row : Nat) : Option (Nat × Nat × Nat) :=
    match s.scrubRow cs row with
    | none => none
    | some r => (cs.find? (fun c => s.scrubCovers c r)).map (fun c => (r, c, 0))
  match last with
  | none => firstIn 0
  | some (r, c, w) =>
    if w < 63 ∧ s.scrubCovers c r = true ∧ c ∈ cs then some (r, c, w + 1)
    else match cs.find? (fun x => decide (c < x) && s.scrubCovers x r) with
      | some x => some (r, x, 0)
      | none => firstIn (r + 1)

/-- A pass of the scrubber begins. -/
def State.scrubBegin (s : State) : State :=
  let s := { s with dram := { s.dram with scrubStart := some s.ticks, scrubAt := none } }
  (s.setFld R.SCR_STAT_ACTIVE 1).setFld R.SCR_PROG_PERMILLE 0

/-- The period since the last pass began has passed (R307). -/
def State.scrubDue (s : State) : Bool :=
  match s.dram.scrubStart with
  | none => true
  | some t => decide (t + s.scrubMin * minuteTicks ≤ s.ticks)

/-- The effect of SCRUB_PASS_START: a pass begins when its period has passed and none is in progress (R307). -/
def doScrubPassStart (s : State) : State :=
  if s.scrubMin = 0 ∨ s.bit R.SCR_STAT_ACTIVE = true ∨ s.scrubDue = false ∨ s.dram.selfRefresh = true then s
  else s.scrubBegin

/-- SCRUB_PASS_START. -/
def execScrubPassStart (s : State) : Host.Outcome State Fault Refusal := .next (doScrubPassStart s)

/-- The effect of SCR.CTL.START: a pass at once; ignored while PERIOD_MIN is 0. A START during a pass begins it anew
(DESIGN CHOICE: R307 does not say). -/
def doStart (s : State) : State := if s.scrubMin = 0 then s else s.scrubBegin

/-- START. -/
def execStart (π : Path) (s : State) : Host.Outcome State Fault Refusal := .next (s.hostCmd π 0x1C9040 doStart)

/-- The last word of a pass ends it (R307). A pass that has fallen behind its period is followed at once by the next. -/
def State.scrubAdvance (s : State) (c row word : Nat) : State :=
  let s := { s with dram := { s.dram with scrubAt := some (row, c, word) } }
  let (done, all) := s.scrubShare c row
  let s := s.setFld R.SCR_PROG_PERMILLE (if all = 0 then 1000 else (if word = 63 then done else done - 1) * 1000 / all)
  if s.scrubNext (some (row, c, word)) = none then
    let s := ((s.setFld R.SCR_STAT_ACTIVE 0).addFld R.SCR_PASSES 1).raise (pg .scr) 0
    if s.scrubDue && decide (s.scrubMin ≠ 0) then s.scrubBegin else s
  else s

/-- What the scrubber does with the word it has read (R308). -/
def State.scrubActs (s : State) (w : Nat) (raced : Bool) (o : WOut) : State :=
  match o with
  | .clean | .poison => s
  | .corrected _ =>
    let s := s.addFld R.SCR_SCRUB_CE 1
    if raced then s.addFld R.SCR_WB_DROPPED 1 else s.rewriteWord w
  | .ue =>
    let s := (s.addFld R.SCR_SCRUB_UE 1).error (pg .scr) 0x10 0 0 none
    s.queueSpare (w * 32)

/-- The effect of SCRUB_READ: the scrubber reads one word of a pass in progress (R307, R308): the one that its order makes the
next; it reads nothing while a remap keeps DRAM to the Wells (R306, DEDUCED). `raced` is whether a write to the granule has been accepted since the read. -/
def doScrubRead (c bank row word : Nat) (errs : List SymErr) (raced : Bool) (s : State) : State :=
  let p := mkPlace c bank row (32 * word)
  if s.bit R.SCR_STAT_ACTIVE = false ∨ s.dram.selfRefresh = true ∨ s.bit R.MAP_STAT_REMAP_BUSY = true ∨ 16 ≤ bank ∨ 65536 ≤ row ∨ 64 ≤ word
    ∨ s.scrubNext s.dram.scrubAt ≠ some (rowIndex p, c, word) then s
  else
    let w := p / 32
    let s := if errs.isEmpty then s else
      { s with dram := { s.dram with words := s.dram.words.put cleanWord w { (s.dram.words.get cleanWord w) with errs := errs } } }
    let (o, s) := s.rawRead (masterCode .scrub) w
    (s.scrubActs w raced o).scrubAdvance c (rowIndex p) word

/-- SCRUB_READ. -/
def execScrubRead (c bank row word : Nat) (errs : List SymErr) (raced : Bool) (s : State) : Host.Outcome State Fault Refusal :=
  .next (doScrubRead c bank row word errs raced s)

/-- A word read by its controller and copied into a spare row (R292, R310): corrected words go across corrected,
uncorrectable ones as stored poison. -/
def State.copyWord (s : State) (w : Nat) : State :=
  let bs := s.wordData w
  let (o, s) := s.rawRead 12 w
  s.putWord w bs ⟨(match o with | .poison | .ue => true | _ => false), []⟩

/-- Soft spares used in a bank. -/
def State.sparesUsed (s : State) (c bank : Nat) : Nat :=
  (s.dram.spares.filter (fun x => x.chan == c && x.bank == bank)).length

/-- The effect of SOFT_SPARE (R310): the row at the head of the queue is copied into the next free spare of its bank. -/
def doSoftSpare (s : State) : State :=
  match s.dram.spareQ with
  | [] => s
  | (c, bank, row) :: t =>
    let s := { s with dram := { s.dram with spareQ := t } }
    let n := s.sparesUsed c bank
    if 4 ≤ n then
      ((s.addFld R.SCR_SPARE_EXHAUSTED 1).error (pg .scr) 0x12 0 0 none).raise (pg .scr) 3
    else
      let w0 := mkPlace c bank row 0 / 32
      let s := (List.range 64).foldl (fun s i => s.copyWord (w0 + i)) s
      let s := { s with dram := { s.dram with spares := s.dram.spares ++ [(⟨c, bank, n, row⟩ : Spare)] } }
      let s := s.addFld R.SCR_SPARES_APPLIED 1
      let s := (s.info (pg .scr) 0xE1 none c bank row 0).raise (pg .scr) 2
      s.requestSave

/-- SOFT_SPARE. -/
def execSoftSpare (s : State) : Host.Outcome State Fault Refusal := .next (doSoftSpare s)

end Sys2Proof.Machine
end

