-- ==== Sys2Proof/Machine/Access.lean ====
section
/-! DEFINITION. What a write of BAR0 does (spec/00 R5 to R9, R14, R471; spec/12 R356 to R359, R374 to R377): the page header, the
registers of each page with their commands, _LO/_HI pairs, table windows, and the accesses a host makes. -/

namespace Sys2Proof.Machine

/-! ### Page header -/

/-- A write of PG_KEY on a path (R9): 0x0000_5EED opens the page, any other value closes it. -/
def State.writeKey (s : State) (π : Path) (p : Page) (v : Nat) : State :=
  let s := s.closeKey π p
  if v = 0x5EED then { s with opened := pathKey π p.base :: s.opened } else s

/-- Source events cleared by a write of PG_IRQ_STAT (R376). -/
def State.clearIrq (s : State) (p : Page) (v : Nat) : State :=
  let raw := s.fld (R.PG_IRQ_RAW p)
  s.setFld (R.PG_IRQ_RAW p) (raw &&& (raw ^^^ v % m32))

/-- A write of PG_IRQ_EN: a request that rises sends its message (R365). -/
def State.writeIrqEn (s : State) (p : Page) (v : Nat) : State := State.irqEdge s (s.setFld (R.PG_IRQ_EN p) v) p

/-- A write of PG_ERR_CODE: VALID written 1 clears VALID, CODE and PG_ERR_SEQ (R375). -/
def State.clearErr (s : State) (p : Page) (v : Nat) : State :=
  if v.testBit 31 then ((s.setFld (R.PG_ERR_CODE_VALID p) 0).setFld (R.PG_ERR_CODE_CODE p) 0).setFld (R.PG_ERR_SEQ_FRAME p) 0
  else s

/-- PG_CTL.ENABLE written: links and the arrival area start and stop, other pages hold the bit. -/
def State.writeEnable (s : State) (p : Page) (on : Bool) : State :=
  match p.kind with
  | .lnk => if on then doLnkEnable p.inst s else doLnkDisable p.inst s
  | .arr => if on then doArrEnable s else doArrDisable s
  | _ => s.setBit (R.PG_CTL_ENABLE p) on

/-- PG_CTL.LOCK written 1 (R8: W1S). -/
def State.setLock (s : State) (p : Page) : State := s.setFld (R.PG_CTL_LOCK p) 1

/-- A block soft reset of a WELL page: what the Well is does not change. -/
def State.softWell (s : State) (p : Page) : State :=
  let st := s.fld (R.WELL_STAT_STATE p.inst)
  (s.softClear p).setFld (R.WELL_STAT_STATE p.inst) st

/-- A block soft reset of the MBX page: the command in progress ends, who is in control stays shown. -/
def State.softMbx (s : State) (p : Page) : State :=
  let w := s.fld R.MBX_STAT_WELL
  let n := s.fld R.MBX_STAT_NO_WELL
  let s := ((s.softClear p).setFld R.MBX_STAT_WELL w).setFld R.MBX_STAT_NO_WELL n
  { s with well := { s.well with op := none, saved := none, tested := none } }

/-- A block soft reset (R14, R13, R182, R220, R338). -/
def State.softReset (s : State) (p : Page) : State :=
  match p.kind with
  | .eng => doEngineReset p.inst s
  | .bas => s.stopBasin.softClear p
  | .dmach => (s.dmaReset p.inst).softClear p
  | .dma => ((List.range 32).foldl (fun s n => (s.dmaReset n).softClear (dmachPg n)) s).softClear p
  | .well => s.softWell p
  | .mbx => s.softMbx p
  | _ => s.softClear p

/-- A write of PG_CTL. -/
def State.writeCtl (s : State) (p : Page) (v : Nat) : State :=
  let s := s.writeEnable p (v.testBit 0)
  let s := if v.testBit 3 then s.setLock p else s
  let s := doPageFreeze p (v.testBit 2) s
  if v.testBit 1 then s.softReset p else s

/-- A write of a header register. -/
def State.writeHeader (s : State) (p : Page) (isOpen : Bool) (rel v : Nat) : State :=
  if rel = 0x08 then s.writeCtl p v
  else if rel = 0x14 then s.clearIrq p v
  else if rel = 0x18 then s.writeIrqEn p v
  else if rel = 0x20 then s.clearErr p v
  else match regRow p.kind rel with
    | some (_, r) => writeFields s p isOpen (p.base + rel) v r.fields
    | none => s

/-! ### Registers that may not be written in the present state -/

/-- A write of a register, by the offset of its row in the page, is dropped in the present state (R92, R128, R133, and the
notes under the LNK, BM, BAS and DMACH field tables). -/
def State.cfgHeld (s : State) (p : Page) (base : Nat) : Bool :=
  match p.kind with
  | .lnk => decide (base = 0x44) && s.bit (R.PG_CTL_ENABLE p)
  | .arr => decide (base ∈ [0x44, 0x4C, 0x54]) && s.bit (R.PG_CTL_ENABLE p)
  | .chn0 => decide (base = 0x58 + 8 * s.fld R.CHN0_CFG_GAIN_BANK)
  | .bm => decide (base = 0x6C + 8 * s.fld R.BM_CFG_WT_BANK)
  | .bas => decide (base ∈ [0x78, 0x80]) && s.running
  | .dmach => (decide (base ∈ [0x44, 0x4C]) || decide (0x5C ≤ base ∧ base ≤ 0x88)) && s.dmaBusy p.inst
  | _ => false

/-- A write to an active bank of the channeliser was dropped. -/
def State.chnBlocked (s : State) : State :=
  ((s.setFld R.CHN1_STAT_CFG_BLOCKED 1).error (pg .chn1) 0x12 0 0 none).raise (pg .chn1) 3

/-- CFG_BLOCKED of the page that a dropped write names. -/
def State.flagHeld (s : State) (p : Page) : State :=
  match p.kind with
  | .lnk => s.setFld (R.LNK_STAT_CFG_BLOCKED p.inst) 1
  | .arr => s.arrBlocked
  | .chn0 => s.chnBlocked
  | .bm => s.setFld R.BM_STAT_CFG_BLOCKED 1
  | .bas => s.setFld R.BAS_STAT_CFG_BLOCKED 1
  | .dmach => s.setFld (R.DMACH_STAT_CFG_BLOCKED p.inst) 1
  | _ => s

/-! ### Commands of the pages -/

/-- The effect of a command bit of a value written. -/
def onBit (v i : Nat) (k : State → State) (s : State) : State := if v.testBit i then k s else s

/-- PWR.CTL: one command; a write with more than one is refused. -/
def pwrCtl (v : Nat) (s : State) : State :=
  match v % 8 with
  | 0 => s
  | 1 => doGoActive s
  | 2 => doGoIdle s
  | 4 => doGoStandby s
  | _ => s.stateRefused

/-- ACC.CTL: one command; a write with more than one is ignored. -/
def accCtl (v : Nat) (s : State) : State :=
  match v % 8 with
  | 0 => s
  | 1 => doFreezeAll s
  | 2 => doThawAll s
  | 4 => doCheck s
  | _ => s.accIgnored

/-- CLKOUTn (R392): the write is dropped where it changes DIV of an enabled output, or enables with DIV 0 or 1. -/
def clkoutWrite (k v : Nat) (s : State) : State :=
  let div := v % 4096
  let en := v.testBit 12
  if (s.bit (R.TRN2_CLKOUT_EN k) && decide (div ≠ s.fld (R.TRN2_CLKOUT_DIV k))) || (en && decide (div < 2)) then s.trn2Blocked
  else
    ((s.setFld (R.TRN2_CLKOUT_DIV k) div).setBit (R.TRN2_CLKOUT_EN k) en).clkChange k (s.fld (R.TRN2_CLKOUT_DIV k))
      (s.bit (R.TRN2_CLKOUT_EN k))

/-- SYNC_PERIOD: a period of 0 withdraws a pending LOAD_SYNC that no realign will serve (R86). -/
def syncPeriodWrite (v : Nat) (s : State) : State :=
  let s := s.setFld R.TRN2_SYNC_PERIOD_FRAMES v
  if s.fld R.TRN2_SYNC_PERIOD_FRAMES = 0 ∧ s.arr.load = .sync ∧ s.tarn.realign = false then (s.setLoad .none).arrBlocked else s

/-- SLK.CTL. -/
def slkCtl (n v : Nat) (s : State) : State :=
  let s := (s.setBit (R.SLK_CTL_PRECODE_REQ n) (v.testBit 2)).setBit (R.SLK_CTL_FFE_OVR n) (v.testBit 3)
  onBit v 5 (doPresetClr n) (onBit v 4 (doPresetSave n) (onBit v 0 (doRetry n) s))

/-- SLK.TX_FFE: a magnitude above its limit is stored as the limit. -/
def txFfeWrite (n v : Nat) (s : State) : State :=
  (s.setFld (R.SLK_TX_FFE_PRE n) (min 16 (v % 32))).setFld (R.SLK_TX_FFE_POST n) (min 24 (v / 256 % 32))

/-- LNK.CTL. -/
def lnkCtl (j v : Nat) (s : State) : State :=
  onBit v 3 (doRegrow j) (onBit v 2 (doRetrain j) (onBit v 1 (doWakeReq j) (onBit v 0 (doDormantReq j) s)))

/-- GSV.CTL: the commands act on the slot written with them. -/
def gsvCtl (g v : Nat) (s : State) : State :=
  let sl := v % 16
  let s := s.setFld (R.GSV_CTL_SLOT g) sl
  onBit v 6 (doRetest g sl) (onBit v 5 (doUnlock g sl) (onBit v 4 (fun s => (doFail g sl s).settle) s))

/-- MC.CTL: the commands act on the channel written with them. -/
def mcCtl (k v : Nat) (s : State) : State :=
  let ch := v % 8
  let s := s.setFld (R.MC_CTL_CH k) ch
  onBit v 4 (doRetire k ch) (onBit v 3 (doMcRetrain k ch) s)

/-- MAP.CTL. -/
def mapCtl (v : Nat) (s : State) : State :=
  let rgn := v / 16 % 8
  let s := s.setFld R.MAP_CTL_FILL_RGN rgn
  onBit v 1 (doFill rgn) (onBit v 0 doRemap s)

/-- ARM_CTL of a page: CANCEL, then COPY_BACK; ARM is taken where CANCEL is not written with it (R27). -/
def armCtl (p : Page) (v : Nat) (s : State) : State :=
  let s := onBit v 2 (doCopyBack p) (onBit v 1 (doCancel p) s)
  if v.testBit 0 && !v.testBit 1 then doArm p s else s

/-- Command registers of the clock, time and power pages; none where a register is a plain one. -/
def aonCommand (p : Page) (base v : Nat) : Option (State → State) :=
  match p.kind, base with
  | .pwr, 0x40 => some (pwrCtl v)
  | .pwr, 0x48 => some (doDomEnWrite v)
  | .trn0, 0x40 => some (fun s => onBit v 1 doPstepCancel (onBit v 0 doHistSave s))
  | .trn0, 0x54 => some (doPstepWrite v)
  | .trn2, 0x40 => some (fun s => onBit v 0 doRealign (onBit v 1 doRealignCancel s))
  | .trn2, 0x48 => some (clkoutWrite 0 v)
  | .trn2, 0x4C => some (clkoutWrite 1 v)
  | .trn2, 0x50 => some (clkoutWrite 2 v)
  | .trn2, 0x54 => some (clkoutWrite 3 v)
  | .trn2, 0x58 => some (syncPeriodWrite v)
  | .tod, 0x40 => some (fun s => onBit v 1 doAlign (onBit v 0 doLoadPps (onBit v 2 doTodCancel s)))
  | .tune, 0x40 => some (doRangeChange v)
  | .tune, 0x48 => some (doTuneCodeWrite v)
  | .evt, 0x50 => some (doEvtRptrWrite v)
  | _, _ => none

/-- Command registers of the datapath pages. -/
def pathCommand (p : Page) (base v : Nat) : Option (State → State) :=
  match p.kind, base with
  | .slk, 0x40 => some (slkCtl p.inst v)
  | .slk, 0x48 => some (txFfeWrite p.inst v)
  | .lnk, 0x40 => some (lnkCtl p.inst v)
  | .arr, 0x40 => some (fun s => onBit v 1 doLoadNow (onBit v 0 doLoadSync (onBit v 2 doLoadCancel s)))
  | .mere, 0x40 => some (onBit v 0 doPlanEval)
  | .eng, 0x40 => some (onBit v 0 (doSelftest p.inst))
  | .gsv, 0x40 => some (gsvCtl p.inst v)
  | .xs, 0x40 => some (onBit v 0 doEval)
  | .bm, 0xBC => some (doVrelWrite v)
  | .bas, 0x40 => some (onBit v 0 doRingReset)
  | _, _ => none

/-- Command registers of the memory, DMA, Well, account, security and record pages. -/
def hostCommand (π : Path) (p : Page) (base v : Nat) : Option (State → State) :=
  match p.kind, base with
  | .mc, 0x40 => some (mcCtl p.inst v)
  | .mc, 0x60 => some (onBit v 0 (doLogPop p.inst))
  | .map, 0x40 => some (mapCtl v)
  | .scr, 0x40 => some (onBit v 0 doStart)
  | .dma, 0x40 => some (onBit v 0 doStopAll)
  | .dmach, 0x40 => some (fun s => onBit v 2 (doDmachClear p.inst) (onBit v 1 (doDmachStop p.inst) (onBit v 0 (doDmachStart p.inst) s)))
  | .well, 0x40 => some (fun s => onBit v 1 (doTest p.inst) (onBit v 0 (doRestart p.inst) s))
  | .mbx, 0x44 => some (onBit v 0 State.mbxGo)
  | .acc, 0x40 => some (accCtl v)
  | .sec, 0x40 => some (onBit v 0 (doOpen π))
  | .nvr, 0x40 => some (onBit v 0 doSave)
  | _, _ => none

/-- What a write of a command register does; none where the register's fields are written by their access codes. -/
def command (π : Path) (p : Page) (base v : Nat) : Option (State → State) :=
  if armOffset p.kind = some base then some (armCtl p v)
  else match aonCommand p base v with
    | some k => some k
    | none => match pathCommand p base v with
      | some k => some k
      | none => hostCommand π p base v

/-- What follows from a write of some plain registers: the mode of the Tarn (R388), the quality levels in force (R382). -/
def afterWrite (p : Page) (base : Nat) (old s : State) : State :=
  match p.kind with
  | .trn0 => if base = 0x44 ∧ old.fld R.TRN0_CFG_MODE ≠ s.fld R.TRN0_CFG_MODE then s.select else s
  | .trn1 => s.showQl
  | _ => s

/-! ### Registers of a page -/

/-- The low half of a pair that a write of its _HI register commits (R6, R471). -/
def State.lowHalf (s : State) (π : Path) (off : Nat) : Nat :=
  match s.stagedLo π off with
  | some v => v
  | none => s.regValue off % m32

/-- Both halves of a pair take effect. -/
def State.commitPair (s : State) (π : Path) (p : Page) (isOpen : Bool) (base v : Nat) (r : RegDesc) : State :=
  let x := s.lowHalf π (p.base + base) + m32 * (v % m32)
  let s := s.unstage π (p.base + base)
  if p.kind = .bas ∧ base = 0x90 then doRptrWrite (x % m48) s
  else writeFields s p isOpen (p.base + base) x r.fields

/-- A write of a register by its row: its offset `rel`, the offset of its row `base`. -/
def State.regWrite (s : State) (π : Path) (p : Page) (isOpen : Bool) (rel base v : Nat) (r : RegDesc) : State :=
  let hi := r.pair && rel != base
  let clear (s : State) : State := if hi then s.unstage π (p.base + base) else s
  if s.shadowHeld p base then (clear s).flagShadow p
  else if s.cfgHeld p base then (clear s).flagHeld p
  else if r.pair then (if hi then s.commitPair π p isOpen base v r else s.stageLo π (p.base + base) v)
  else match command π p base v with
    | some k => k s
    | none => afterWrite p base s (writeFields s p isOpen (p.base + base) v r.fields)

/-- A write of a block register. -/
def State.writeBlock (s : State) (π : Path) (p : Page) (isOpen : Bool) (rel v : Nat) : State :=
  if p.kind = .map ∧ 0x80 ≤ rel ∧ rel < 0x100 then doRegionWrite π (p.base + rel) v s
  else match regRow p.kind rel with
    | none => s
    | some (b, r) => s.regWrite π p isOpen rel (b + r.off) v r

/-- A write of a whole dword of a page, after which the page is closed on the path (R9). -/
def State.writePage (s : State) (π : Path) (p : Page) (off v : Nat) : State :=
  let rel := off - p.base
  if rel = 0x3C then s.writeKey π p v
  else
    let isOpen := s.rwlOpen π p
    (if rel < headerEnd then s.writeHeader p isOpen rel v else s.writeBlock π p isOpen rel v).closeKey π p

/-! ### Table windows -/

/-- A shadow window: its bounds, the page that owns it and the bits an entry word holds. -/
structure Win where
  lo : Nat
  hi : Nat
  kind : PageKind
  mask : Nat
  deriving DecidableEq, Repr

/-- The shadow windows (R114, R141, R229, R257). -/
def shadowWins : List Win := [
  ⟨0x1000000, 0x1020000, .dly, 0xFFFFFFFF⟩, ⟨0x1040000, 0x1044000, .dly, 0xFFFF⟩, ⟨0x1050000, 0x1054000, .arr, 0xFFF⟩,
  ⟨0x11E0000, 0x11E4000, .chn0, 0xFFFF⟩, ⟨0x1200000, 0x1208000, .bas, 0xFFFFFFFF⟩, ⟨0x1220000, 0x1230000, .bm, 0xFFFFFFFF⟩]

/-- The shadow window an offset lies in. -/
def winAt (off : Nat) : Option Win := shadowWins.find? (fun w => decide (w.lo ≤ off) && decide (off < w.hi))

/-- A coefficient word: bit 17 is extended over bits 31 to 18 (R128). -/
def coefWord (v : Nat) : Nat := if v.testBit 17 then v % 2 ^ 18 + (2 ^ 32 - 2 ^ 18) else v % 2 ^ 18

/-- A word of the MSI-X table: the reserved bits of an address and of vector control are dropped. -/
def msixWord (off v : Nat) : Nat :=
  if off % 16 = 0 then v / 4 * 4 else if off % 16 = 12 then v % 2 else v

/-- A write of a table window with byte enables (R356): shadow windows, coefficient banks, program SRAM and the MSI-X table;
others are read-only. -/
def State.writeWindow (s : State) (off v be : Nat) : State :=
  let new := mergeBytes (s.tab off) v be
  if 0x3D0000 ≤ off ∧ off < 0x3D8000 then s.setTab off (msixWord off new)
  else if 0x1100000 ≤ off ∧ off < 0x1180000 then
    if s.fld R.CHN0_CFG_COEF_BANK = (off - 0x1100000) / 0x40000 then s.chnBlocked else s.setTab off (coefWord new)
  else if 0x1400000 ≤ off ∧ off < 0x1440000 then s.psramWord ((off - 0x1400000) / 4) v be false
  else match winAt off with
    | some w => if s.armBusy (pg w.kind) then s.flagShadow (pg w.kind) else s.setTab off (new &&& w.mask)
    | none => s

/-! ### Accesses -/

/-- A served write of an aligned dword: a page drops one with incomplete byte enables and counts it (R356). -/
def State.writeServed (s : State) (π : Path) (off v be : Nat) : State :=
  match pageAt off with
  | some p => if be % 16 ≠ 15 then s.countAccess π off 2 true else s.writePage π p off v
  | none => s.writeWindow off v be

/-- A write of an aligned dword of BAR0: how it fares, and the state after. -/
def State.writeAt (s : State) (π : Path) (off v be : Nat) : Gate × State :=
  match s.gate off with
  | .served => (.served, s.writeServed π off v be)
  | g => (g, s.turnAway g π off true)

/-- A host's write of a dword of BAR0; one that comes poisoned is dropped and counted (R363). DESIGN CHOICE: a write so dropped does
not reach its page and so does not close it (R9 does not say). -/
def State.hostWrite (s : State) (π : Path) (off v be : Nat) (ep : Bool) : State :=
  if !s.reaches π then s
  else if ep && decide (π = .pcie) then s.epReceived
  else (s.writeAt π (off / 4 * 4) (v % m32) be).2

/-- A decode error on the management SPI path: no answer until the port is reset (R344, R370). -/
def State.mspiHang (s : State) (addr : Nat) (write : Bool) : State :=
  ((s.decodeError 2 0 addr write).setFld R.MX_STAT_MSPI_HUNG 1).raise (pg .mx) 1

/-- An access outside BAR0: the PCIe path cannot carry one; on the management SPI path it is a decode error. -/
def State.beyondBar0 (s : State) (π : Path) (off : Nat) (write : Bool) : Host.Outcome State Fault Refusal :=
  if π = .mspi then .next (if s.reaches π then s.mspiHang off write else s) else .fault .outsideBar0

/-! ### Commands -/

/-- REGISTER_WRITE: a write of a dword of a page. -/
def execRegisterWrite (π : Path) (off v be : Nat) (ep : Bool) (s : State) : Host.Outcome State Fault Refusal :=
  if off < 2 ^ 26 then .next (s.hostWrite π off v be ep) else s.beyondBar0 π off true

/-- TABLE_WINDOW_WRITE: a write of a dword of a table window. -/
def execTableWindowWrite (π : Path) (off v be : Nat) (ep : Bool) (s : State) : Host.Outcome State Fault Refusal :=
  if off < 2 ^ 26 then .next (s.hostWrite π off v be ep) else s.beyondBar0 π off true

/-- LO_WRITE_STAGE: a write of the _LO register of a pair. -/
def execLoWriteStage (π : Path) (off v : Nat) (s : State) : Host.Outcome State Fault Refusal :=
  if off < 2 ^ 26 then .next (s.hostWrite π off v 15 false) else s.beyondBar0 π off true

/-- HI_WRITE_COMMIT: a write of the _HI register of a pair. -/
def execHiWriteCommit (π : Path) (off v : Nat) (s : State) : Host.Outcome State Fault Refusal :=
  if off < 2 ^ 26 then .next (s.hostWrite π off v 15 false) else s.beyondBar0 π off true

/-- RC_READ: a read of a dword, which clears the RC fields it covers. -/
def execRcRead (π : Path) (off : Nat) (s : State) : Host.Outcome State Fault Refusal :=
  if off < 2 ^ 26 then .next (s.hostRead π off) else s.beyondBar0 π off false

/-- LO_READ_LATCH: a read of the _LO register of a pair, which latches its _HI register. -/
def execLoReadLatch (π : Path) (off : Nat) (s : State) : Host.Outcome State Fault Refusal :=
  if off < 2 ^ 26 then .next (s.hostRead π off) else s.beyondBar0 π off false

/-- PG_KEY_WRITE. -/
def execPgKeyWrite (π : Path) (p : Page) (v : Nat) (s : State) : Host.Outcome State Fault Refusal :=
  .next (s.hostWrite π (p.base + 0x3C) v 15 false)

/-- PG_LOCK: LOCK written 1. -/
def execPgLock (π : Path) (p : Page) (s : State) : Host.Outcome State Fault Refusal :=
  .next (s.hostCmd π (p.base + 0x08) (fun s => s.setLock p))

/-- BLOCK_SOFT_RESET: SOFT_RST written 1. -/
def execBlockSoftReset (π : Path) (p : Page) (s : State) : Host.Outcome State Fault Refusal :=
  .next (s.hostCmd π (p.base + 0x08) (fun s => s.softReset p))

/-- IRQ_STAT_CLEAR. -/
def execIrqStatClear (π : Path) (p : Page) (v : Nat) (s : State) : Host.Outcome State Fault Refusal :=
  .next (s.hostCmd π (p.base + 0x14) (fun s => s.clearIrq p v))

end Sys2Proof.Machine
end

