-- ==== Sys2Proof/Machine/Mspi.lean ====
section
/-! DEFINITION. The management SPI port (spec/12 R369, R370; spec/11 R343, R344). -/

namespace Sys2Proof.Machine

/-- The effect of a pulse of MSPI_RST_N: a hang ends and is counted. -/
def doMspiRstPulse (s : State) : State :=
  if s.bit R.MX_STAT_MSPI_HUNG then (s.setFld R.MX_STAT_MSPI_HUNG 0).addFld R.MX_MSPI_RST 1 else s

/-- MSPI_RST_PULSE. -/
def execMspiRstPulse (s : State) : Host.Outcome State Fault Refusal := .next (doMspiRstPulse s)

/-- The status byte of a transaction. -/
def mspiStatus (g : Gate) : Nat :=
  match g with
  | .blocked => 1
  | .unmapped => 2
  | .served | .ignored => 0

/-- A READ transaction: its access, what it returned, or none where the access is a decode error or the port hangs. -/
def State.mspiRead (s : State) (addr : Nat) : Option (Gate × Nat) × State :=
  if !s.reaches .mspi then (none, s)
  else if 2 ^ 26 ≤ addr then (none, s.mspiHang addr false)
  else
    let (g, v, s) := s.readAt .mspi (addr / 4 * 4)
    (some (g, v), s)

/-- A WRITE transaction: how its access fared. -/
def State.mspiWrite (s : State) (addr v : Nat) : Option Gate × State :=
  if !s.reaches .mspi then (none, s)
  else if 2 ^ 26 ≤ addr then (none, s.mspiHang addr true)
  else
    let (g, s) := s.writeAt .mspi (addr / 4 * 4) (v % m32) 15
    (some g, s)

/-- The effect of MSPI_READ: the data and the status leave on MISO. -/
def doMspiRead (addr : Nat) (s : State) : State :=
  match s.mspiRead (addr % m32) with
  | (some (g, v), s) => s.emit (.mspi v (mspiStatus g))
  | (none, s) => s

/-- MSPI_READ. -/
def execMspiRead (addr : Nat) (s : State) : Host.Outcome State Fault Refusal := .next (doMspiRead addr s)

/-- The effect of MSPI_WRITE: the data returned is zero. -/
def doMspiWrite (addr v : Nat) (s : State) : State :=
  match s.mspiWrite (addr % m32) v with
  | (some g, s) => s.emit (.mspi 0 (mspiStatus g))
  | (none, s) => s

/-- MSPI_WRITE. -/
def execMspiWrite (addr v : Nat) (s : State) : Host.Outcome State Fault Refusal := .next (doMspiWrite addr v s)

/-- The effect of MSPI_BAD_OPCODE: ignored until CS_N rises, MISO low. An opcode of 0x02 or 0x03 is none of these. -/
def doMspiBadOpcode (_op : Nat) (s : State) : State := s

/-- MSPI_BAD_OPCODE. -/
def execMspiBadOpcode (op : Nat) (s : State) : Host.Outcome State Fault Refusal := .next (doMspiBadOpcode op s)

/-- The effect of MSPI_CS_RISE: CS_N rises when some bits of a transaction have been received and RDY has not risen. A READ has
started its access at bit 40, a WRITE at bit 72; its result is discarded. -/
def doMspiCsRise (write : Bool) (addr v bits : Nat) (s : State) : State :=
  if write then (if 72 ≤ bits then (s.mspiWrite (addr % m32) v).2 else s)
  else if 40 ≤ bits then (s.mspiRead (addr % m32)).2 else s

/-- MSPI_CS_RISE. -/
def execMspiCsRise (write : Bool) (addr v bits : Nat) (s : State) : Host.Outcome State Fault Refusal :=
  .next (doMspiCsRise write addr v bits s)

end Sys2Proof.Machine
end

