-- ==== Sys2Proof/Machine/Signal.lean ====
section
/-! DEFINITION. The DMA instructions that reach the register fabric: WAIT with its polls and its timeout, and SIGNAL (spec/11
R319, R320, R324, R325, R335, R337). -/

namespace Sys2Proof.Machine

/-! ### Registers from a channel (R319) -/

/-- A register offset that is in no page or window: for a channel a decode error of the matrix. -/
def State.regBeyond (s : State) (off : Nat) : Bool := decide (2 ^ 26 ≤ off) || decide (s.gate off = .unmapped)

/-- A channel reads a register on a path of its own; none is an error response. -/
def State.dmaRegRead (s : State) (n off : Nat) : Option Nat × State :=
  if s.regBeyond off then (none, s.decodeError 0 1 off false)
  else
    let (_, v, s) := (s.mxCount 8).readAt (.dma n) off
    (some v, s)

/-- A channel writes a register: none, or the cause of its error response. -/
def State.dmaRegWrite (s : State) (n off v : Nat) : Option Nat × State :=
  if s.regBeyond off then (some 2, s.decodeError 0 1 off true)
  else (none, ((s.mxCount 8).writeAt (.dma n) off (v % m32) 15).2)

/-! ### WAIT (R324) -/

/-- The fields of a WAIT. -/
def waitSpace (bs : List Byte) : Nat := insByte bs 1 % 8
def waitWide (bs : List Byte) : Bool := insBit bs 1 4
def waitMask (bs : List Byte) : Bool := insBit bs 1 5
def waitLimit (bs : List Byte) : Nat := 1200 * leAt bs 4 4

/-- The word or pair that a WAIT reads from REG, the high word after the low one. -/
def State.waitReg (s : State) (n off : Nat) (wide : Bool) : Option Nat × State :=
  if off % 4 ≠ 0 then
    let (v, s) := s.free (if wide then m48 else m32)
    (some v, s)
  else match s.dmaRegRead n off with
    | (none, s) => (none, s)
    | (some lo, s) =>
      if wide then match s.dmaRegRead n (off + 4) with
        | (none, s) => (none, s)
        | (some hi, s) => (some (lo + m32 * (hi % 65536)), s)
      else (some lo, s)

/-- The word or pair that a WAIT reads from HOST. -/
def State.waitHost (s : State) (n addr host : Nat) (wide : Bool) (cpl : Cpl) : Option Nat × State :=
  let (refused, s) := s.hostIn n addr 4
  let (refused, s) := if wide && !refused then s.hostIn n (addr + 4) 4 else (refused, s)
  if refused then (none, s)
  else (if cpl = .good then some (host % (if wide then m48 else m32)) else none, s.cplSeen cpl)

/-- What a WAIT reads; none where it ends in an error response or poison. -/
def State.waitRead (s : State) (n : Nat) (bs : List Byte) (host : Nat) (cpl : Cpl) : Option Nat × State :=
  let a := leAt bs 8 8
  let wide := waitWide bs
  let len := if wide then 8 else 4
  match waitSpace bs with
  | 0 =>
    let (r, s) := (s.mxMem .dma a len).readDram .dma a len
    (if r.bad then none else some (leNat r.bytes % (if wide then m48 else m32)), s)
  | 1 => s.waitHost n a host wide cpl
  | 2 =>
    if 262144 < a + len then (none, s.decodeError 0 1 a false)
    else
      let (bytes, marks) := s.sramRead 0x1400000 a len
      (if marks.any id then none else some (leNat bytes % (if wide then m48 else m32)), s)
  | _ => s.waitReg n a wide

/-- The base an instruction names: zero, SP or DP. -/
def State.dmaBase (s : State) (n code : Nat) : Nat :=
  if code = 1 then s.fld (R.DMACH_SP n) else if code = 2 then s.fld (R.DMACH_DP n) else 0

/-- The condition of a WAIT holds of a value. -/
def State.waitHolds (s : State) (n : Nat) (bs : List Byte) (v : Nat) : Bool :=
  if waitMask bs then decide (v % m32 &&& leAt bs 16 4 = leAt bs 20 4)
  else
    let w := if waitWide bs then 48 else 32
    decide (0 ≤ seqDiff w v (s.dmaBase n (insByte bs 2 % 4) + leAt bs 16 8))

/-- A read of a WAIT some cycles after its first: the WAIT completes, goes on or stops the channel. -/
def State.waitTry (s : State) (n : Nat) (bs : List Byte) (host : Nat) (cpl : Cpl) (cycles : Nat) : State :=
  match s.waitRead n bs host cpl with
  | (none, s) => s.dmaStop n 0x1A
  | (some v, s) =>
    if s.waitHolds n bs v then (s.setDmaState n csRunning).dmaNext n (s.fld (R.DMACH_PC n) + 32)
    else (s.setDmaCh n { s.dmaCh n with waited := some cycles }).setDmaState n csWaiting

/-- The effect of WAIT: its first read. -/
def doWait (n host : Nat) (cpl : Cpl) (s : State) : State :=
  match s.dmaInstr n 3 with
  | none => s
  | some bs => if 4 ≤ waitSpace bs then s.dmaStop n 0x14 else s.waitTry n bs host cpl 0

/-- WAIT. -/
def execWait (n host : Nat) (cpl : Cpl) (s : State) : Host.Outcome State Fault Refusal := .next (doWait n host cpl s)

/-- The WAIT a channel waits in, and the cycles since its first read. -/
def State.waitingOn (s : State) (n : Nat) : Option (List Byte × Nat) :=
  let c := s.dmaCh n
  if n < 32 ∧ s.fld (R.DMACH_STAT_STATE n) = csWaiting then
    match c.waited, c.buf.find? (fun e => e.1 == s.fld (R.DMACH_PC n)) with
    | some t, some e => some (e.2, t)
    | _, _ => none
  else none

/-- The timeout of a WAIT passes: the cycles in WAIT are counted up to it, and the channel stops. -/
def State.waitOver (s : State) (n : Nat) (bs : List Byte) (t : Nat) : State :=
  (s.addFld (R.DMACH_WAIT_CYC n) (waitLimit bs - t)).dmaStop n 0x19

/-- The effect of WAIT_POLL: the next read, some FAB_CLK cycles after the last one returned, where the interval has
passed. -/
def doWaitPoll (n host : Nat) (cpl : Cpl) (cycles : Nat) (s : State) : State :=
  match s.waitingOn n with
  | none => s
  | some (bs, t) =>
    if cycles < 16 * max 1 (s.fld R.DMA_CFG_POLL) then s
    else if waitLimit bs ≠ 0 ∧ waitLimit bs < t + cycles then s.waitOver n bs t
    else (s.addFld (R.DMACH_WAIT_CYC n) cycles).waitTry n bs host cpl (t + cycles)

/-- WAIT_POLL. -/
def execWaitPoll (n host : Nat) (cpl : Cpl) (cycles : Nat) (s : State) : Host.Outcome State Fault Refusal :=
  .next (doWaitPoll n host cpl cycles s)

/-- The effect of WAIT_TIMEOUT: some FAB_CLK cycles after the last read, the timeout has passed. -/
def doWaitTimeout (n cycles : Nat) (s : State) : State :=
  match s.waitingOn n with
  | none => s
  | some (bs, t) => if waitLimit bs ≠ 0 ∧ waitLimit bs ≤ t + cycles then s.waitOver n bs t else s

/-- WAIT_TIMEOUT. -/
def execWaitTimeout (n cycles : Nat) (s : State) : Host.Outcome State Fault Refusal := .next (doWaitTimeout n cycles s)

/-! ### SIGNAL (R325) -/

/-- The flags of a SIGNAL. -/
def sigEnd (bs : List Byte) : Bool := insBit bs 1 0
def sigIrq (bs : List Byte) : Bool := insBit bs 1 1
def sigWrite (bs : List Byte) : Bool := insBit bs 1 2
def sigCrc (bs : List Byte) : Bool := insBit bs 1 4
def sigCrcReset (bs : List Byte) : Bool := insBit bs 1 5
def sigFlush (bs : List Byte) : Bool := insBit bs 1 6
def sigDpStep (bs : List Byte) : Bool := insBit bs 1 7
def sigWSpace (bs : List Byte) : Nat := insByte bs 2 % 8
def sigCSpace (bs : List Byte) : Nat := insByte bs 2 / 16 % 8

/-- A channel still executes the SIGNAL it began: its own writes may have stopped or reset it. -/
def State.sigGoes (s : State) (n pc : Nat) : Bool :=
  decide (s.fld (R.DMACH_STAT_STATE n) = csRunning) && decide (s.fld (R.DMACH_PC n) = pc) && !(s.dmaCh n).buf.isEmpty

/-- A failed write of a SIGNAL: its error response comes like that of any write that has left the engine. -/
def State.sigFailed (s : State) (n sp addr cause : Nat) : State :=
  let c := s.dmaCh n
  s.setDmaCh n { c with werrs := c.werrs ++ [⟨s.fld (R.DMACH_PC n), sp, addr, cause, true⟩] }

/-- One write of a SIGNAL to a space other than REG. -/
def State.sigPut (s : State) (n sp addr : Nat) (bs : List Byte) : State :=
  let (cause, s) := s.dmaWrite sp addr false bs (bs.map (fun _ => false))
  let s := if sp = 1 then s.setDmaCh n { s.dmaCh n with hostLast := some ((addr + bs.length - 1) / 4 * 4) } else s
  match cause with | some k => s.sigFailed n sp addr k | none => s

/-- The stretches of a SIGNAL's write, in order. -/
def State.sigPuts (s : State) (n : Nat) : List (Nat × Nat × Nat) → List Byte → State
  | [], _ => s
  | (sp, a, k) :: t, bs => (s.sigPut n sp a (bs.take k)).sigPuts n t (bs.drop k)

/-- The dwords of a SIGNAL's write to REG. -/
def State.sigRegs (s : State) (n : Nat) : Nat → List Byte → Nat → State
  | 0, _, _ => s
  | k + 1, bs, addr =>
    let (cause, s) := s.dmaRegWrite n addr (leAt bs 0 4)
    let s := match cause with | some c => s.sigFailed n 3 addr c | none => s
    s.sigRegs n k (bs.drop 4) (addr + 4)

/-- A SIGNAL writes bytes in a space. -/
def State.sigStore (s : State) (n sp addr : Nat) (bs : List Byte) : State :=
  if sp = 3 then (if addr % 4 ≠ 0 then s.dmaStop n 0x1C else s.sigRegs n (bs.length / 4) bs addr)
  else s.sigPuts n (s.dmaSegs n sp addr bs.length) bs

/-- Every write the channel has issued is acknowledged. -/
def State.sigFlushed (s : State) (n : Nat) : Bool := (s.dmaCh n).werrs.isEmpty

/-- FLUSH: the read of the last dword written to HOST since the last FLUSH leaves the device, and the channel waits for its
completion; one that is refused has its response at once (R336). -/
def State.sigFlushRead (s : State) (n a : Nat) : State :=
  let (b, s) := s.sendRead n ⟨0, 4, 1, a, false⟩
  s.setDmaCh n { s.dmaCh n with hostLast := none, signalling := true, flush := if b.refused then 2 else 1 }

/-- WRITE: the value that VSRC names. -/
def State.sigValue (s : State) (n : Nat) (bs : List Byte) : State :=
  let v := match insByte bs 3 % 4 with | 1 => s.fld (R.DMACH_SP n) | 2 => s.fld (R.DMACH_DP n) | _ => leAt bs 24 8
  s.sigStore n (sigWSpace bs) (leAt bs 8 8) (leBytes (if insBit bs 1 3 then 8 else 4) v)

/-- CRC_STORE: the running CRC and its status word. -/
def State.sigCrcStore (s : State) (n : Nat) (bs : List Byte) : State :=
  let a := (leAt bs 16 8 + s.dmaBase n (insByte bs 3 / 16 % 4)) % 2 ^ 64
  s.sigStore n (sigCSpace bs) a (leBytes 4 (s.fld (R.DMACH_CRC n)) ++ leBytes 4 (if (s.dmaCh n).crcPoison then 1 else 0))

/-- CRC_RESET. -/
def State.sigCrcFresh (s : State) (n : Nat) : State :=
  (s.setDmaCh n { s.dmaCh n with crc := 0xFFFFFFFF#32, covered := false, crcPoison := false }).showCrc n

/-- DP_STEP. -/
def State.sigStep (s : State) (n : Nat) (bs : List Byte) : State :=
  s.setFld (R.DMACH_DP n) (unsgn 48 ((s.fld (R.DMACH_DP n) : Int) + sgn 32 (leAt bs 4 4)))

/-- END: the program ends; a late error still stops the channel. -/
def State.sigDone (s : State) (n : Nat) : State :=
  let c := s.dmaCh n
  let s := s.setDmaCh n { c with buf := [], signalling := false }
  let s := ((s.addFld (R.DMACH_INSTR n) 1).setDmaState n csDone).raise (dmachPg n) 1
  if c.late then s.dmaStop n 0x18 else s

/-- The actions of a SIGNAL after its writes. -/
def State.sigRest (s : State) (n pc : Nat) (bs : List Byte) : State :=
  let s := if sigCrcReset bs then s.sigCrcFresh n else s
  let s := if sigDpStep bs then s.sigStep n bs else s
  let s := if sigIrq bs then s.raise (dmachPg n) 0 else s
  let s := s.addFld (R.DMACH_SIGNALS n) 1
  if sigEnd bs then s.sigDone n else s.dmaNext n (pc + 32)

/-- The actions of a SIGNAL after its FLUSH: its writes in their order, then the rest; a channel that one of its writes stops does not
go on. -/
def State.sigActions (s : State) (n pc : Nat) (bs : List Byte) : State :=
  let s := if sigWrite bs then s.sigValue n bs else s
  let s := if sigCrc bs && s.sigGoes n pc then s.sigCrcStore n bs else s
  if s.sigGoes n pc then s.sigRest n pc bs else s

/-- A space that a SIGNAL uses does not admit its write. -/
def sigBadSpace (bs : List Byte) : Bool :=
  (sigWrite bs && decide (sigWSpace bs = 6)) || (sigCrc bs && decide (sigCSpace bs = 6))

/-- A ring that a SIGNAL uses has no size. -/
def State.sigNoRing (s : State) (n : Nat) (bs : List Byte) : Bool :=
  (sigWrite bs && s.ringUnset n (sigWSpace bs)) || (sigCrc bs && s.ringUnset n (sigCSpace bs))

/-- The response to the read of a FLUSH has come: the SIGNAL goes on with its next action, whatever the data is. -/
def State.flushEnd (s : State) (n : Nat) : State :=
  let s := s.setDmaCh n { s.dmaCh n with flush := 0 }
  match s.dmaInstr n 4 with
  | some bs => s.sigActions n (s.fld (R.DMACH_PC n)) bs
  | none => s

/-- A FLUSH begins: the read of the dword, where the channel has written to HOST since the last one. -/
def State.sigFlushStart (s : State) (n : Nat) (bs : List Byte) : State :=
  match (s.dmaCh n).hostLast with
  | none => s.sigActions n (s.fld (R.DMACH_PC n)) bs
  | some a =>
    let s := s.sigFlushRead n a
    if (s.dmaCh n).flush = 1 then s else s.flushEnd n

/-- The effect of SIGNAL; a FLUSH that waits for an acknowledgement, or for the completion of its read, keeps the channel at it. -/
def doSignal (n : Nat) (s : State) : State :=
  match s.dmaInstr n 4 with
  | none => s
  | some bs =>
    if (s.dmaCh n).flush ≠ 0 then s
    else if sigBadSpace bs then s.dmaStop n 0x14
    else if s.sigNoRing n bs then s.dmaStop n 0x15
    else if !sigFlush bs then s.sigActions n (s.fld (R.DMACH_PC n)) bs
    else if !s.sigFlushed n then s.setDmaCh n { s.dmaCh n with signalling := true }
    else s.sigFlushStart n bs

/-- SIGNAL. -/
def execSignal (n : Nat) (s : State) : Host.Outcome State Fault Refusal := .next (doSignal n s)

/-! ### DMA_READ_RETURN and COMPLETION_TIMEOUT (R325, R330, R333) -/

/-- The effect of DMA_READ_RETURN: the completion of the read of a FLUSH, or else the data of the oldest burst. -/
def doDmaReadReturn (n : Nat) (data : List Byte) (cpl : Cpl) (s : State) : State :=
  match (s.dmaCh n).flush with
  | 0 => s.burstReturn n data cpl
  | 1 => ((s.mxClose 9).cplSeen cpl).flushEnd n
  | _ => s.flushEnd n

/-- DMA_READ_RETURN. -/
def execDmaReadReturn (n : Nat) (data : List Byte) (cpl : Cpl) (s : State) : Host.Outcome State Fault Refusal :=
  .next (doDmaReadReturn n data cpl s)

/-- The effect of COMPLETION_TIMEOUT: the read of a FLUSH times out, or else the oldest HOST read of a channel; none does while the
timeout is disabled (R350). -/
def doCompletionTimeout (n : Nat) (s : State) : State :=
  if s.pcie.noTimeout then s else match (s.dmaCh n).flush with
  | 0 => s.burstTimeout n
  | 1 => ((s.mxClose 9).cplSeen .timedOut).flushEnd n
  | _ => s

/-- COMPLETION_TIMEOUT. -/
def execCompletionTimeout (n : Nat) (s : State) : Host.Outcome State Fault Refusal := .next (doCompletionTimeout n s)

end Sys2Proof.Machine
end

