-- ==== Sys2Proof/Machine/Dispatch.lean ====
section
/-! DEFINITION. One arm per command: its meaning, or rejection by name. -/

namespace Sys2Proof.Machine

/-- The effect of a command on everything but the queue. -/
def exec (i : Instr) (s : State) : Host.Outcome State Fault Refusal :=
  match i with
  | .registerWrite path off value be ep => Sys2Proof.Machine.execRegisterWrite path off value be ep s
  | .tableWindowWrite path off value be ep => Sys2Proof.Machine.execTableWindowWrite path off value be ep s
  | .rcRead path off => Sys2Proof.Machine.execRcRead path off s
  | .loReadLatch path off => Sys2Proof.Machine.execLoReadLatch path off s
  | .loWriteStage path off value => Sys2Proof.Machine.execLoWriteStage path off value s
  | .hiWriteCommit path off value => Sys2Proof.Machine.execHiWriteCommit path off value s
  | .pgKeyWrite path page value => Sys2Proof.Machine.execPgKeyWrite path page value s
  | .pgLock path page => Sys2Proof.Machine.execPgLock path page s
  | .blockSoftReset path page => Sys2Proof.Machine.execBlockSoftReset path page s
  | .pageFreeze path page on => Sys2Proof.Machine.execPageFreeze path page on s
  | .irqStatClear path page bits => Sys2Proof.Machine.execIrqStatClear path page bits s
  | .pendingMessageSend vector => Sys2Proof.Machine.execPendingMessageSend vector s
  | .arm path page => Sys2Proof.Machine.execArm path page s
  | .cancel path page => Sys2Proof.Machine.execCancel path page s
  | .copyBack path page => Sys2Proof.Machine.execCopyBack path page s
  | .armCheckDone page => Sys2Proof.Machine.execArmCheckDone page s
  | .deviceArmCheck => Sys2Proof.Machine.execDeviceArmCheck s
  | .armApply => Sys2Proof.Machine.execArmApply s
  | .replan => Sys2Proof.Machine.execReplan s
  | .lnkEnable path j => Sys2Proof.Machine.execLnkEnable path j s
  | .lnkDisable path j => Sys2Proof.Machine.execLnkDisable path j s
  | .signalDetect lane => Sys2Proof.Machine.execSignalDetect lane s
  | .capabilityMessage j msg => Sys2Proof.Machine.execCapabilityMessage j msg s
  | .trainingFrame lane frame => Sys2Proof.Machine.execTrainingFrame lane frame s
  | .stepTrainTimeout lane => Sys2Proof.Machine.execStepTrainTimeout lane s
  | .markerGroup j markers status fill => Sys2Proof.Machine.execMarkerGroup j markers status fill s
  | .linkTile j lane fill blocks => Sys2Proof.Machine.execLinkTile j lane fill blocks s
  | .hunt j words => Sys2Proof.Machine.execHunt j words s
  | .strayControlBlock j block => Sys2Proof.Machine.execStrayControlBlock j block s
  | .uncorrectableCodeword lane blocks => Sys2Proof.Machine.execUncorrectableCodeword lane blocks s
  | .elasticOverflow lane => Sys2Proof.Machine.execElasticOverflow lane s
  | .lockLoss lane lock => Sys2Proof.Machine.execLockLoss lane lock s
  | .retrain path j => Sys2Proof.Machine.execRetrain path j s
  | .retrainDone lane result => Sys2Proof.Machine.execRetrainDone lane result s
  | .settingTimeout lane => Sys2Proof.Machine.execSettingTimeout lane s
  | .retry path lane => Sys2Proof.Machine.execRetry path lane s
  | .retryDone lane ok => Sys2Proof.Machine.execRetryDone lane ok s
  | .regrow path j => Sys2Proof.Machine.execRegrow path j s
  | .dormantReq path j => Sys2Proof.Machine.execDormantReq path j s
  | .dormantAckTimeout j => Sys2Proof.Machine.execDormantAckTimeout j s
  | .wakeReq path j => Sys2Proof.Machine.execWakeReq path j s
  | .wakeTone j => Sys2Proof.Machine.execWakeTone j s
  | .wakeTimeout lane => Sys2Proof.Machine.execWakeTimeout lane s
  | .presetSave path lane => Sys2Proof.Machine.execPresetSave path lane s
  | .presetClr path lane => Sys2Proof.Machine.execPresetClr path lane s
  | .frameTick => Sys2Proof.Machine.execFrameTick s
  | .loadSync path => Sys2Proof.Machine.execLoadSync path s
  | .loadNow path => Sys2Proof.Machine.execLoadNow path s
  | .loadCancel path => Sys2Proof.Machine.execLoadCancel path s
  | .nowLoad => Sys2Proof.Machine.execNowLoad s
  | .arrEnable path => Sys2Proof.Machine.execArrEnable path s
  | .arrDisable path => Sys2Proof.Machine.execArrDisable path s
  | .initDone => Sys2Proof.Machine.execInitDone s
  | .tilePlace => Sys2Proof.Machine.execTilePlace s
  | .frameClose => Sys2Proof.Machine.execFrameClose s
  | .slotExpiry => Sys2Proof.Machine.execSlotExpiry s
  | .slotRead frame group chan => Sys2Proof.Machine.execSlotRead frame group chan s
  | .updateInterval interval => Sys2Proof.Machine.execUpdateInterval interval s
  | .chunkStart => Sys2Proof.Machine.execChunkStart s
  | .chunkPair => Sys2Proof.Machine.execChunkPair s
  | .chunkEnd => Sys2Proof.Machine.execChunkEnd s
  | .mereRowWrite fault => Sys2Proof.Machine.execMereRowWrite fault s
  | .mereDescriptorWrite tile => Sys2Proof.Machine.execMereDescriptorWrite tile s
  | .mereDirFillDone => Sys2Proof.Machine.execMereDirFillDone s
  | .passStart => Sys2Proof.Machine.execPassStart s
  | .channelRelease chan => Sys2Proof.Machine.execChannelRelease chan s
  | .mereRead tau group => Sys2Proof.Machine.execMereRead tau group s
  | .planEval path => Sys2Proof.Machine.execPlanEval path s
  | .planEvalDone => Sys2Proof.Machine.execPlanEvalDone s
  | .eval path => Sys2Proof.Machine.execEval path s
  | .evalDone => Sys2Proof.Machine.execEvalDone s
  | .sweepStart stall => Sys2Proof.Machine.execSweepStart stall s
  | .stepStart wait => Sys2Proof.Machine.execStepStart wait s
  | .drainStart engine wait => Sys2Proof.Machine.execDrainStart engine wait s
  | .bufferHandover engine => Sys2Proof.Machine.execBufferHandover engine s
  | .selftest path engine => Sys2Proof.Machine.execSelftest path engine s
  | .selftestDone engine ok => Sys2Proof.Machine.execSelftestDone engine ok s
  | .engineReset path engine => Sys2Proof.Machine.execEngineReset path engine s
  | .collectStart wait => Sys2Proof.Machine.execCollectStart wait s
  | .collectDone => Sys2Proof.Machine.execCollectDone s
  | .bufferCommit wait => Sys2Proof.Machine.execBufferCommit wait s
  | .channelPassAccept cycles => Sys2Proof.Machine.execChannelPassAccept cycles s
  | .finisherChannel => Sys2Proof.Machine.execFinisherChannel s
  | .packetCommit => Sys2Proof.Machine.execPacketCommit s
  | .rptrWrite path value => Sys2Proof.Machine.execRptrWrite path value s
  | .ringReset path => Sys2Proof.Machine.execRingReset path s
  | .weightLoad => Sys2Proof.Machine.execWeightLoad s
  | .weightLoadDone => Sys2Proof.Machine.execWeightLoadDone s
  | .bSwitch engine => Sys2Proof.Machine.execBSwitch engine s
  | .bankSwap engine wait => Sys2Proof.Machine.execBankSwap engine wait s
  | .voltageNotice => Sys2Proof.Machine.execVoltageNotice s
  | .vrelWrite path value => Sys2Proof.Machine.execVrelWrite path value s
  | .tokenTimeout engine => Sys2Proof.Machine.execTokenTimeout engine s
  | .stepTimeout engine => Sys2Proof.Machine.execStepTimeout engine s
  | .failureSign engine sign => Sys2Proof.Machine.execFailureSign engine sign s
  | .fail path group slot => Sys2Proof.Machine.execFail path group slot s
  | .unlock path group slot => Sys2Proof.Machine.execUnlock path group slot s
  | .retest path group slot => Sys2Proof.Machine.execRetest path group slot s
  | .takeover group => Sys2Proof.Machine.execTakeover group s
  | .engineReturn group => Sys2Proof.Machine.execEngineReturn group s
  | .wellFailure b cause => Sys2Proof.Machine.execWellFailure b cause s
  | .wellWatchdogExpiry b => Sys2Proof.Machine.execWellWatchdogExpiry b s
  | .wellTakeback => Sys2Proof.Machine.execWellTakeback s
  | .restart path b => Sys2Proof.Machine.execRestart path b s
  | .test path b => Sys2Proof.Machine.execTest path b s
  | .dramRequest req => Sys2Proof.Machine.execDramRequest req s
  | .dramReadComplete master addr errs => Sys2Proof.Machine.execDramReadComplete master addr errs s
  | .trackExpiry entry => Sys2Proof.Machine.execTrackExpiry entry s
  | .refreshInterval stack => Sys2Proof.Machine.execRefreshInterval stack s
  | .tempChange stack temp => Sys2Proof.Machine.execTempChange stack temp s
  | .dramRetrainTimer => Sys2Proof.Machine.execDramRetrainTimer s
  | .mcRetrain path mc ch => Sys2Proof.Machine.execMcRetrain path mc ch s
  | .dramRetrainDone chan ok => Sys2Proof.Machine.execDramRetrainDone chan ok s
  | .retire path mc ch => Sys2Proof.Machine.execRetire path mc ch s
  | .logPop path mc => Sys2Proof.Machine.execLogPop path mc s
  | .regionWrite path off value => Sys2Proof.Machine.execRegionWrite path off value s
  | .remap path => Sys2Proof.Machine.execRemap path s
  | .remapDone => Sys2Proof.Machine.execRemapDone s
  | .fill path rgn => Sys2Proof.Machine.execFill path rgn s
  | .fillDone => Sys2Proof.Machine.execFillDone s
  | .scrubPassStart => Sys2Proof.Machine.execScrubPassStart s
  | .start path => Sys2Proof.Machine.execStart path s
  | .scrubRead chan bank row word errs raced => Sys2Proof.Machine.execScrubRead chan bank row word errs raced s
  | .softSpare => Sys2Proof.Machine.execSoftSpare s
  | .dmachStart path n => Sys2Proof.Machine.execDmachStart path n s
  | .dmachStop path n => Sys2Proof.Machine.execDmachStop path n s
  | .dmachClear path n => Sys2Proof.Machine.execDmachClear path n s
  | .stopAll path => Sys2Proof.Machine.execStopAll path s
  | .programFetch n data cpl => Sys2Proof.Machine.execProgramFetch n data cpl s
  | .move n => Sys2Proof.Machine.execMove n s
  | .loop n => Sys2Proof.Machine.execLoop n s
  | .wait n host cpl => Sys2Proof.Machine.execWait n host cpl s
  | .waitPoll n host cpl cycles => Sys2Proof.Machine.execWaitPoll n host cpl cycles s
  | .waitTimeout n cycles => Sys2Proof.Machine.execWaitTimeout n cycles s
  | .signal n => Sys2Proof.Machine.execSignal n s
  | .illegal n => Sys2Proof.Machine.execIllegal n s
  | .burstGrant => Sys2Proof.Machine.execBurstGrant s
  | .dmaReadReturn n data cpl => Sys2Proof.Machine.execDmaReadReturn n data cpl s
  | .writeErrorResponse n => Sys2Proof.Machine.execWriteErrorResponse n s
  | .matrixRequest target reqs => Sys2Proof.Machine.execMatrixRequest target reqs s
  | .mspiRstPulse => Sys2Proof.Machine.execMspiRstPulse s
  | .mspiRead addr => Sys2Proof.Machine.execMspiRead addr s
  | .mspiWrite addr value => Sys2Proof.Machine.execMspiWrite addr value s
  | .mspiBadOpcode opcode => Sys2Proof.Machine.execMspiBadOpcode opcode s
  | .mspiCsRise write addr value bits => Sys2Proof.Machine.execMspiCsRise write addr value bits s
  | .configRequest req => Sys2Proof.Machine.execConfigRequest req s
  | .bar2Read off len => Sys2Proof.Machine.execBar2Read off len s
  | .bar2Write off data ep => Sys2Proof.Machine.execBar2Write off data ep s
  | .pcieLinkUp speed width flit reversed => Sys2Proof.Machine.execPcieLinkUp speed width flit reversed s
  | .pcieLinkDown => Sys2Proof.Machine.execPcieLinkDown s
  | .d3hotEntry => Sys2Proof.Machine.execD3hotEntry s
  | .d0Return => Sys2Proof.Machine.execD0Return s
  | .ping path => Sys2Proof.Machine.execPing path s
  | .fwInfo path => Sys2Proof.Machine.execFwInfo path s
  | .nvrRead path => Sys2Proof.Machine.execNvrRead path s
  | .nvrFlush path => Sys2Proof.Machine.execNvrFlush path s
  | .setSubsys path => Sys2Proof.Machine.execSetSubsys path s
  | .fwStage path => Sys2Proof.Machine.execFwStage path s
  | .wellTest path => Sys2Proof.Machine.execWellTest path s
  | .unknownCmd path => Sys2Proof.Machine.execUnknownCmd path s
  | .mbxCommandDone img flashOk => Sys2Proof.Machine.execMbxCommandDone img flashOk s
  | .doeDiscovery index => Sys2Proof.Machine.execDoeDiscovery index s
  | .getVersion => Sys2Proof.Machine.execGetVersion s
  | .getCapabilities => Sys2Proof.Machine.execGetCapabilities s
  | .negotiateAlgorithms => Sys2Proof.Machine.execNegotiateAlgorithms s
  | .getDigests => Sys2Proof.Machine.execGetDigests s
  | .getCertificate slot off len => Sys2Proof.Machine.execGetCertificate slot off len s
  | .challenge slot nonce => Sys2Proof.Machine.execChallenge slot nonce s
  | .getMeasurements index signed nonce => Sys2Proof.Machine.execGetMeasurements index signed nonce s
  | .unsupportedRequest code => Sys2Proof.Machine.execUnsupportedRequest code s
  | .doeAbort => Sys2Proof.Machine.execDoeAbort s
  | .oscLost => Sys2Proof.Machine.execOscLost s
  | .oscReturn => Sys2Proof.Machine.execOscReturn s
  | .oscPullDone => Sys2Proof.Machine.execOscPullDone s
  | .qlSample a b => Sys2Proof.Machine.execQlSample a b s
  | .refMeasurement meas => Sys2Proof.Machine.execRefMeasurement meas s
  | .refActivityLoss r => Sys2Proof.Machine.execRefActivityLoss r s
  | .switchBuildout offset => Sys2Proof.Machine.execSwitchBuildout offset s
  | .switchDone => Sys2Proof.Machine.execSwitchDone s
  | .refPps offset => Sys2Proof.Machine.execRefPps offset s
  | .loopUpdate phase => Sys2Proof.Machine.execLoopUpdate phase s
  | .histSaveTimer => Sys2Proof.Machine.execHistSaveTimer s
  | .histSave path => Sys2Proof.Machine.execHistSave path s
  | .pstepWrite path value => Sys2Proof.Machine.execPstepWrite path value s
  | .pstepCancel path => Sys2Proof.Machine.execPstepCancel path s
  | .realign path => Sys2Proof.Machine.execRealign path s
  | .realignCancel path => Sys2Proof.Machine.execRealignCancel path s
  | .realignEdge => Sys2Proof.Machine.execRealignEdge s
  | .todSecondWrap => Sys2Proof.Machine.execTodSecondWrap s
  | .todNowRead path cycles => Sys2Proof.Machine.execTodNowRead path cycles s
  | .cmpFire n => Sys2Proof.Machine.execCmpFire n s
  | .loadPps path => Sys2Proof.Machine.execLoadPps path s
  | .align path => Sys2Proof.Machine.execAlign path s
  | .todCancel path => Sys2Proof.Machine.execTodCancel path s
  | .noPps => Sys2Proof.Machine.execNoPps s
  | .tuneFault cause => Sys2Proof.Machine.execTuneFault cause s
  | .tuneFaultClear cause => Sys2Proof.Machine.execTuneFaultClear cause s
  | .tuneCodeWrite path value => Sys2Proof.Machine.execTuneCodeWrite path value s
  | .rangeChange path value => Sys2Proof.Machine.execRangeChange path value s
  | .rangeDone => Sys2Proof.Machine.execRangeDone s
  | .domEnWrite path value => Sys2Proof.Machine.execDomEnWrite path value s
  | .domainDone => Sys2Proof.Machine.execDomainDone s
  | .goActive path => Sys2Proof.Machine.execGoActive path s
  | .goIdle path => Sys2Proof.Machine.execGoIdle path s
  | .goStandby path => Sys2Proof.Machine.execGoStandby path s
  | .stateDone => Sys2Proof.Machine.execStateDone s
  | .por => Sys2Proof.Machine.execPor s
  | .perstAssert => Sys2Proof.Machine.execPerstAssert s
  | .perstRelease => Sys2Proof.Machine.execPerstRelease s
  | .hotReset => Sys2Proof.Machine.execHotReset s
  | .flr => Sys2Proof.Machine.execFlr s
  | .bringupStep env => Sys2Proof.Machine.execBringupStep env s
  | .save path => Sys2Proof.Machine.execSave path s
  | .nvrSave => Sys2Proof.Machine.execNvrSave s
  | .nvrSaveDone ok => Sys2Proof.Machine.execNvrSaveDone ok s
  | .open path => Sys2Proof.Machine.execOpen path s
  | .keyEraseDone ok => Sys2Proof.Machine.execKeyEraseDone ok s
  | .avsRetry ack => Sys2Proof.Machine.execAvsRetry ack s
  | .agingMonitor reading ack => Sys2Proof.Machine.execAgingMonitor reading ack s
  | .thermtrip temp => Sys2Proof.Machine.execThermtrip temp s
  | .freezeAll path => Sys2Proof.Machine.execFreezeAll path s
  | .thawAll path => Sys2Proof.Machine.execThawAll path s
  | .check path => Sys2Proof.Machine.execCheck path s
  | .checkDone => Sys2Proof.Machine.execCheckDone s
  | .eventRecord => Sys2Proof.Machine.execEventRecord s
  | .spillCopy => Sys2Proof.Machine.execSpillCopy s
  | .evtRptrWrite path value => Sys2Proof.Machine.execEvtRptrWrite path value s
  | .cdrLock lane => Sys2Proof.Machine.execCdrLock lane s
  | .fecLock lane => Sys2Proof.Machine.execFecLock lane s
  | .correctedCodeword lane symbols => Sys2Proof.Machine.execCorrectedCodeword lane symbols s
  | .wellSelftestDone b ok => Sys2Proof.Machine.execWellSelftestDone b ok s
  | .completionTimeout n => Sys2Proof.Machine.execCompletionTimeout n s
  | .boundaryScan => Sys2Proof.Machine.execBoundaryScan s

end Sys2Proof.Machine
end

