-- ==== Sys2Proof/Safety.lean ====
section
/-! DEFINITION. What counts as a safe run, and the words that claims about a command are written in: an access that is served,
and a frame. -/

namespace Sys2Proof.Machine

/-- The command at the front of the queue (or the idle step) has a meaning and meets no fault. -/
def State.goes (s : State) : Prop := ∃ t, step s = .next t

/-- The device is the one of the state given: its ordering code, its numbers and its fuses. -/
def State.SameDevice (d : Dev) (s : State) : Prop := s.dev = d

/-- A host access on a path reaches the register fabric, and the offset is served (R2, R344, R353, R357, R358). -/
def State.Serves (s : State) (π : Path) (off : Nat) : Prop := s.reaches π = true ∧ s.gate off = .served

/-- The frame of a change from s to t: register fields whose key is not in a set, window words whose offset is not in a set, and
every byte of stacked memory hold what they held. -/
def Frame (s t : State) (reg win : Nat → Prop) : Prop :=
  (∀ f : Fld, ¬ reg f.key → t.fld f = s.fld f) ∧ (∀ o, ¬ win o → t.tab o = s.tab o) ∧ ∀ p, t.dram.byteAt p = s.dram.byteAt p

/-- The units' own state: everything but register fields, window words, events, open marks, latches, outputs and free values
used. -/
def State.units (s : State) : State :=
  { s with regs := [], exts := [], tables := [], evq := [], evLoss := 0, out := [], opened := [], latch := [], staged := [], freeCtr := 0 }

/-- An error recorded once on a page (R375, R376): PG_ERR_CNT advances, and PG_ERR_CODE holds the code where it held none. -/
def Records (s t : State) (p : Page) (code : Nat) : Prop :=
  t.fld (R.PG_ERR_CNT_COUNT p) = (s.fld (R.PG_ERR_CNT_COUNT p) + 1) % 2 ^ 32 ∧
  (s.fld (R.PG_ERR_CODE_VALID p) = 0 → t.fld (R.PG_ERR_CODE_CODE p) = code ∧ t.fld (R.PG_ERR_CODE_VALID p) = 1)

/-- A source event of a page raised (R376). -/
def Raised (t : State) (p : Page) (n : Nat) : Prop := (t.fld (R.PG_IRQ_RAW p)).testBit n = true

/-- The keys of some fields. -/
def Keys (l : List Fld) (k : Nat) : Prop := k ∈ l.map Fld.key

/-- The keys of the registers of a page. -/
def PageKeys (p : Page) (k : Nat) : Prop := p.base ≤ k / 64 ∧ k / 64 < p.base + 0x1000

/-- The keys of the registers of some pages. -/
def InPages (l : List Page) (k : Nat) : Prop := ∃ p ∈ l, PageKeys p k

/-- No window word. -/
def NoWord (_ : Nat) : Prop := False

/-- A turned-away access and nothing else (R356 to R358): its counter `c` advances, LAST_ACCESS holds its offset, its kind, its path and its
direction, and no event is logged. -/
def CountsAccess (s t : State) (c : Fld) (kind : Nat) (π : Path) (off : Nat) (write : Bool) : Prop :=
  t.fld c = (s.fld c + 1) % 2 ^ 32 ∧ t.fld R.ST_LAST_ACCESS_OFFSET = off ∧ t.fld R.ST_LAST_ACCESS_KIND = kind ∧
  t.fld R.ST_LAST_ACCESS_MSPI = (if π = .mspi then 1 else 0) ∧ t.fld R.ST_LAST_ACCESS_WRITE = (if write then 1 else 0) ∧
  Frame s t (Keys [c, R.ST_LAST_ACCESS_OFFSET, R.ST_LAST_ACCESS_KIND, R.ST_LAST_ACCESS_MSPI, R.ST_LAST_ACCESS_WRITE]) NoWord ∧
  t = { s with regs := t.regs, out := t.out }

/-- The words of the MSI-X pending bits (R366): a source event of a page sets one there while its vector is held. -/
def PbaWords (o : Nat) : Prop := 0x3D8000 ≤ o ∧ o < 0x3D8100

/-- The words of the program SRAM (R348). -/
def SramWords (o : Nat) : Prop := 0x1400000 ≤ o ∧ o < 0x1440000

/-- The words of the windows of the switched domains (R378), which a domain that comes on has at their reset values (R405). -/
def DomainWords (o : Nat) : Prop := 0x1000000 ≤ o ∧ o < 0x1400000

/-- The keys of the registers from the memory controllers' pages up (MC, MAP, SCR, DMA, MX, EVT and so on): an access to stacked memory
counts, logs and reports there, and nowhere below. -/
def MemoryUp (k : Nat) : Prop := 0x1C0000 ≤ k / 64

/-- The keys of the registers of some pages, and of those from the memory controllers' pages up. -/
def PagesOrMemory (l : List Page) (k : Nat) : Prop := InPages l k ∨ MemoryUp k

/-- The keys of the registers from the MERE page up: what a command of the correlator may write, its accesses to stacked memory
included. -/
def CorrelatorUp (k : Nat) : Prop := 0xC0000 ≤ k / 64

/-- A place lies in one of the memory words of a stretch of addresses, as a master reaches them (R283, R289). -/
def State.InWords (s : State) (m : Master) (addr len b : Nat) : Prop :=
  ∃ x ∈ wordSpan addr len, ∃ p, s.placeOf m x.1 = some p ∧ p / 32 = b / 32

/-- The keys of the registers from the memory controllers' pages up to the windows, the region map's apart. -/
def MemoryKeys (k : Nat) : Prop := MemoryUp k ∧ k / 64 < 0x1000000 ∧ ¬ PageKeys (pg .map) k

/-- What an access to stacked memory may change: bytes in some words, the memory's own state, the registers of its controllers, of the
scrubber, of the bus matrix and of the event log, the MSI-X pending bits. The region map stays. -/
def MemStep (W : Nat → Prop) (s t : State) : Prop :=
  (∀ f : Fld, ¬ MemoryKeys f.key → t.fld f = s.fld f) ∧ (∀ o, ¬ PbaWords o → t.tab o = s.tab o) ∧
  t.units = { s.units with dram := t.dram } ∧ t.dram.mapped = s.dram.mapped ∧ ∀ b, ¬ W b → t.dram.byteAt b = s.dram.byteAt b

/-- The frame of a change that may store to stacked memory: register fields and window words outside two sets hold what they held. -/
def RegFrame (s t : State) (reg win : Nat → Prop) : Prop :=
  (∀ f : Fld, ¬ reg f.key → t.fld f = s.fld f) ∧ ∀ o, ¬ win o → t.tab o = s.tab o

end Sys2Proof.Machine
end

