-- ==== Sys2Proof/WellFormed.lean ====
section
/-! DEFINITION. Which commands the outside world can send: every operand within the range its register, port or unit gives it. -/

namespace Sys2Proof

/-- A path of the register fabric: a DMA channel 0 to 31 (R318), a Well A or B. -/
def Path.wf : Path → Bool
  | .pcie | .mspi => true
  | .dma n => decide (n < 32)
  | .well b => decide (b < 2)

/-- A page of the BAR0 map (R378). -/
def Page.wf (p : Page) : Bool := decide (p.inst < p.kind.countF)

/-- A symbol error of a 36-symbol word: a symbol that differs. -/
def SymErr.wf (e : SymErr) : Bool := decide (e.symbol < 36) && decide (1 ≤ e.pattern ∧ e.pattern < 256)

/-- A MARKER block's fields (R60). -/
def Marker.wf (m : Marker) : Bool := decide (m.lane < 64) && decide (m.width < 8) && decide (m.count < 65536)

/-- A block has 32 bytes (R57). -/
def Block.wf (b : Block) : Bool := decide (b.bytes.length = 32)

/-- A training frame: two-bit tap requests, a three-bit preset, taps of five bits (R50, R51). -/
def TrainFrame.wf (f : TrainFrame) : Bool := decide (f.reqPre < 4) && decide (f.reqPost < 4) && decide (f.preset < 8)
  && decide (f.peerPre < 32) && decide (f.peerPost < 32)

/-- A STATUS block: a four-bit link state, a three-bit quality level, a 16-bit map, a filler group of a byte (R62). -/
def LinkStatus.wf (t : LinkStatus) : Bool := decide (t.linkState < 16) && decide (t.ql < 8) && decide (t.retrainMap < 65536)
  && decide (t.fillGroup < 256)

/-- An S1 capability message's fields (R52). -/
def CapMsg.wf (m : CapMsg) : Bool := decide (m.version < 256) && decide (m.maxStep < 8) && decide (m.precodeReq < 65536)

/-- A request at a master port of the matrix (R339). -/
def MxReq.wf (q : MxReq) : Bool := decide (q.port < 8)

/-- A DRAM request names a 40-bit address and at least one byte. -/
def DramReq.wf (q : DramReq) : Bool := decide (q.addr < 2 ^ 40) && (if q.write then !q.data.isEmpty else decide (1 ≤ q.len))

/-- A configuration request: a function number 0 to 7 and a 32-bit value. -/
def CfgReq.wf (q : CfgReq) : Bool := decide (q.function < 8) && decide (q.value < 2 ^ 32)

/-- A command is well-formed. -/
def Instr.wf (i : Instr) : Bool :=
  match i with
  | .registerWrite path off value be _ => path.wf && decide (off < 2 ^ 26) && decide (value < 2 ^ 32) && decide (be < 16)
  | .tableWindowWrite path off value be _ => path.wf && decide (off < 2 ^ 26) && decide (value < 2 ^ 32) && decide (be < 16)
  | .rcRead path off => path.wf && decide (off < 2 ^ 26)
  | .loReadLatch path off => path.wf && decide (off < 2 ^ 26)
  | .loWriteStage path off value => path.wf && decide (off < 2 ^ 26) && decide (value < 2 ^ 32)
  | .hiWriteCommit path off value => path.wf && decide (off < 2 ^ 26) && decide (value < 2 ^ 32)
  | .pgKeyWrite path page value => path.wf && page.wf && decide (value < 2 ^ 32)
  | .pgLock path page => path.wf && page.wf
  | .blockSoftReset path page => path.wf && page.wf
  | .pageFreeze path page _ => path.wf && page.wf
  | .irqStatClear path page bits => path.wf && page.wf && decide (bits < 2 ^ 32)
  | .pendingMessageSend vector => decide (vector < 2048)
  | .arm path page => path.wf && page.wf
  | .cancel path page => path.wf && page.wf
  | .copyBack path page => path.wf && page.wf
  | .armCheckDone page => page.wf
  | .deviceArmCheck => true
  | .armApply => true
  | .replan => true
  | .lnkEnable path j => path.wf && decide (j < 64)
  | .lnkDisable path j => path.wf && decide (j < 64)
  | .signalDetect lane => decide (lane < 64)
  | .capabilityMessage j msg => decide (j < 64) && msg.wf
  | .trainingFrame lane frame => decide (lane < 64) && frame.wf
  | .stepTrainTimeout lane => decide (lane < 64)
  | .markerGroup j markers status _ => decide (j < 64) && markers.all Marker.wf && status.wf
  | .linkTile j lane lvl blocks => decide (j < 64) && decide (lane < 64) && decide (lvl ≤ 128) && blocks.all Block.wf
  | .hunt j _ => decide (j < 64)
  | .strayControlBlock j block => decide (j < 64) && block.wf && !block.data
  | .uncorrectableCodeword lane blocks => decide (lane < 64) && decide (blocks ≤ 20)
  | .elasticOverflow lane => decide (lane < 64)
  | .lockLoss lane _ => decide (lane < 64)
  | .retrain path j => path.wf && decide (j < 64)
  | .retrainDone lane result => decide (lane < 64) && decide (result.works.length ≤ 6)
  | .settingTimeout lane => decide (lane < 64)
  | .retry path lane => path.wf && decide (lane < 64)
  | .retryDone lane _ => decide (lane < 64)
  | .regrow path j => path.wf && decide (j < 64)
  | .dormantReq path j => path.wf && decide (j < 64)
  | .dormantAckTimeout j => decide (j < 64)
  | .wakeReq path j => path.wf && decide (j < 64)
  | .wakeTone j => decide (j < 64)
  | .wakeTimeout lane => decide (lane < 64)
  | .presetSave path lane => path.wf && decide (lane < 64)
  | .presetClr path lane => path.wf && decide (lane < 64)
  | .frameTick => true
  | .loadSync path => path.wf
  | .loadNow path => path.wf
  | .loadCancel path => path.wf
  | .nowLoad => true
  | .arrEnable path => path.wf
  | .arrDisable path => path.wf
  | .initDone => true
  | .tilePlace => true
  | .frameClose => true
  | .slotExpiry => true
  | .slotRead frame group chan => decide (frame < 2 ^ 48) && decide (group < 64) && decide (chan < 4096)
  | .updateInterval _ => true
  | .chunkStart => true
  | .chunkPair => true
  | .chunkEnd => true
  | .mereRowWrite _ => true
  | .mereDescriptorWrite _ => true
  | .mereDirFillDone => true
  | .passStart => true
  | .channelRelease chan => decide (chan < 4096)
  | .mereRead _ group => decide (group < 64)
  | .planEval path => path.wf
  | .planEvalDone => true
  | .eval path => path.wf
  | .evalDone => true
  | .sweepStart _ => true
  | .stepStart _ => true
  | .drainStart engine _ => decide (engine < 72)
  | .bufferHandover engine => decide (engine < 72)
  | .selftest path engine => path.wf && decide (engine < 72)
  | .selftestDone engine _ => decide (engine < 72)
  | .engineReset path engine => path.wf && decide (engine < 72)
  | .collectStart _ => true
  | .collectDone => true
  | .bufferCommit _ => true
  | .channelPassAccept _ => true
  | .finisherChannel => true
  | .packetCommit => true
  | .rptrWrite path value => path.wf && decide (value < 2 ^ 48)
  | .ringReset path => path.wf
  | .weightLoad => true
  | .weightLoadDone => true
  | .bSwitch engine => decide (engine < 72)
  | .bankSwap engine _ => decide (engine < 72)
  | .voltageNotice => true
  | .vrelWrite path value => path.wf && decide (value < 2 ^ 32)
  | .tokenTimeout engine => decide (engine < 72)
  | .stepTimeout engine => decide (engine < 72)
  | .failureSign engine sign => decide (engine < 72) && decide (1 ≤ sign ∧ sign ≤ 7)
  | .fail path group slot => path.wf && decide (group < 8) && decide (slot < 9)
  | .unlock path group slot => path.wf && decide (group < 8) && decide (slot < 9)
  | .retest path group slot => path.wf && decide (group < 8) && decide (slot < 9)
  | .takeover group => decide (group < 8)
  | .engineReturn group => decide (group < 8)
  | .wellFailure b _ => decide (b < 2)
  | .wellWatchdogExpiry b => decide (b < 2)
  | .wellTakeback => true
  | .restart path b => path.wf && decide (b < 2)
  | .test path b => path.wf && decide (b < 2)
  | .dramRequest req => req.wf
  | .dramReadComplete _ addr errs => decide (addr < 2 ^ 40) && errs.all SymErr.wf
  | .trackExpiry entry => decide (entry < 64)
  | .refreshInterval stack => decide (stack < 4)
  | .tempChange stack _ => decide (stack < 4)
  | .dramRetrainTimer => true
  | .mcRetrain path mc ch => path.wf && decide (mc < 8) && decide (ch < 8)
  | .dramRetrainDone chan _ => decide (chan < 64)
  | .retire path mc ch => path.wf && decide (mc < 8) && decide (ch < 8)
  | .logPop path mc => path.wf && decide (mc < 8)
  | .regionWrite path off value => path.wf && decide (off < 2 ^ 26) && decide (value < 2 ^ 32)
  | .remap path => path.wf
  | .remapDone => true
  | .fill path rgn => path.wf && decide (rgn < 8)
  | .fillDone => true
  | .scrubPassStart => true
  | .start path => path.wf
  | .scrubRead chan bank row word errs _ => decide (chan < 64) && decide (bank < 16) && decide (row < 65536) && decide (word < 64) && errs.all SymErr.wf
  | .softSpare => true
  | .dmachStart path n => path.wf && decide (n < 32)
  | .dmachStop path n => path.wf && decide (n < 32)
  | .dmachClear path n => path.wf && decide (n < 32)
  | .stopAll path => path.wf
  | .programFetch n _ _ => decide (n < 32)
  | .move n => decide (n < 32)
  | .loop n => decide (n < 32)
  | .wait n _ _ => decide (n < 32)
  | .waitPoll n _ _ _ => decide (n < 32)
  | .waitTimeout n _ => decide (n < 32)
  | .signal n => decide (n < 32)
  | .illegal n => decide (n < 32)
  | .burstGrant => true
  | .dmaReadReturn n _ _ => decide (n < 32)
  | .writeErrorResponse n => decide (n < 32)
  | .matrixRequest target reqs => decide (target < 12) && reqs.all MxReq.wf
  | .mspiRstPulse => true
  | .mspiRead addr => decide (addr < 2 ^ 32)
  | .mspiWrite addr value => decide (addr < 2 ^ 32) && decide (value < 2 ^ 32)
  | .mspiBadOpcode opcode => decide (opcode < 256) && opcode != 2 && opcode != 3
  | .mspiCsRise _ addr value bits => decide (addr < 2 ^ 32) && decide (value < 2 ^ 32) && decide (bits < 80)
  | .configRequest req => req.wf
  | .bar2Read off len => decide (off < 2 ^ 37) && decide (1 ≤ len ∧ len ≤ 4096)
  | .bar2Write off data _ => decide (off < 2 ^ 37) && decide (data.length ≤ 512)
  | .pcieLinkUp speed width _ _ => decide (1 ≤ speed ∧ speed ≤ 6) && decide (width ∈ [1, 2, 4, 8, 16])
  | .pcieLinkDown => true
  | .d3hotEntry => true
  | .d0Return => true
  | .ping path => path.wf
  | .fwInfo path => path.wf
  | .nvrRead path => path.wf
  | .nvrFlush path => path.wf
  | .setSubsys path => path.wf
  | .fwStage path => path.wf
  | .wellTest path => path.wf
  | .unknownCmd path => path.wf
  | .mbxCommandDone _ _ => true
  | .doeDiscovery _ => true
  | .getVersion => true
  | .getCapabilities => true
  | .negotiateAlgorithms => true
  | .getDigests => true
  | .getCertificate slot off len => decide (slot < 8) && decide (off < 65536) && decide (len < 65536)
  | .challenge slot _ => decide (slot < 8)
  | .getMeasurements _ _ _ => true
  | .unsupportedRequest code => decide (code < 256)
  | .doeAbort => true
  | .oscLost => true
  | .oscReturn => true
  | .oscPullDone => true
  | .qlSample a b => decide (a < 8) && decide (b < 8)
  | .refMeasurement _ => true
  | .refActivityLoss r => decide (r < 3)
  | .switchBuildout _ => true
  | .switchDone => true
  | .refPps _ => true
  | .loopUpdate _ => true
  | .histSaveTimer => true
  | .histSave path => path.wf
  | .pstepWrite path value => path.wf && decide (value < 2 ^ 32)
  | .pstepCancel path => path.wf
  | .realign path => path.wf
  | .realignCancel path => path.wf
  | .realignEdge => true
  | .todSecondWrap => true
  | .todNowRead path _ => path.wf
  | .cmpFire n => decide (n < 2)
  | .loadPps path => path.wf
  | .align path => path.wf
  | .todCancel path => path.wf
  | .noPps => true
  | .tuneFault cause => decide (1 ≤ cause)
  | .tuneFaultClear cause => decide (1 ≤ cause)
  | .tuneCodeWrite path value => path.wf && decide (value < 2 ^ 32)
  | .rangeChange path value => path.wf && decide (value < 2 ^ 32)
  | .rangeDone => true
  | .domEnWrite path value => path.wf && decide (value < 2 ^ 32)
  | .domainDone => true
  | .goActive path => path.wf
  | .goIdle path => path.wf
  | .goStandby path => path.wf
  | .stateDone => true
  | .por => true
  | .perstAssert => true
  | .perstRelease => true
  | .hotReset => true
  | .flr => true
  | .bringupStep _ => true
  | .save path => path.wf
  | .nvrSave => true
  | .nvrSaveDone _ => true
  | .open path => path.wf
  | .keyEraseDone _ => true
  | .avsRetry _ => true
  | .agingMonitor _ _ => true
  | .thermtrip _ => true
  | .freezeAll path => path.wf
  | .thawAll path => path.wf
  | .check path => path.wf
  | .checkDone => true
  | .eventRecord => true
  | .spillCopy => true
  | .evtRptrWrite path value => path.wf && decide (value < 2 ^ 32)
  | .cdrLock lane => decide (lane < 64)
  | .fecLock lane => decide (lane < 64)
  | .correctedCodeword lane symbols => decide (lane < 64) && decide (1 ≤ symbols ∧ symbols ≤ 15)
  | .wellSelftestDone b _ => decide (b < 2)
  | .completionTimeout n => decide (n < 32)
  | .boundaryScan => true

end Sys2Proof
end

