-- ==== Sys2Proof/Certificates/Slice0/Obligations.lean ====
section
/-! DEFINITION. What is claimed of the model, for the provers. -/

open Sys2Proof Sys2Proof.Machine

/-- In State.reset nothing waits, nothing has left the device, no event is queued, no page is open or latched, no memory
byte is listed and the memory is canonical; every register field holds the reset value of its table (a field the
tables give none for holds 0, log entries named in NOTES.md); the boot step completed is 1 (R417), READY is 0, every
MSI-X vector is masked by its Mask bit, and PG_ID names each page's type. -/
def Obligations.ResetState : Prop :=
  State.reset.pending = [] ∧ State.reset.out = [] ∧ State.reset.evq = [] ∧ State.reset.opened = [] ∧ State.reset.latch = [] ∧
    State.reset.staged = [] ∧ Memory.wf State.reset.dram = true ∧ (∀ f : Fld, State.reset.fld f = resetOf State.reset.dev f) ∧
    State.reset.fld R.ST_STATE_STEP = 1 ∧ State.reset.ready = false ∧
    (∀ v < 2048, State.reset.tab (0x3D0000 + 16 * v + 12) = 1 ∧ State.reset.tab (0x3D0000 + 16 * v) = 0) ∧
    (∀ p : Page, p.inst < p.kind.countF → State.reset.fld (R.PG_ID_TYPE p) = p.kind.type)

/-- The invariant of MemoryStaysCanonical holds of the state after POR: the written-byte list is strictly rising with no
entry equal to what an unlisted byte reads as. No byte holds a value before a write or a fill reaches it: a read of
one takes a free value (the log entry on memory contents after power-on in NOTES.md). -/
def Obligations.MemoryCanonicalAtReset : Prop :=
  Memory.wf State.reset.dram = true ∧ ∀ p : Nat, State.reset.dram.byteAt p = none

/-- For every state whose stacked memory is in canonical form (written bytes strictly rising by address, none equal to
what an unlisted byte reads as), whatever command is at the front of the queue, if the step answers a next state, the
memory of that state is in canonical form, so equal memories are equal data. -/
def Obligations.MemoryStaysCanonical : Prop :=
  ∀ s t : State, Memory.wf s.dram = true → step s = .next t → Memory.wf t.dram = true

/-- For every state and every command: if the step answers a next state, the ordering code, stepping, serial number and
fuses are those of the state before (R1, R2: the ordering code is fixed), everything that had left the device is still
recorded below what the step adds, the waiting commands are the queue without its front, and the count of free values
used never falls. -/
def Obligations.StepKeepsDeviceAndOutputs : Prop :=
  ∀ s t : State, step s = .next t → t.dev = s.dev ∧ s.out <:+ t.out ∧ t.pending = s.pending.tail ∧ s.freeCtr ≤ t.freeCtr

/-- For every state and every command c: with c at the front of the queue, step is exec of c on the state with the queue's
rest. With an empty queue the block idles, which is the model's choice (log entry 2). -/
def Obligations.StepTakesFrontCommand : Prop :=
  (∀ (c : Instr) (rest : List Instr) (s : State), s.pending = c :: rest → step s = exec c { s with pending := rest }) ∧
    ∀ s : State, s.pending = [] → step s = .next s

/-- REGISTER_WRITE (R8, R9): a served write, not poisoned, with all byte enables, to a register of a page that is no
command, no pair, no header register but PG_SCRATCH, and not held, answers a next state where each field holds its
access code's value: RW the bits written, RWL the bits written while open and the old value otherwise, W1C old without
the ones written, W1S old with them, RO, RC, WO and SC the old value. The fields of the row alone change, no window
word and no memory byte; the page closes on the path. TRN0.CFG and the registers of TRN1, whose writes can also select
references, are stated in CommandWrites. -/
def Obligations.RegisterWriteByAccessCode : Prop :=
  ∀ (π : Path) (p : Page) (off v be : Nat) (ep : Bool) (b : Nat) (r : RegDesc) (s : State),
    s.Serves π off → off % 4 = 0 → off < 2 ^ 26 → pageAt off = some p → be % 16 = 15 → (ep = false ∨ π ≠ .pcie) →
    p.base ≤ off → regRow p.kind (off - p.base) = some (b, r) → r.pair = false → b + r.off = off - p.base →
    (headerEnd ≤ off - p.base ∨ off - p.base = 0x2C) →
    ¬ (p.kind = .map ∧ 0x80 ≤ off - p.base ∧ off - p.base < 0x100) → (p.kind = .trn0 → off - p.base ≠ 0x44) → p.kind ≠ .trn1 →
    s.shadowHeld p (off - p.base) = false → s.cfgHeld p (off - p.base) = false →
    (headerEnd ≤ off - p.base → command π p (off - p.base) (v % m32) = none) → (r.fields.map (·.lo)).Nodup →
    (∀ x ∈ r.fields, x.lo < 64) →
    ∃ t, exec (.registerWrite π off v be ep) s = .next t ∧
      (∀ x ∈ r.fields, ∀ i < x.w, (t.fld ⟨off, x.lo, x.w⟩).testBit i =
        (let old := (s.fld ⟨off, x.lo, x.w⟩).testBit i
         let new := (v % m32).testBit (x.lo + i)
         match x.acc with
         | .rw => new
         | .rwl => if s.rwlOpen π p then new else old
         | .w1c => old && !new
         | .w1s => old || new
         | .ro | .wo | .sc | .rc => old)) ∧
      Frame s t (fun k => ∃ x ∈ r.fields, k = (⟨off, x.lo, x.w⟩ : Fld).key) NoWord ∧
      pathKey π p.base ∉ t.opened ∧ t = { s with regs := t.regs, opened := t.opened }

/-- A read or a write of an aligned BAR0 dword on the PCIe or the management SPI path that is turned away completes, and a
read returns 0. At an offset of no page, window or MSI-X structure while READY is 1 (R358): UNMAPPED_CNT. Before READY
at any offset but an early page's and the MSI-X structures', and at an offset 0x40 or more of a page, or a window, of
a domain that is off (R357, R359): BLOCKED_CNT. A write of a page with a byte enable missing (R356): PARTIAL_CNT. Each
of these also fills LAST_ACCESS, and no other field, no window word, no memory byte and no event changes. At a page
the ordering code lacks nothing changes (R2). A poisoned PCIe write (R363) changes no register it names: EP_RX
advances, error 0x10 is recorded and irq 2 raised. A write of a shadow register while an arm of its page is CHECKING
or PENDING sets SHADOW_BLOCKED alone (R30), and one of a register its block holds sets CFG_BLOCKED of that block (for
the channeliser with error 0x12 and irq 3). -/
def Obligations.AccessesTurnedAway : Prop :=
  (∀ (π : Path) (off v be : Nat) (s : State), (π = .pcie ∨ π = .mspi) → s.reaches π = true → off < 2 ^ 26 → off % 4 = 0 →
    isMsix off = false → ∀ (c : Instr) (w : Bool),
    ((c = .rcRead π off ∨ c = .loReadLatch π off) ∧ w = false ∨
      (c = .registerWrite π off v be false ∨ c = .tableWindowWrite π off v be false ∨ c = .loWriteStage π off v ∨
        c = .hiWriteCommit π off v) ∧ w = true) →
    (s.ready = true → zeroPage off = false → pageAt off = none → windowDomain off = none →
      ∃ t, exec c s = .next t ∧ CountsAccess s t R.ST_UNMAPPED_CNT_COUNT 1 π off w ∧
        t.out = (if w = true ∨ (π = .pcie ∧ s.pcie.up = false) then s.out else .rd π 0 :: s.out)) ∧
    ((s.ready = false ∧ (zeroPage off = true ∨ pageAt off = none)) ∨
        (zeroPage off = false ∧ pageAt off = none ∧ ∃ d, windowDomain off = some d ∧ s.domOn d = false) ∨
        (zeroPage off = false ∧ ∃ p, pageAt off = some p ∧ s.has p = true ∧
          (s.ready = false ∧ s.early p = false ∨ s.domOn p.domain = false ∧ headerEnd ≤ off - p.base)) →
      ∃ t, exec c s = .next t ∧ CountsAccess s t R.ST_BLOCKED_CNT_COUNT 0 π off w ∧
        t.out = (if w = true ∨ (π = .pcie ∧ s.pcie.up = false) then s.out else .rd π 0 :: s.out)) ∧
    (zeroPage off = false → (∃ p, pageAt off = some p ∧ s.has p = false) →
      exec c s = .next { s with out := if w = true ∨ (π = .pcie ∧ s.pcie.up = false) then s.out else .rd π 0 :: s.out })) ∧
  (∀ (π : Path) (p : Page) (off v be : Nat) (ep : Bool) (s : State), s.Serves π off → off % 4 = 0 → off < 2 ^ 26 →
    pageAt off = some p → be % 16 ≠ 15 → (ep = false ∨ π ≠ .pcie) →
    ∃ t, exec (.registerWrite π off v be ep) s = .next t ∧ CountsAccess s t R.ST_PARTIAL_CNT_COUNT 2 π off true ∧ t.out = s.out) ∧
  (∀ (off v be : Nat) (s : State), s.reaches .pcie = true → off < 2 ^ 26 →
    ∀ c : Instr, (c = .registerWrite .pcie off v be true ∨ c = .tableWindowWrite .pcie off v be true) →
    ∃ t, exec c s = .next t ∧ t.fld R.PCIE_EP_RX = (s.fld R.PCIE_EP_RX + 1) % 2 ^ R.PCIE_EP_RX.w ∧
      t.fld R.PCIE_EVT_EP_RX = 1 ∧ Records s t pciePg 0x10 ∧ Raised t pciePg 2 ∧ Frame s t (InPages [pciePg, evtPg]) PbaWords ∧
      t.units = { s.units with pcie := t.pcie }) ∧
  (∀ (π : Path) (p : Page) (off v be : Nat) (ep : Bool) (b : Nat) (r : RegDesc) (s : State),
    s.Serves π off → off % 4 = 0 → off < 2 ^ 26 → pageAt off = some p → be % 16 = 15 → (ep = false ∨ π ≠ .pcie) →
    headerEnd ≤ off - p.base → ¬ (p.kind = .map ∧ 0x80 ≤ off - p.base ∧ off - p.base < 0x100) →
    regRow p.kind (off - p.base) = some (b, r) → b + r.off = off - p.base →
    (s.shadowHeld p (off - p.base) = true → ∃ t, exec (.registerWrite π off v be ep) s = .next t ∧
      (∀ a, armBase p = some a → t.fld (R.ARM_STATUS_SHADOW_BLOCKED a) = 1) ∧
      Frame s t (fun k => ∃ a, armBase p = some a ∧ k = (R.ARM_STATUS_SHADOW_BLOCKED a).key) NoWord ∧
      t = { s with regs := t.regs, opened := t.opened }) ∧
    (s.shadowHeld p (off - p.base) = false → s.cfgHeld p (off - p.base) = true →
      ∃ t, exec (.registerWrite π off v be ep) s = .next t ∧
      (p.kind ≠ .chn0 → Frame s t (Keys [match p.kind with
          | .lnk => R.LNK_STAT_CFG_BLOCKED p.inst | .arr => R.ARR_STAT_CFG_BLOCKED | .bm => R.BM_STAT_CFG_BLOCKED
          | .bas => R.BAS_STAT_CFG_BLOCKED | _ => R.DMACH_STAT_CFG_BLOCKED p.inst]) NoWord ∧
        t = { s with regs := t.regs, opened := t.opened }) ∧
      (p.kind = .lnk → t.fld (R.LNK_STAT_CFG_BLOCKED p.inst) = 1) ∧ (p.kind = .arr → t.fld R.ARR_STAT_CFG_BLOCKED = 1) ∧
      (p.kind = .bm → t.fld R.BM_STAT_CFG_BLOCKED = 1) ∧ (p.kind = .bas → t.fld R.BAS_STAT_CFG_BLOCKED = 1) ∧
      (p.kind = .dmach → t.fld (R.DMACH_STAT_CFG_BLOCKED p.inst) = 1) ∧
      (p.kind = .chn0 → t.fld R.CHN1_STAT_CFG_BLOCKED = 1 ∧ Records s t (pg .chn1) 0x12 ∧ Raised t (pg .chn1) 3 ∧
        Frame s t (InPages [pg .chn1, evtPg]) PbaWords ∧ t.units = s.units)))

/-- TABLE_WINDOW_WRITE (R356): a served write of an aligned word of a table window, not poisoned. Shadow windows (delay,
arrival, channeliser, Basin and beam tables): while no arm of the window's page is CHECKING or PENDING, each enabled
byte is merged into the entry word, the other bytes keep their value, and bits that the entry does not hold read 0;
while an arm holds the window the word is unchanged and SHADOW_BLOCKED of the page is set (R30). The program SRAM
(R348) and the MSI-X table (R364; the reserved address bits and all but the mask of vector control read 0) merge
likewise, and a whole word written to the SRAM clears its poison. A coefficient bank (R128) takes 18 bits, extended
over the upper bits, unless CHN0.CFG.COEF_BANK selects it: then nothing is written, and CFG_BLOCKED, error 0x12 and
irq 3 of CHN1 are raised. Any other window (the active copies, the counters) drops the write. Nothing else changes. -/
def Obligations.TableWindowWriteMergesBytes : Prop :=
  (∀ (π : Path) (off v be : Nat) (w : Win) (s : State), s.Serves π off → off % 4 = 0 → off < 2 ^ 26 → pageAt off = none →
    winAt off = some w →
    (s.armBusy (pg w.kind) = false → ∃ t, exec (.tableWindowWrite π off v be false) s = .next t ∧
      (∀ n < 32, (t.tab off).testBit n =
        ((if be.testBit (n / 8) then v.testBit n else (s.tab off).testBit n) && w.mask.testBit n)) ∧
      Frame s t (fun _ => False) (· = off) ∧ t = { s with tables := t.tables }) ∧
    (s.armBusy (pg w.kind) = true → ∃ t, exec (.tableWindowWrite π off v be false) s = .next t ∧
      (∀ b, armBase (pg w.kind) = some b → t.fld (R.ARM_STATUS_SHADOW_BLOCKED b) = 1) ∧
      Frame s t (fun k => ∃ b, armBase (pg w.kind) = some b ∧ k = (R.ARM_STATUS_SHADOW_BLOCKED b).key) NoWord ∧
      t = { s with regs := t.regs })) ∧
  (∀ (π : Path) (off v be : Nat) (s : State), s.Serves π off → off % 4 = 0 → pageAt off = none → be < 16 →
    ((0x1400000 ≤ off ∧ off < 0x1440000) → ∃ t, exec (.tableWindowWrite π off v be false) s = .next t ∧
      (∀ n < 32, (t.tab off).testBit n = if be.testBit (n / 8) then v.testBit n else (s.tab off).testBit n) ∧
      Frame s t (fun _ => False) (· = off) ∧
      t = { s with tables := t.tables, tabPoison := if be = 15 then s.tabPoison.filter (· != off) else s.tabPoison }) ∧
    ((0x3D0000 ≤ off ∧ off < 0x3D8000) → ∃ t, exec (.tableWindowWrite π off v be false) s = .next t ∧
      (∀ n < 32, (t.tab off).testBit n = ((if be.testBit (n / 8) then v.testBit n else (s.tab off).testBit n) &&
        (if off % 16 = 0 then decide (2 ≤ n) else if off % 16 = 12 then decide (n = 0) else true))) ∧
      Frame s t (fun _ => False) (· = off) ∧ t = { s with tables := t.tables }) ∧
    ((0x1100000 ≤ off ∧ off < 0x1180000) → s.fld R.CHN0_CFG_COEF_BANK ≠ (off - 0x1100000) / 0x40000 →
      ∃ t, exec (.tableWindowWrite π off v be false) s = .next t ∧
      (∀ n < 32, (t.tab off).testBit n =
        (let m := min n 17; if be.testBit (m / 8) then v.testBit m else (s.tab off).testBit m)) ∧
      Frame s t (fun _ => False) (· = off) ∧ t = { s with tables := t.tables }) ∧
    ((0x1100000 ≤ off ∧ off < 0x1180000) → s.fld R.CHN0_CFG_COEF_BANK = (off - 0x1100000) / 0x40000 →
      ∃ t, exec (.tableWindowWrite π off v be false) s = .next t ∧
      t.fld R.CHN1_STAT_CFG_BLOCKED = 1 ∧ Records s t (pg .chn1) 0x12 ∧ Raised t (pg .chn1) 3 ∧
      Frame s t (InPages [pg .chn1, evtPg]) PbaWords ∧ t.units = s.units) ∧
    (0x1000000 ≤ off → off < 2 ^ 26 → ¬ (0x1400000 ≤ off ∧ off < 0x1440000) → ¬ (0x1100000 ≤ off ∧ off < 0x1180000) → winAt off = none →
      exec (.tableWindowWrite π off v be false) s = .next s))

/-- LO_WRITE_STAGE and HI_WRITE_COMMIT (R6, R8, R471): for a served, writable 64-bit pair of block registers that nothing
holds (BAS.RPTR and the region registers are stated in CommandWrites): a write of _LO answers a next state where the
value is staged for that path and pair, replacing what was staged, and no register field, window word or memory byte
changes. A write of _HI answers a next state where each field holds its access code's value of both halves, the low
half being the staged one, or the register's own where nothing is staged; the staging register is then empty and
nothing else of the registers changes. -/
def Obligations.PairWritesTakeEffectTogether : Prop :=
  ∀ (π : Path) (p : Page) (off v b : Nat) (r : RegDesc) (s : State), off % 4 = 0 → off + 4 < 2 ^ 26 → p.base ≤ off →
    r.pair = true → b + r.off = off - p.base → headerEnd ≤ off - p.base → (p.kind = .map → 0x100 ≤ off - p.base) →
    (p.kind = .bas → off - p.base ≠ 0x90) →
    s.shadowHeld p (off - p.base) = false → s.cfgHeld p (off - p.base) = false → (r.fields.map (·.lo)).Nodup →
    (∀ x ∈ r.fields, x.lo < 64) →
    (s.Serves π off → pageAt off = some p → regRow p.kind (off - p.base) = some (b, r) →
      ∃ t, exec (.loWriteStage π off v) s = .next t ∧ t.stagedLo π off = some (v % m32) ∧
        Frame s t (fun _ => False) NoWord ∧ t = { s with staged := t.staged, opened := t.opened }) ∧
    (s.Serves π (off + 4) → pageAt (off + 4) = some p → regRow p.kind (off + 4 - p.base) = some (b, r) →
      ∃ t, exec (.hiWriteCommit π (off + 4) v) s = .next t ∧
        (∀ x ∈ r.fields, ∀ i < x.w, (t.fld ⟨off, x.lo, x.w⟩).testBit i =
          (let old := (s.fld ⟨off, x.lo, x.w⟩).testBit i
           let low := match s.stagedLo π off with | some l => l | none => s.regValue off % m32
           let new := (low + m32 * (v % m32)).testBit (x.lo + i)
           match x.acc with
           | .rw => new
           | .rwl => if s.rwlOpen π p then new else old
           | .w1c => old && !new
           | .w1s => old || new
           | .ro | .wo | .sc | .rc => old)) ∧
        t.stagedLo π off = none ∧
        Frame s t (fun k => ∃ x ∈ r.fields, k = (⟨off, x.lo, x.w⟩ : Fld).key) NoWord ∧
        t = { s with regs := t.regs, staged := t.staged, opened := t.opened })

/-- RC_READ and LO_READ_LATCH (R5, R8, R469), for a served read of a page register, with the answer leaving on its path (a
PCIe answer is discarded while the link is down, R352): RC_READ of a 32-bit register answers its field values; every
RC field of it then holds 0 and is empty, and no other register field, window word or memory byte changes.
LO_READ_LATCH answers the low half of the pair and keeps the high half in the latch of that path and pair; a later
RC_READ of _HI on that path answers the latch (0 where nothing was latched) and changes no register. -/
def Obligations.ReadsLatchAndClear : Prop :=
  ∀ (π : Path) (p : Page) (off b : Nat) (r : RegDesc) (s : State), off % 4 = 0 → off + 4 < 2 ^ 26 → p.base ≤ off →
    b + r.off = off - p.base → (π = .pcie → s.pcie.up = true) → (p.kind = .tod → off - p.base ≠ 0x4C) →
    (s.Serves π off → pageAt off = some p → regRow p.kind (off - p.base) = some (b, r) → r.pair = false →
      ∃ t, exec (.rcRead π off) s = .next t ∧
        t.out = .rd π ((r.fields.map (fun x => s.readField π p (off - p.base) r x * 2 ^ x.lo)).sum % m32) :: s.out ∧
        (∀ x ∈ r.fields, x.acc = .rc → t.fld ⟨off, x.lo, x.w⟩ = 0 ∧ (⟨off, x.lo, x.w⟩ : Fld).key ∉ t.exts) ∧
        Frame s t (fun k => ∃ x ∈ r.fields, x.acc = .rc ∧ k = (⟨off, x.lo, x.w⟩ : Fld).key) NoWord ∧
        t = { s with regs := t.regs, exts := t.exts, out := t.out }) ∧
    (s.Serves π off → pageAt off = some p → regRow p.kind (off - p.base) = some (b, r) → r.pair = true →
      ∃ t, exec (.loReadLatch π off) s = .next t ∧
        t.out = .rd π ((r.fields.map (fun x => s.readField π p (off - p.base) r x * 2 ^ x.lo)).sum % m32) :: s.out ∧
        t.latch.get 0 (pathKey π off) =
          (r.fields.map (fun x => s.readField π p (off - p.base) r x * 2 ^ x.lo)).sum / m32 ∧
        Frame s t (fun k => ∃ x ∈ r.fields, x.acc = .rc ∧ k = (⟨off, x.lo, x.w⟩ : Fld).key) NoWord) ∧
    (s.Serves π (off + 4) → pageAt (off + 4) = some p → regRow p.kind (off + 4 - p.base) = some (b, r) → r.pair = true →
      exec (.rcRead π (off + 4)) s = .next { s with out := .rd π (s.latch.get 0 (pathKey π off)) :: s.out })

/-- PG_LOCK and PG_KEY_WRITE (R9), served, on any page and path. PG_LOCK answers a next state with PG_CTL.LOCK 1, so that
RWL fields are closed on every path that holds no open state. PG_KEY_WRITE of 0x0000_5EED opens the RWL fields of the
page on its path; of any other value it closes the page on that path. The open state of other paths and pages stays.
Every other served whole-dword write to the page on that path closes it. Of the registers PG_LOCK changes LOCK alone
and PG_KEY none. -/
def Obligations.KeyOpensPageForOneWrite : Prop :=
  ∀ (π : Path) (p : Page) (v : Nat) (s : State), p.inst < p.kind.countF →
    (s.Serves π (p.base + 0x08) → ∃ t, exec (.pgLock π p) s = .next t ∧ t.fld (R.PG_CTL_LOCK p) = 1 ∧ t.rwlOpen π p = false ∧
      Frame s t (Keys [R.PG_CTL_LOCK p]) NoWord ∧ t = { s with regs := t.regs, opened := t.opened }) ∧
    (s.Serves π (p.base + 0x3C) → ∃ t, exec (.pgKeyWrite π p v) s = .next t ∧
      (v % 2 ^ 32 = 0x5EED → t.rwlOpen π p = true) ∧ (v % 2 ^ 32 ≠ 0x5EED → pathKey π p.base ∉ t.opened) ∧
      (∀ k, k ≠ pathKey π p.base → (k ∈ t.opened ↔ k ∈ s.opened)) ∧ t = { s with opened := t.opened }) ∧
    (∀ (off be : Nat) (t : State), off < 2 ^ 26 → s.Serves π off → pageAt off = some p → off % 4 = 0 → off - p.base ≠ 0x3C → be % 16 = 15 →
      exec (.registerWrite π off v be false) s = .next t → pathKey π p.base ∉ t.opened)

/-- IRQ_STAT_CLEAR and PENDING_MESSAGE_SEND (R366, R376). A served IRQ_STAT_CLEAR clears in PG_IRQ_RAW each bit written 1,
whatever PG_IRQ_EN holds, and changes no other register, window word, memory byte or message. PENDING_MESSAGE_SEND of
a vector whose pending bit is set, while MSI-X is enabled and the vector is neither masked, nor function-masked, nor
held by Bus Master Enable 0 or D3hot, sends the message of its table entry and clears the pending bit alone; of a
vector that is held, or has no pending bit, it changes nothing. -/
def Obligations.InterruptRegisters : Prop :=
  (∀ (π : Path) (p : Page) (v : Nat) (s : State), p.inst < p.kind.countF → s.Serves π (p.base + 0x14) →
    ∃ t, exec (.irqStatClear π p v) s = .next t ∧
      (∀ n < 32, (t.fld (R.PG_IRQ_RAW p)).testBit n = ((s.fld (R.PG_IRQ_RAW p)).testBit n && !v.testBit n)) ∧
      Frame s t (Keys [R.PG_IRQ_RAW p]) NoWord ∧ t = { s with regs := t.regs, opened := t.opened }) ∧
  (∀ (v : Nat) (s : State), v < 2048 → s.pba v = true → s.pcie.msixEn = true → s.msixHeld v = false →
    ∃ t, exec (.pendingMessageSend v) s = .next t ∧
      t.out = .msix v (s.tab (0x3D0000 + 16 * v) + m32 * s.tab (0x3D0000 + 16 * v + 4)) (s.tab (0x3D0000 + 16 * v + 8)) :: s.out ∧
      (∀ u < 2048, t.pba u = (s.pba u && decide (u ≠ v))) ∧
      Frame s t (fun _ => False) (· = 0x3D8000 + 4 * (v / 32)) ∧ t = { s with tables := t.tables, out := t.out }) ∧
  (∀ (v : Nat) (s : State), v < 2048 → (s.pba v = false ∨ s.pcie.msixEn = false ∨ s.msixHeld v = true) →
    exec (.pendingMessageSend v) s = .next s)

/-- BLOCK_SOFT_RESET (R12, R14), served, on a page whose block has no engine of its own to stop (not ENG, BAS, DMA, DMACH,
WELL, MBX; those are stated in CommandWrites and with their blocks): every field of class B of the page holds its
reset value, and every other register field, every window word and every memory byte is unchanged, as are the rest of
the state and the open state of other pages. -/
def Obligations.BlockSoftReset : Prop :=
  ∀ (π : Path) (p : Page) (s : State), p.inst < p.kind.countF → s.Serves π (p.base + 0x08) →
    p.kind ∉ [PageKind.eng, .bas, .dma, .dmach, .well, .mbx] →
    ∃ t, exec (.blockSoftReset π p) s = .next t ∧
      (∀ f : Fld, keyPage f.key = some p → keyClass f.key = .B → t.fld f = resetOf s.dev f) ∧
      Frame s t (fun k => keyPage k = some p ∧ keyClass k = .B) NoWord ∧
      t = { s with regs := t.regs, exts := t.exts, opened := t.opened }

/-- PAGE_FREEZE (R377), served. Setting FREEZE of a page that is not frozen sets PG_CTL.FREEZE, latches ARR.NOW into
PG_SNAP_SEQ and every count field of the page, so that the snapshot of each such field holds what it counts at that
instant, at ARR with the accepted tiles placed (SCR latches the live tracking table for its TRACK registers, and CHN1
also the per-input counters); counting, and every other register, window word and memory byte, is unaffected. Writing
the value that FREEZE already holds changes nothing but the page's open state. Clearing FREEZE empties the snapshot of
the page, and reads go to the live values. -/
def Obligations.PageFreeze : Prop :=
  ∀ (π : Path) (p : Page) (s : State), p.inst < p.kind.countF → s.Serves π (p.base + 0x08) →
    (∀ u, u = (if p.kind = .arr then s.placeAll else s) → s.bit (R.PG_CTL_FREEZE p) = false → ∃ t, exec (.pageFreeze π p true) s = .next t ∧
      t.bit (R.PG_CTL_FREEZE p) = true ∧ t.fld (R.PG_SNAP_SEQ_FRAME p) = s.now % 2 ^ 48 ∧
      (∀ f ∈ countFields p, SMap.get 0 t.snap.vals f.key = u.counted p f) ∧
      (p.kind = .chn1 → ∀ k, inputLo ≤ k → k < inputHi → SMap.get 0 t.snap.vals k = SMap.get 0 u.regs k) ∧
      Frame u t (Keys [R.PG_CTL_FREEZE p, R.PG_SNAP_SEQ_FRAME p]) NoWord ∧
      t = { u with regs := t.regs, snap := t.snap, opened := t.opened }) ∧
    (∀ on, s.bit (R.PG_CTL_FREEZE p) = on → ∃ o, exec (.pageFreeze π p on) s = .next { s with opened := o }) ∧
    (s.bit (R.PG_CTL_FREEZE p) = true → ∃ t, exec (.pageFreeze π p false) s = .next t ∧ t.bit (R.PG_CTL_FREEZE p) = false ∧
      Frame s t (Keys [R.PG_CTL_FREEZE p, R.ACC_STAT_BROKEN]) NoWord ∧
      (∀ k, pageAt (k / 64) = some p → SMap.get 0 t.snap.vals k = 0))

/-- ARM, CANCEL and COPY_BACK (R27, R28, R34, R37, R42), served, on any page with an arm group. ARM while CHECKING or
PENDING sets ARM_IGNORED alone; otherwise it sets STATE to CHECKING, clears LATE, CANCEL_LATE, SHADOW_BLOCKED,
ARM_IGNORED and CODE, takes the target of ARM_TGT, notes whether a device arm for that target has been written before
(R36, R38), and changes no other register, word or memory byte. CANCEL in any other state than CHECKING or PENDING has
no effect; on a page whose arm belongs to no device arm in progress it sets STATE to CANCELLED, raises the page's arm
interrupt source, and changes no other register but the event page's (on the BM page weights loaded ahead for the
pending arm are also dropped, which is the model's choice, log entry 158); on XS or a page of its device arm, its
boundary not reached, it sets STATE of XS and of every page of the arm in progress to CANCELLED (R37); where the arm
is PENDING and NOW has reached its boundary, the arm is applied instead and CANCEL_LATE set (R34), if no other set was
applied since its check. COPY_BACK is ignored while CHECKING or PENDING; otherwise every shadow field and every word
of a shadow window takes the active one's value, and nothing else changes. -/
def Obligations.ArmRequests : Prop :=
  ∀ (π : Path) (p : Page) (s : State), p.inst < p.kind.countF → (armOffset p.kind).isSome = true → s.Serves π (armB p) →
    (s.armBusy p = true → ∃ t, exec (.arm π p) s = .next t ∧ t.fld (R.ARM_STATUS_ARM_IGNORED (armB p)) = 1 ∧
      Frame s t (Keys [R.ARM_STATUS_ARM_IGNORED (armB p)]) NoWord ∧ t.units = s.units) ∧
    (s.armBusy p = false → ∃ t, exec (.arm π p) s = .next t ∧ t.armState p = 1 ∧
      (∀ f ∈ [R.ARM_STATUS_LATE (armB p), R.ARM_STATUS_CANCEL_LATE (armB p), R.ARM_STATUS_SHADOW_BLOCKED (armB p),
        R.ARM_STATUS_ARM_IGNORED (armB p), R.ARM_STATUS_CODE (armB p)], t.fld f = 0) ∧
      (t.arm p).target = s.fld (R.ARM_TGT (armB p)) ∧
      (t.arm p).after = (decide (p ≠ xsPg) && s.deviceArmed (s.fld (R.ARM_TGT (armB p)))) ∧
      Frame s t (Keys [R.ARM_STATUS_STATE (armB p), R.ARM_STATUS_LATE (armB p), R.ARM_STATUS_CANCEL_LATE (armB p),
        R.ARM_STATUS_SHADOW_BLOCKED (armB p), R.ARM_STATUS_ARM_IGNORED (armB p), R.ARM_STATUS_CODE (armB p)]) NoWord ∧
      { t.units with arms := s.arms } = s.units) ∧
    (s.armBusy p = false → ∃ o, exec (.cancel π p) s = .next { s with opened := o }) ∧
    (s.armState p = 2 → after32 s.now (s.arm p).due = true → p ≠ xsPg → p ∉ s.arms.parts → (s.arm p).level ≠ 2 →
      (s.arm p).sets = s.arms.gen → ∃ t, exec (.cancel π p) s = .next t ∧ t.armState p = 3 ∧
        t.fld (R.ARM_STATUS_CANCEL_LATE (armB p)) = 1 ∧ (∀ x ∈ armFields p, t.fld x.2 = s.fld x.1 % 2 ^ x.2.w)) ∧
    (s.armBusy p = true → p ≠ xsPg → ¬ (p ∈ s.arms.parts ∧ s.armBusy xsPg = true) →
      ¬ (s.armState p = 2 ∧ after32 s.now (s.arm p).due = true) →
      ∃ t, exec (.cancel π p) s = .next t ∧ t.armState p = 5 ∧ Raised t p (armIrq p) ∧
      Frame s t (fun k => k = (R.ARM_STATUS_STATE (armB p)).key ∨ k = (R.PG_IRQ_RAW p).key ∨ (p = bmPg ∧ k = R.BM_STAT_WL_BUSY.key) ∨
        PageKeys evtPg k) PbaWords ∧ { t.units with beam := s.beam } = s.units ∧ (p ≠ bmPg → t.beam = s.beam)) ∧
    (s.armBusy p = true → (p = xsPg ∨ (p ∈ s.arms.parts ∧ s.armBusy xsPg = true)) → s.deviceDue = false →
      ∃ t, exec (.cancel π p) s = .next t ∧ t.arms = { s.arms with parts := [], replan := none } ∧
      (∀ q ∈ s.armPages, (q = xsPg ∨ (q ∈ s.arms.parts ∧ s.armBusy q = true)) → t.armState q = 5) ∧
      Frame s t (fun k => (∃ q ∈ s.armPages, (q = xsPg ∨ q ∈ s.arms.parts) ∧
        (k = (R.ARM_STATUS_STATE (armB q)).key ∨ k = (R.PG_IRQ_RAW q).key)) ∨ k = R.BM_STAT_WL_BUSY.key ∨ PageKeys evtPg k) PbaWords ∧
      { t.units with beam := s.beam, arms := s.arms } = s.units) ∧
    (s.armBusy p = true → ∃ o, exec (.copyBack π p) s = .next { s with opened := o }) ∧
    (s.armBusy p = false → ∃ t, exec (.copyBack π p) s = .next t ∧
      (∀ x ∈ armFields p, t.fld x.1 = s.fld x.2 % 2 ^ x.1.w) ∧
      (∀ w ∈ armWins p.kind, ∀ i < w.2.2, t.tab (w.1 + i) = s.tab (w.2.1 + i)) ∧
      Frame s t (fun k => ∃ x ∈ armFields p, k = x.1.key) (fun o => ∃ w ∈ armWins p.kind, w.1 ≤ o ∧ o < w.1 + w.2.2) ∧
      t.units = s.units)

/-- ARM_CHECK_DONE (R28, R29, R31, R38 to R42) on a page other than XS whose arm is CHECKING. The checks are the page's
own, and, unless a device arm has joined it or it changes an integration-level field, those against the other pages.
Where some fail, STATE becomes REJECTED, CODE is the lowest failing code, and the arm interrupt source rises. Where
none fails, STATE becomes PENDING with CODE and the whole of ARM_DETAIL 0, the boundary kept, and LATE set where the
boundary is a late one and otherwise left as it was (ARM has cleared it). Registers outside the page's arm group and
source, and the event page, window words but the pending bits, memory, and the units' state but the arms, are
unchanged. -/
def Obligations.ArmCheckOutcome : Prop :=
  (∀ (l : List Bad) (b : Bad), firstBad l = some b → b ∈ l ∧ ∀ x ∈ l, b.code ≤ x.code) ∧
  ∀ (p : Page) (s : State), p.inst < p.kind.countF → (armOffset p.kind).isSome = true → p ≠ xsPg → s.armState p = 1 →
    let level := s.armLevel p
    let joined := decide (p ∈ s.arms.parts) && s.armBusy xsPg
    let bads := s.ownChecks p (s.arm p).after ++ (if joined || level == 2 then [] else s.loneChecks p)
    ∃ t, exec (.armCheckDone p) s = .next t ∧
      (∀ b, firstBad bads = some b → t.armState p = 4 ∧ t.fld (R.ARM_STATUS_CODE (armB p)) = b.code % 2 ^ 8 ∧
        (t.fld (R.PG_IRQ_RAW p)).testBit (armIrq p) = true ∧ p ∉ t.arms.parts) ∧
      (firstBad bads = none → t.armState p = 2 ∧
        (∀ f ∈ [R.ARM_STATUS_CODE (armB p), R.ARM_DETAIL_WHERE (armB p), R.ARM_DETAIL_TYPE (armB p),
          R.ARM_DETAIL_WINDOW (armB p), R.ARM_DETAIL_TABLE (armB p)], t.fld f = 0) ∧
        (t.arm p).due = (s.pageBoundary p level (s.arm p).target).1 ∧
        t.fld (R.ARM_STATUS_LATE (armB p)) =
          (if (s.pageBoundary p level (s.arm p).target).2 then 1 else s.fld (R.ARM_STATUS_LATE (armB p)))) ∧
      Frame s t (fun k => (armB p * 64 ≤ k ∧ k < (armB p + 0x20) * 64) ∨ k = (R.PG_IRQ_RAW p).key ∨ PageKeys evtPg k) PbaWords ∧
      { t.units with arms := s.arms } = s.units

/-- ARM_APPLY, DEVICE_ARM_CHECK and REPLAN (R28, R32, R33, R35, R36, R42, R190, R274). Page arm: with one page arm
PENDING, in no device arm, below integration level, no other set applied since its check, and its boundary reached,
ARM_APPLY sets STATE to APPLIED, ARM_APPLIED to the boundary's frame, advances APPLY_CNT, makes every active field and
window word the shadow's, and raises the arm source; of other registers only those of its page, of DLY (clamps), MERE
(the plan) and EVT, of other words only active words of its windows and pending bits can change, no memory byte and no
unit but the arms, the sets in force, DLY and MERE. With no arm PENDING it changes nothing. Device arm: PENDING, its
boundary reached, enough engines working, no page outside it PENDING: ARM_APPLY applies every page of it together
(STATE, ARM_APPLIED, active fields, source) at the boundary's frame; where the set starts a run, XS.STAT.RUN is 1,
RUN_START the frame, irq 1 raised and the run listed; where it stops one while a pass is in progress, the run's end is
noted for the next pass number and XS.STAT.RUN stays. It changes no memory byte, and of registers those of the arm
pages, the engines that bear and EVT alone. DEVICE_ARM_CHECK of a CHECKING XS arm, no partner CHECKING: where a check
fails, XS is REJECTED with the lowest failing code and every partner in progress with code 0x07; where none fails, XS
is PENDING with code 0, and XS and its partners hold the boundary, with LATE set where it is late; registers of the
arm pages and EVT alone change. A page's own checks hold code 0x06 where its arm was written after the device arm with
its target (R36). REPLAN, due and with no XS arm in progress, starts a CHECKING XS arm that lowers E_x first, then
E_b, by the engines missing, and is due no longer. -/
def Obligations.ArmBoundary : Prop :=
  (∀ (p : Page) (s : State), p ∈ s.armPages → p ≠ xsPg → s.armState p = 2 → after32 s.now (s.arm p).due = true →
    p ∉ s.arms.parts → (s.arm p).level ≠ 2 → (s.arm p).sets = s.arms.gen →
    (∀ q ∈ s.armPages, q ≠ p → s.armState q ≠ 2) →
    ∃ t, exec .armApply s = .next t ∧ t.armState p = 3 ∧ t.fld (R.ARM_APPLIED (armB p)) = (s.arm p).due % 2 ^ 48 ∧
      t.fld (R.ARM_STATUS_APPLY_CNT (armB p)) = (s.fld (R.ARM_STATUS_APPLY_CNT (armB p)) + 1) % 2 ^ 16 ∧
      (∀ x ∈ armFields p, t.fld x.2 = s.fld x.1 % 2 ^ x.2.w) ∧
      (∀ w ∈ armWins p.kind, ∀ i < w.2.2, t.tab (w.2.1 + i) = s.tab (w.1 + i)) ∧ Raised t p (armIrq p) ∧
      Frame s t (InPages [p, pg .dly, pg .mere, evtPg])
        (fun o => PbaWords o ∨ ∃ w ∈ armWins p.kind, w.2.1 ≤ o ∧ o < w.2.1 + w.2.2) ∧
      { t.units with arms := s.arms, actives := s.actives, dly := s.dly, mere := s.mere } = s.units) ∧
  (∀ s : State, (∀ q ∈ s.armPages, s.armState q ≠ 2) → exec .armApply s = .next s) ∧
  (∀ s : State, s.armState xsPg = 2 → after32 s.now (s.arm xsPg).due = true → s.arms.replan = none →
    (s.armedCfg).eX + (s.armedCfg).eB ≤ s.workingTotal →
    (∀ q ∈ s.armPages, q ∉ s.arms.parts → q ≠ xsPg → s.armState q ≠ 2) →
    let f := (s.arm xsPg).due
    ∃ t, exec .armApply s = .next t ∧
      (∀ p ∈ s.armPages, (p = xsPg ∨ (p ∈ s.arms.parts ∧ s.armBusy p = true)) →
        t.armState p = 3 ∧ t.fld (R.ARM_APPLIED (armB p)) = f % 2 ^ 48 ∧
        (∀ x ∈ armFields p, t.fld x.2 = s.fld x.1 % 2 ^ x.2.w) ∧ Raised t p (armIrq p)) ∧
      t.lastCfg.f0 = f ∧ t.arms.parts = [] ∧
      (s.lastCfg.run = false → s.fld R.XS_CFG_SH_RUN % 2 = 1 → t.fld R.XS_STAT_RUN = 1 ∧ t.fld R.XS_RUN_START = f % 2 ^ 48 ∧
        Raised t xsPg 1 ∧ t.lastCfg.run = true ∧ t.sward.runs = (f, none) :: s.sward.runs) ∧
      (∀ a rest, s.lastCfg.run = true → s.fld R.XS_CFG_SH_RUN % 2 = 0 → s.sward.runs = (a, none) :: rest →
        s.mere.pass.isSome = true → t.lastCfg.run = false ∧ t.sward.runs = (a, some f) :: rest ∧
        (∃ e, t.sward.ends = s.sward.ends ++ [e] ∧ e.pass = t.lastCfg.pass0 ∧ e.past = false) ∧
        t.fld R.XS_STAT_RUN = s.fld R.XS_STAT_RUN) ∧
      Frame s t (fun k => InPages (evtPg :: s.armPages) k ∨ ∃ c e n, s.bearer c e = some n ∧ PageKeys ⟨.eng, n⟩ k)
        (fun o => PbaWords o ∨ ∃ q ∈ s.armPages, ∃ w ∈ armWins q.kind, w.2.1 ≤ o ∧ o < w.2.1 + w.2.2)) ∧
  (∀ s : State, s.armState xsPg = 1 → s.arms.replan = none → (∀ q ∈ s.arms.parts, q ∈ s.armPages ∧ q ≠ xsPg ∧ s.armState q ≠ 1) →
    let c := s.armedCfg
    let bads := s.ownChecks xsPg false ++ (s.showShape true c).deviceChecks (xsPg :: s.arms.parts) c (s.arm xsPg).target
    ∃ t, exec .deviceArmCheck s = .next t ∧
      (∀ b, firstBad bads = some b → t.armState xsPg = 4 ∧ t.fld (R.ARM_STATUS_CODE (armB xsPg)) = b.code % 2 ^ 8 ∧
        (∀ q ∈ s.arms.parts, s.armBusy q = true → t.armState q = 4 ∧ t.fld (R.ARM_STATUS_CODE (armB q)) = 0x07) ∧
        t.arms.parts = []) ∧
      (firstBad bads = none → t.armState xsPg = 2 ∧ t.fld (R.ARM_STATUS_CODE (armB xsPg)) = 0 ∧
        ∀ q ∈ xsPg :: s.arms.parts, (t.arm q).due = ((s.showShape true c).deviceBoundary c (s.arm xsPg).target).1 ∧
          (((s.showShape true c).deviceBoundary c (s.arm xsPg).target).2 = true → t.fld (R.ARM_STATUS_LATE (armB q)) = 1)) ∧
      Frame s t (InPages (evtPg :: s.armPages)) PbaWords ∧ { t.units with arms := s.arms, beam := s.beam } = s.units) ∧
  (∀ (p : Page) (s : State), ∃ b ∈ s.ownChecks p true, b.code = 0x06) ∧
  (∀ s : State, s.sward.replanDue = true → s.armBusy xsPg = false →
    ∃ t x b, exec .replan s = .next t ∧ t.armState xsPg = 1 ∧ t.arms.replan = some (x, b) ∧ t.arms.parts = [] ∧
      (let k := s.lastCfg.eX + s.lastCfg.eB - s.workingTotal
       x = s.lastCfg.eX - k ∧ b = s.lastCfg.eB - (k - s.lastCfg.eX)) ∧
      Frame s t (fun o => armB xsPg * 64 ≤ o ∧ o < (armB xsPg + 0x20) * 64) NoWord ∧
      t.sward = { s.sward with replanDue := false } ∧ { t.units with arms := s.arms, sward := s.sward } = s.units)

/-- LNK_ENABLE and LNK_DISABLE (R45, R52), served, on a link whose power domain is on. Enabling a link that is disabled:
where its configuration breaks a rule, the error's code (1 to 4) is recorded and counted and ENABLE stays 0; else
ENABLE becomes 1, STATE becomes NEGOTIATE, and every lane of the configured set enters DETECT, belongs to the link and
has no lock; registers outside the link's page, the pages of those lanes and the event page are unchanged. Enabling an
enabled link changes nothing. Disabling an enabled link sets ENABLE to 0, STATE to DISABLED and the width in use to 0,
counts a tile in progress and the tiles held in the link's buffers in RX_TILES and DROP_TRUNC (R77), and changes no
register outside the link's page, the pages of the lanes that belonged to it and the event page. -/
def Obligations.LinkEnableAndDisable : Prop :=
  ∀ (π : Path) (j : Nat) (s : State), j < 64 → s.Serves π (0x60008 + 0x1000 * j) → s.domOn (lnkPg j).domain = true →
    (s.bit (R.PG_CTL_ENABLE (lnkPg j)) = false → ∀ c, s.lnkRefused j = some c →
      ∃ t, exec (.lnkEnable π j) s = .next t ∧ t.bit (R.PG_CTL_ENABLE (lnkPg j)) = false ∧
        1 ≤ c ∧ c ≤ 4 ∧ Records s t (lnkPg j) c ∧
        Frame s t (InPages [lnkPg j, evtPg]) PbaWords ∧ t.units = s.units) ∧
    (s.bit (R.PG_CTL_ENABLE (lnkPg j)) = false → s.lnkRefused j = none →
      ∃ t, exec (.lnkEnable π j) s = .next t ∧ t.bit (R.PG_CTL_ENABLE (lnkPg j)) = true ∧ t.lkstate j = lkNegotiate ∧
        (∀ n ∈ lanesOf (s.fld (R.LNK_CFG_FIRST_LANE j)) (s.fld (R.LNK_CFG_WIDTH j)), t.lstate n = lsDetect ∧
          t.fld (R.SLK_STAT_LINK_NUM n) = j ∧ t.bit (R.SLK_STAT_IN_LINK n) = true ∧ t.fld (R.SLK_STAT_CDR_LOCK n) = 0) ∧
        Frame s t (InPages (lnkPg j :: evtPg ::
          (lanesOf (s.fld (R.LNK_CFG_FIRST_LANE j)) (s.fld (R.LNK_CFG_WIDTH j))).map slkPg)) PbaWords) ∧
    (s.bit (R.PG_CTL_ENABLE (lnkPg j)) = true → ∃ o, exec (.lnkEnable π j) s = .next { s with opened := o }) ∧
    (s.bit (R.PG_CTL_ENABLE (lnkPg j)) = true →
      ∃ t, exec (.lnkDisable π j) s = .next t ∧ t.fld (R.PG_CTL_ENABLE (lnkPg j)) = 0 ∧ t.lkstate j = lkDisabled ∧
        t.fld (R.LNK_STAT_ACT_WIDTH j) = 0 ∧
        (let k := (if (s.link j).rx.inTile then 1 else 0) + (s.link j).held
         t.fld (R.LNK_RX_TILES j) = (s.fld (R.LNK_RX_TILES j) + k) % 2 ^ 48 ∧
           t.fld (R.LNK_DROP_TRUNC j) = (s.fld (R.LNK_DROP_TRUNC j) + k) % 2 ^ 48) ∧
        Frame s t (InPages (lnkPg j :: evtPg ::
          ((List.range s.nLanes).filter (fun n => s.laneLink n == some j)).map slkPg)) PbaWords)

/-- SIGNAL_DETECT, CDR_LOCK, FEC_LOCK, CORRECTED_CODEWORD and LOCK_LOSS (R52, R56, R59, R76) on a lane. A lane in DETECT
that sees its signal sets SIG_DET and is at step 1; in OFF nothing changes, in any other state SIG_DET is set alone. A
lane in DETECT with its signal whose clock locks sets CDR_LOCK and goes to S1_EXCH. A lane with CDR lock at step 2 or
above sets FEC_LOCK. A corrected codeword, of 1 to 15 symbols, of a lane with codeword lock counts one codeword and
its symbols; without the lock, or with a number of symbols the code does not correct, nothing changes. A lock lost
clears its bit (a signal lost, R457, also the CDR lock); a lock that is not held changes nothing. Where the lane is in
use by a link that carries data, the lane and the link go to RETRAIN, RETRAINS advances, the peer is asked for the
retrain of that lane in a STATUS block, a tile in progress and the tiles held count in RX_TILES and DROP_TRUNC, and no
register outside the pages of the lane, the link and the events changes; elsewhere no register outside the lane's page
changes. In the other cases registers outside the lane's page, and always window words (for LOCK_LOSS but the pending
bits), memory and, but for the retrain, the units are unchanged. -/
def Obligations.LaneSignals : Prop :=
  ∀ (n : Nat) (s : State),
    (s.lstate n = lsDetect → ∃ t, exec (.signalDetect n) s = .next t ∧ t.fld (R.SLK_STAT_SIG_DET n) = 1 ∧
      t.fld (R.SLK_STAT_STEP n) = 1 ∧ Frame s t (InPages [slkPg n]) NoWord ∧ t.units = s.units) ∧
    (s.lstate n = lsOff → exec (.signalDetect n) s = .next s) ∧
    (s.lstate n ≠ lsDetect → s.lstate n ≠ lsOff → ∃ t, exec (.signalDetect n) s = .next t ∧ t.fld (R.SLK_STAT_SIG_DET n) = 1 ∧
      Frame s t (Keys [R.SLK_STAT_SIG_DET n]) NoWord ∧ t.units = s.units) ∧
    (s.lstate n = lsDetect → s.bit (R.SLK_STAT_SIG_DET n) = true → ∃ t, exec (.cdrLock n) s = .next t ∧
      t.fld (R.SLK_STAT_CDR_LOCK n) = 1 ∧ t.lstate n = lsS1 ∧ Frame s t (InPages [slkPg n]) NoWord ∧ t.units = s.units) ∧
    (s.bit (R.SLK_STAT_CDR_LOCK n) = true → 2 ≤ s.fld (R.SLK_STAT_STEP n) → ∃ t, exec (.fecLock n) s = .next t ∧
      t.fld (R.SLK_STAT_FEC_LOCK n) = 1 ∧ Frame s t (Keys [R.SLK_STAT_FEC_LOCK n]) NoWord ∧ t.units = s.units) ∧
    (∀ k, s.bit (R.SLK_STAT_FEC_LOCK n) = true → 1 ≤ k → k ≤ 15 → ∃ t, exec (.correctedCodeword n k) s = .next t ∧
      t.fld (R.SLK_CORR_CW n) = (s.fld (R.SLK_CORR_CW n) + 1) % 2 ^ (R.SLK_CORR_CW n).w ∧
      t.fld (R.SLK_CORR_SYM n) = (s.fld (R.SLK_CORR_SYM n) + k) % 2 ^ (R.SLK_CORR_SYM n).w ∧
      Frame s t (Keys [R.SLK_CORR_CW n, R.SLK_CORR_SYM n, R.SLK_FEC_MAX_MAX_SYM n]) NoWord ∧ t.units = s.units) ∧
    (∀ k, s.bit (R.SLK_STAT_FEC_LOCK n) = false ∨ k = 0 ∨ 15 < k → exec (.correctedCodeword n k) s = .next s) ∧
    (∀ k f, f = (match k with
        | .cdr => R.SLK_STAT_CDR_LOCK n
        | .fec => R.SLK_STAT_FEC_LOCK n
        | .marker => R.SLK_STAT_MARKER_LOCK n
        | .signal => R.SLK_STAT_SIG_DET n) →
      (s.bit f = false → exec (.lockLoss n k) s = .next s) ∧
      (s.bit f = true → (∀ j, s.laneLink n = some j → s.carries j = false ∨ n ∉ s.linkLanes j) →
        ∃ t, exec (.lockLoss n k) s = .next t ∧ t.fld f = 0 ∧ (k = .signal → t.fld (R.SLK_STAT_CDR_LOCK n) = 0) ∧
        Frame s t (InPages [slkPg n]) PbaWords ∧ t.units = s.units) ∧
      (∀ j, j < 64 → n < 64 → s.bit f = true → s.laneLink n = some j → s.carries j = true → n ∈ s.linkLanes j →
        ∃ t, exec (.lockLoss n k) s = .next t ∧ t.fld f = 0 ∧ (k = .signal → t.fld (R.SLK_STAT_CDR_LOCK n) = 0) ∧
        t.lstate n = lsRetrain ∧ t.lkstate j = lkRetrain ∧
        t.fld (R.SLK_TRAIN_CNT_RETRAINS n) = (s.fld (R.SLK_TRAIN_CNT_RETRAINS n) + 1) % 2 ^ (R.SLK_TRAIN_CNT_RETRAINS n).w ∧
        (∃ m, .status j m ∈ t.out ∧ m.retrainReq = true ∧ m.retrainMap = 2 ^ (n - (s.link j).first)) ∧
        (let d := (if (s.link j).rx.inTile then 1 else 0) + (s.link j).held
         t.fld (R.LNK_RX_TILES j) = (s.fld (R.LNK_RX_TILES j) + d) % 2 ^ 48 ∧
           t.fld (R.LNK_DROP_TRUNC j) = (s.fld (R.LNK_DROP_TRUNC j) + d) % 2 ^ 48) ∧
        Frame s t (InPages [slkPg n, lnkPg j, evtPg]) PbaWords ∧
        { t.units with lanes := s.lanes, links := s.links } = s.units))

/-- STRAY_CONTROL_BLOCK (R58). A control block of reserved type or outside a marker group is discarded: where it falls in
no tile of a link that carries data, nothing changes. Where it falls between the first and last byte of a tile, the
tile is dropped with cause TRUNC: DROP_TRUNC and RX_TILES advance by one, and every other register, every window word,
memory, and the units' state but the links', are unchanged. -/
def Obligations.StrayControlBlockDiscarded : Prop :=
  ∀ (j : Nat) (b : Block) (s : State), s.carries j = true → b.data = false →
    ((s.link j).rx.inTile = false → exec (.strayControlBlock j b) s = .next s) ∧
    ((s.link j).rx.inTile = true → ∃ t, exec (.strayControlBlock j b) s = .next t ∧
      t.fld (R.LNK_DROP_TRUNC j) = (s.fld (R.LNK_DROP_TRUNC j) + 1) % 2 ^ (R.LNK_DROP_TRUNC j).w ∧
      t.fld (R.LNK_RX_TILES j) = (s.fld (R.LNK_RX_TILES j) + 1) % 2 ^ (R.LNK_RX_TILES j).w ∧
      (t.link j).rx.inTile = false ∧ (t.link j).rx.words = [] ∧
      Frame s t (Keys [R.LNK_DROP_TRUNC j, R.LNK_RX_TILES j]) NoWord ∧
      t.units = { s.units with links := t.links })

/-- CAPABILITY_MESSAGE, TRAINING_FRAME, STEP_TRAIN_TIMEOUT and MARKER_GROUP (R50 to R55, R60 to R65). In NEGOTIATE, with
no exchange complete and every lane at S1_EXCH, a copy that differs from the one before is only remembered; a second
identical copy of version 1 with a step of at least 2 stores the peer's identity and greatest step and completes the
exchange with the lower of the two ends' greatest steps. A training frame for a lane in training with CDR lock stores
the peer's taps and the main tap they leave, and adds what it says of READY. A lane of the link in training (not in
the standalone training of R79) whose step times out at step 2 or below, unready, fails with cause TRAIN_TIMEOUT and
is counted. A marker group of a link that carries data reports the lateness of its latest lane, at most 65535, and
that lane; the device sends a marker with the next count and its filler blocks on every lane; of a disabled link it
changes nothing. Registers outside the link's page, the pages of its lanes and the event page, window words but the
pending bits, memory, and the units' state but the lanes' and links', are unchanged. -/
def Obligations.LinkTraining : Prop :=
  ∀ (j n : Nat) (s : State), j < 64 → n < 64 →
    (s.lkstate j = lkNegotiate → (s.link j).capDone = false → (s.link j).badVersion = false → (∀ x ∈ s.linkLanes j, x < 64 ∧ s.lstate x = lsS1) → ∀ m,
      ((s.link j).capLast ≠ some m →
        exec (.capabilityMessage j m) s = .next (s.setLink j { s.link j with capLast := some m })) ∧
      ((s.link j).capLast = some m → m.version = 1 → 1 < m.maxStep → ∃ t, exec (.capabilityMessage j m) s = .next t ∧
        t.fld (R.LNK_PEER_ID j) = m.identity % 2 ^ (R.LNK_PEER_ID j).w ∧
        t.fld (R.LNK_PEER_CAP_MAX_STEP j) = m.maxStep % 2 ^ (R.LNK_PEER_CAP_MAX_STEP j).w ∧
        (t.link j).capDone = true ∧ (t.link j).final = min (s.fld (R.LNK_CFG_MAX_STEP j)) m.maxStep ∧
        Frame s t (InPages (lnkPg j :: evtPg :: (s.linkLanes j).map slkPg)) PbaWords ∧
        t.units = { s.units with lanes := t.lanes, links := t.links })) ∧
    (s.lstate n = lsTrain → s.bit (R.SLK_STAT_CDR_LOCK n) = true → ∀ f, ∃ t, exec (.trainingFrame n f) s = .next t ∧
        (f.respOk = true → t.fld (R.SLK_PEER_FFE_PRE n) = min 16 f.peerPre ∧ t.fld (R.SLK_PEER_FFE_POST n) = min 24 f.peerPost ∧
          t.fld (R.SLK_PEER_FFE_MAIN n) = 64 - min 16 f.peerPre - min 24 f.peerPost) ∧
        (f.respOk = false → t.fld (R.SLK_PEER_FFE_PRE n) = s.fld (R.SLK_PEER_FFE_PRE n) ∧
          t.fld (R.SLK_PEER_FFE_POST n) = s.fld (R.SLK_PEER_FFE_POST n)) ∧
        (t.lane n).ownReady = ((s.lane n).ownReady || f.works) ∧
        (t.lane n).peerReady = ((s.lane n).peerReady || (f.reqOk && f.peerReady)) ∧
        (f.reqOk = true → (s.lane n).lastReq ≠ some (f.reqPre, f.reqPost, f.preset) → (t.lane n).lastReq = some (f.reqPre, f.reqPost, f.preset) ∧
          ((t.lane n).pre, (t.lane n).post) = (s.answerRequest n f.reqPre f.reqPost f.preset).1 ∧
          (t.lane n).lastResp = (s.answerRequest n f.reqPre f.reqPost f.preset).2) ∧
        (f.reqOk = false → (t.lane n).pre = (s.lane n).pre ∧ (t.lane n).post = (s.lane n).post) ∧
        Frame s t (InPages [slkPg n]) NoWord ∧ t.units = { s.units with lanes := t.lanes }) ∧
    (s.laneLink n = some j → s.lkstate j = lkNegotiate → n ∈ s.linkLanes j → s.lstate n = lsTrain → (s.lane n).alone = false →
      (∀ x ∈ s.linkLanes j ++ s.cfgLanes j, x < 64) → ((s.lane n).ownReady && (s.lane n).peerReady) = false → s.fld (R.SLK_STAT_STEP n) ≤ 2 →
      ∃ t, exec (.stepTrainTimeout n) s = .next t ∧ t.lstate n = lsFailed ∧ t.fld (R.SLK_STAT_FAIL_CAUSE n) = fcTrainTimeout ∧
        t.fld (R.SLK_TRAIN_CNT_FAILS n) = (s.fld (R.SLK_TRAIN_CNT_FAILS n) + 1) % 2 ^ (R.SLK_TRAIN_CNT_FAILS n).w ∧
        Frame s t (InPages (lnkPg j :: evtPg :: (s.linkLanes j ++ s.cfgLanes j).map slkPg)) PbaWords ∧
        t.units = { s.units with lanes := t.lanes, links := t.links }) ∧
    (∀ ms st fill, (s.lkstate j = lkDisabled → exec (.markerGroup j ms st fill) s = .next s) ∧
      (s.carries j = true → (∀ x ∈ s.linkLanes j ++ s.cfgLanes j, x < 64) → ∃ t, exec (.markerGroup j ms st fill) s = .next t ∧
        t.fld (R.LNK_SKEW_MAX_SKEW j) = min (latest ms).late 65535 ∧
        t.fld (R.LNK_SKEW_LATEST_LANE j) = (latest ms).lane % 2 ^ (R.LNK_SKEW_LATEST_LANE j).w ∧
        (t.link j).sent = ((s.link j).sent + 1) % 65536 ∧
        (∀ x ∈ s.linkLanes j, .marker x j (x - (s.link j).first) (s.link j).width (s.link j).sent ∈ t.out ∧
          .filler x (s.fillGroup j) ∈ t.out) ∧
        Frame s t (InPages (lnkPg j :: evtPg :: (s.linkLanes j ++ s.cfgLanes j).map slkPg)) PbaWords ∧
        t.units = { s.units with lanes := t.lanes, links := t.links }))

/-- LINK_TILE, HUNT, ELASTIC_OVERFLOW and UNCORRECTABLE_CODEWORD (R47, R56, R59, R66, R67, R70, R72 to R74, R98). On a
link that does not carry data, blocks and a hunt change nothing. Whatever the blocks, only registers of the link page,
ARR.IN and the event page change. A data block of the lane whose turn it is, that ends no tile, adds its eight words
to the tile in progress, and the turn passes to the next lane. One that brings the tile in progress to 521 words ends
it: dropped under R66 it counts in RX_TILES and DROP_ELASTIC, else with a word from an uncorrectable codeword in
RX_TILES and DROP_FEC, else with a bad header CRC-8 in DROP_HDR_CRC, else with a field that R67 does not allow in
DROP_HDR_FIELD. A readable tile sets TILE_CNT.LAST; where it does not follow the last one, as far as 2^20 on, the
tiles between them that were not dropped unread count in RX_TILES and DROP_GAP, and a jump records error 0x13 and
raises irq 4 (R74). Outside its link's tile set it counts in DROP_NOT_MAPPED, outside the window in DROP_WINDOW; else
it counts in ACCEPTED and ARR.IN and is handed to the arrival area. A hunt that finds SYNC, VERSION 1 and a valid
CRC-8 at the words it has reached ends, is logged with the words skipped, and a tile is in progress; with no hunt the
command changes nothing. An elastic overflow sets the fill to 128, and the tile in progress will be dropped. An
uncorrectable codeword counts once on its lane, whose next blocks, at most 20, are its own; where the threshold of R76
is reached on a lane in use by a link that carries data, irq 3 of the lane is raised and the lane and the link go to
RETRAIN. Outside the registers named, window words but the pending bits, memory, and the units' state but the links',
lanes' and arrival area's are unchanged. -/
def Obligations.LinkTilesAndDrops : Prop :=
  ∀ (j n : Nat) (s : State), j < 64 → n < 64 →
    (s.carries j = false → ∀ m fill bs w, exec (.linkTile j m fill bs) s = .next s ∧ exec (.hunt j w) s = .next s) ∧
    (∀ m fill bs, ∃ t, exec (.linkTile j m fill bs) s = .next t ∧
      Frame s t (fun k => InPages [lnkPg j, evtPg] k ∨ k = R.ARR_IN.key) PbaWords ∧
      t.units = { s.units with links := t.links, arr := t.arr }) ∧
    (∀ l b fill, l = s.link j → s.carries j = true → l.elastic = false → l.rx.hunt = none → l.rx.inTile = true → l.rx.fifo = [] →
      l.rx.turn < 2 ^ l.width → n = l.first + l.rx.turn → b.data = true →
      (l.rx.words.length < 513 → exec (.linkTile j n fill [b]) s = .next (s.setLink j { l with rx := { l.rx with
        turn := (l.rx.turn + 1) % 2 ^ l.width, bad := l.rx.bad.put 0 n (l.rx.bad.get 0 n - 1)
        words := l.rx.words ++ blockWords (decide (0 < l.rx.bad.get 0 n)) b.bytes } })) ∧
      (l.rx.words.length = 513 →
        (l.rx.elasticNow = true → ∃ t, exec (.linkTile j n fill [b]) s = .next t ∧
          t.fld (R.LNK_RX_TILES j) = (s.fld (R.LNK_RX_TILES j) + 1) % 2 ^ 48 ∧
          t.fld (R.LNK_DROP_ELASTIC j) = (s.fld (R.LNK_DROP_ELASTIC j) + 1) % 2 ^ 48 ∧ (t.link j).rx.inTile = false ∧
          Frame s t (Keys [R.LNK_RX_TILES j, R.LNK_DROP_ELASTIC j]) NoWord ∧ t.units = { s.units with links := t.links }) ∧
        (l.rx.elasticNow = false → l.rx.words.any (fun w => w.1) = true ∨ 0 < l.rx.bad.get 0 n → ∃ t, exec (.linkTile j n fill [b]) s = .next t ∧
          t.fld (R.LNK_RX_TILES j) = (s.fld (R.LNK_RX_TILES j) + 1) % 2 ^ 48 ∧
          t.fld (R.LNK_DROP_FEC j) = (s.fld (R.LNK_DROP_FEC j) + 1) % 2 ^ 48 ∧ (t.link j).rx.inTile = false ∧
          Frame s t (Keys [R.LNK_RX_TILES j, R.LNK_DROP_FEC j]) NoWord ∧ t.units = { s.units with links := t.links }) ∧
        (∀ T f, T = streamBytes (l.rx.words ++ blockWords false b.bytes) → f = leAt T 10 6 →
          l.rx.elasticNow = false → l.rx.words.any (fun w => w.1) = false → l.rx.bad.get 0 n = 0 →
          (hdrCrcOk T = false → ∃ t, exec (.linkTile j n fill [b]) s = .next t ∧
            t.fld (R.LNK_RX_TILES j) = (s.fld (R.LNK_RX_TILES j) + 1) % 2 ^ 48 ∧
            t.fld (R.LNK_DROP_HDR_CRC j) = (s.fld (R.LNK_DROP_HDR_CRC j) + 1) % 2 ^ 48 ∧ (t.link j).unread = l.unread + 1 ∧
            Frame s t (Keys [R.LNK_RX_TILES j, R.LNK_DROP_HDR_CRC j]) NoWord ∧ t.units = { s.units with links := t.links }) ∧
          (hdrCrcOk T = true → hdrFieldsOk T (s.fldAt (pg .arr) f R.ARR_GEOM_MODE) = false →
            ∃ t, exec (.linkTile j n fill [b]) s = .next t ∧
            t.fld (R.LNK_RX_TILES j) = (s.fld (R.LNK_RX_TILES j) + 1) % 2 ^ 48 ∧
            t.fld (R.LNK_DROP_HDR_FIELD j) = (s.fld (R.LNK_DROP_HDR_FIELD j) + 1) % 2 ^ 48 ∧ (t.link j).unread = l.unread + 1 ∧
            Frame s t (Keys [R.LNK_RX_TILES j, R.LNK_DROP_HDR_FIELD j]) NoWord ∧ t.units = { s.units with links := t.links }) ∧
          (∀ d g, d = (leAt T 20 4 + m32 - s.fld (R.LNK_TILE_CNT_LAST j)) % m32 →
            g = (if l.cValid = true ∧ 1 ≤ d ∧ d ≤ 2 ^ 20 then d - 1 - l.unread else 0) →
            hdrCrcOk T = true → hdrFieldsOk T (s.fldAt (pg .arr) f R.ARR_GEOM_MODE) = true →
            ∃ t, exec (.linkTile j n fill [b]) s = .next t ∧
            t.fld (R.LNK_RX_TILES j) = (s.fld (R.LNK_RX_TILES j) + 1 + g) % 2 ^ 48 ∧
            t.fld (R.LNK_DROP_GAP j) % 2 ^ 48 = (s.fld (R.LNK_DROP_GAP j) + g) % 2 ^ 48 ∧
            t.fld (R.LNK_TILE_CNT_LAST j) = leAt T 20 4 % 2 ^ 32 ∧ (t.link j).cValid = true ∧ (t.link j).unread = 0 ∧
            (l.cValid = true → d = 0 ∨ 2 ^ 20 < d → Raised t (lnkPg j) 4 ∧ Records s t (lnkPg j) 0x13) ∧
            (s.inTileSet j f (leAt T 6 1) (leAt T 8 2) = false → t.arr = s.arr ∧ t.fld R.ARR_IN = s.fld R.ARR_IN ∧
              t.fld (R.LNK_DROP_NOT_MAPPED j) = (s.fld (R.LNK_DROP_NOT_MAPPED j) + 1) % 2 ^ 48) ∧
            (s.inTileSet j f (leAt T 6 1) (leAt T 8 2) = true → s.inWindow f (leAt T 5 1) = false → t.arr = s.arr ∧
              t.fld R.ARR_IN = s.fld R.ARR_IN ∧ t.fld (R.LNK_DROP_WINDOW j) = (s.fld (R.LNK_DROP_WINDOW j) + 1) % 2 ^ 48) ∧
            (s.inTileSet j f (leAt T 6 1) (leAt T 8 2) = true → s.inWindow f (leAt T 5 1) = true →
              t.fld (R.LNK_ACCEPTED j) = (s.fld (R.LNK_ACCEPTED j) + 1) % 2 ^ (R.LNK_ACCEPTED j).w ∧
              t.fld R.ARR_IN = (s.fld R.ARR_IN + 1) % 2 ^ R.ARR_IN.w ∧
              t.arr = { s.arr with accepted := s.arr.accepted ++ [mkTile j T] }))))) ∧
    (s.carries j = true → (s.link j).rx.hunt = none → ∀ w, exec (.hunt j w) s = .next s) ∧
    (∀ l k w, l = s.link j → 1 ≤ w → s.carries j = true → l.rx.hunt = some k → 8 ≤ l.rx.words.length → huntTest l.rx.words = true →
      exec (.hunt j w) s = .next ((s.setLink j { l with rx := { l.rx with hunt := none, inTile := true, elasticNow := l.elastic } }).info
        (lnkPg j) 0xE2 none k 0 0 0)) ∧
    (s.laneLink n = some j → s.carries j = true → ∃ t, exec (.elasticOverflow n) s = .next t ∧
      t.fld (R.LNK_ELASTIC_FILL j) = 128 ∧ (t.link j).rx.elasticNow = (s.link j).rx.inTile ∧ (t.link j).elastic = true ∧
      Frame s t (InPages [lnkPg j, evtPg]) PbaWords ∧ t.units = { s.units with links := t.links }) ∧
    (s.laneLink n = some j → s.bit (R.SLK_STAT_FEC_LOCK n) = true → s.carries j = false → ∀ k,
      ∃ t, exec (.uncorrectableCodeword n k) s = .next t ∧
      t.fld (R.SLK_UNCORR_CW n) = (s.fld (R.SLK_UNCORR_CW n) + 1) % 2 ^ (R.SLK_UNCORR_CW n).w ∧
      (t.link j).rx.bad.get 0 n = (s.link j).rx.bad.get 0 n + min k 20 ∧
      Frame s t (Keys [R.SLK_UNCORR_CW n]) NoWord ∧ t.units = { s.units with links := t.links, lanes := t.lanes }) ∧
    (∀ u c k, u = (match (s.lane n).uncorr with | [] => [1] | h :: t => (h + 1) :: t) → c = s.fld (R.SLK_UNCORR_THR_COUNT n) →
      s.laneLink n = some j → s.bit (R.SLK_STAT_FEC_LOCK n) = true → s.carries j = true → n ∈ s.linkLanes j →
      ((c = 0 ∨ (u.take (max 1 (s.fld (R.SLK_UNCORR_THR_WINDOW n)))).sum < c) → ∃ t, exec (.uncorrectableCodeword n k) s = .next t ∧
        t.fld (R.SLK_UNCORR_CW n) = (s.fld (R.SLK_UNCORR_CW n) + 1) % 2 ^ (R.SLK_UNCORR_CW n).w ∧
        (t.link j).rx.bad.get 0 n = (s.link j).rx.bad.get 0 n + min k 20 ∧ (t.lane n).uncorr = u ∧
        Frame s t (Keys [R.SLK_UNCORR_CW n]) NoWord ∧ t.units = { s.units with links := t.links, lanes := t.lanes }) ∧
      (c ≠ 0 → c ≤ (u.take (max 1 (s.fld (R.SLK_UNCORR_THR_WINDOW n)))).sum → ∃ t, exec (.uncorrectableCodeword n k) s = .next t ∧
        t.fld (R.SLK_UNCORR_CW n) = (s.fld (R.SLK_UNCORR_CW n) + 1) % 2 ^ (R.SLK_UNCORR_CW n).w ∧
        Raised t (slkPg n) 3 ∧ t.lstate n = lsRetrain ∧ t.lkstate j = lkRetrain ∧
        Frame s t (InPages [slkPg n, lnkPg j, evtPg]) PbaWords ∧ t.units = { s.units with links := t.links, lanes := t.lanes }))

/-- RETRAIN, RETRAIN_DONE, SETTING_TIMEOUT, RETRY, RETRY_DONE and REGROW (R77 to R79); the host's ones served. RETRAIN of
a link that carries data puts it in RETRAIN and each of its lanes too; of one that does not it changes nothing. A
retraining lane tries the starts of R77 in their order; with the first that works it is ACTIVE, or SPARE_OK if its
link has left it out, with its three locks, irq 1 and the taps of that start: those in use, SLK.PRESET or a preset of
1 to 4; where none of those tried works nothing changes, and one that times out fails with cause NO_SETTING. RETRY of
a FAILED lane starts its standalone training, of another lane changes nothing; its end in success leaves it SPARE_OK
with no fail cause, its failure FAILED. REGROW of a link that is not DEGRADED changes nothing; where a wider set has
no FAILED lane (the model's bestSet), the link takes it and it and its lanes go to RETRAIN. Registers outside the
pages of the link, its lanes and the lane named and the event page, window words but the pending bits, memory, and the
units' state but the lanes' and links', are unchanged. -/
def Obligations.LinkRetraining : Prop :=
  ∀ (j n : Nat) (s : State), j < 64 → n < 64 →
    (∀ π, s.Serves π (0x60040 + 0x1000 * j) → s.carries j = true →
      ∃ t, exec (.retrain π j) s = .next t ∧ t.lkstate j = lkRetrain ∧
        (∀ x ∈ s.linkLanes j, x < 64 → t.lstate x = lsRetrain) ∧
        Frame s t (InPages (lnkPg j :: evtPg :: (s.linkLanes j).map slkPg)) PbaWords ∧ t.units = { s.units with lanes := t.lanes, links := t.links }) ∧
    (∀ π, s.Serves π (0x60040 + 0x1000 * j) → s.carries j = false → ∃ o, exec (.retrain π j) s = .next { s with opened := o }) ∧
    (∀ r : RetrainEnd, s.laneLink n = some j → s.lstate n = lsRetrain →
      (∀ k, r.works.findIdx? id = some k → k ≤ 5 → ∃ t, exec (.retrainDone n r) s = .next t ∧
        t.lstate n = (if n ∈ s.linkLanes j then lsActive else lsSpareOk) ∧
        ((t.lane n).pre, (t.lane n).post) = (match k with
          | 0 => ((s.lane n).pre, (s.lane n).post)
          | 1 => s.presetTaps n 5
          | m + 2 => s.presetTaps n (m + 1)) ∧
        t.fld (R.SLK_STAT_CDR_LOCK n) = 1 ∧ t.fld (R.SLK_STAT_FEC_LOCK n) = 1 ∧ t.fld (R.SLK_STAT_MARKER_LOCK n) = 1 ∧ Raised t (slkPg n) 1 ∧
        Frame s t (InPages [lnkPg j, evtPg, slkPg n]) PbaWords ∧ t.units = { s.units with lanes := t.lanes }) ∧
      ((∀ k, r.works.findIdx? id = some k → 5 < k) → exec (.retrainDone n r) s = .next s)) ∧
    (s.laneLink n = some j → s.lstate n = lsRetrain → ∃ t, exec (.settingTimeout n) s = .next t ∧ t.lstate n = lsFailed ∧
        t.fld (R.SLK_STAT_FAIL_CAUSE n) = fcNoSetting ∧
        Frame s t (InPages (lnkPg j :: evtPg :: slkPg n :: (s.linkLanes j ++ s.cfgLanes j).map slkPg)) PbaWords ∧
        t.units = { s.units with lanes := t.lanes, links := t.links }) ∧
    (∀ π, s.Serves π (0x20040 + 0x1000 * n) → s.lstate n = lsFailed → ∃ t, exec (.retry π n) s = .next t ∧
        t.lstate n = lsTrain ∧ (t.lane n).alone = true ∧ Frame s t (InPages [slkPg n]) NoWord ∧ t.units = { s.units with lanes := t.lanes }) ∧
    (∀ π, s.Serves π (0x20040 + 0x1000 * n) → s.lstate n ≠ lsFailed → ∃ o, exec (.retry π n) s = .next { s with opened := o }) ∧
    (s.laneLink n = some j → (s.lane n).alone = true → ∃ t, exec (.retryDone n true) s = .next t ∧
        t.lstate n = lsSpareOk ∧ t.fld (R.SLK_STAT_FAIL_CAUSE n) = 0 ∧ Frame s t (InPages [slkPg n]) PbaWords ∧
        t.units = { s.units with lanes := t.lanes }) ∧
    (s.laneLink n = some j → (s.lane n).alone = true → ∃ t, exec (.retryDone n false) s = .next t ∧
        t.lstate n = lsFailed ∧ (t.lane n).alone = false ∧ Frame s t (InPages [slkPg n, lnkPg j, evtPg]) PbaWords ∧
        t.units = { s.units with lanes := t.lanes }) ∧
    (∀ π, s.Serves π (0x60040 + 0x1000 * j) → s.lkstate j ≠ lkDegraded → ∃ o, exec (.regrow π j) s = .next { s with opened := o }) ∧
    (∀ π f w, s.Serves π (0x60040 + 0x1000 * j) → s.lkstate j = lkDegraded →
      s.bestSet j (s.fld (R.LNK_CFG_WIDTH j)) s.sound = some (f, w) →
      (s.link j).width < w → ∃ t, exec (.regrow π j) s = .next t ∧ t.lkstate j = lkRetrain ∧
        (t.link j).first = f ∧ (t.link j).width = w ∧ (∀ x ∈ lanesOf f w, x < 64 → t.lstate x = lsRetrain) ∧
        Frame s t (InPages (lnkPg j :: evtPg :: (s.linkLanes j ++ lanesOf f w).map slkPg)) PbaWords ∧
        t.units = { s.units with lanes := t.lanes, links := t.links })

/-- DORMANT_REQ, DORMANT_ACK_TIMEOUT, WAKE_REQ, WAKE_TONE, WAKE_TIMEOUT, PRESET_SAVE and PRESET_CLR (R80, R81; the presets
of SLK.CTL). A DORMANT request of a link that carries data, has no request out and feeds no run is sent and awaits its
answer; with the run it is refused and DORM_REFUSED set. Where no acknowledge comes the request ends with DORM_REFUSED
set. A wake, from the host or as a tone, takes a DORMANT link to WAKING; a host wake of another link changes nothing.
A waking lane that misses a bound takes its link to RETRAIN. PRESET_SAVE at step 4 or above stores the taps in use of
both ends and sets VALID; below it nothing changes. PRESET_CLR clears them. Registers outside the pages of the link
and its lanes, the event page, PWR.STAT.DORM_LEFT_UP and the NVR page, window words but the pending bits, memory, and
the units' state but the lanes' and links' are unchanged. -/
def Obligations.LinkDormancy : Prop :=
  ∀ (j n : Nat) (s : State), j < 64 → n < 64 →
    (∀ π, s.Serves π (0x60040 + 0x1000 * j) → s.carries j = true →
      s.bit (R.LNK_CTL_DORMANT_REQ j) = false → ((s.running && s.tileSetUsed j) = false → ∃ t, exec (.dormantReq π j) s = .next t ∧
        t.fld (R.LNK_CTL_DORMANT_REQ j) = 1 ∧ (t.link j).dormWait = true ∧
        Frame s t (Keys [R.LNK_CTL_DORMANT_REQ j]) NoWord ∧ t.units = { s.units with links := t.links }) ∧
      ((s.running && s.tileSetUsed j) = true → ∃ t, exec (.dormantReq π j) s = .next t ∧
        t.fld (R.LNK_STAT_DORM_REFUSED j) = 1 ∧ Frame s t (Keys [R.LNK_STAT_DORM_REFUSED j]) NoWord ∧ t.units = s.units)) ∧
    ((s.link j).dormWait = true → (s.link j).dormAcked = false → ∃ t, exec (.dormantAckTimeout j) s = .next t ∧
        t.fld (R.LNK_CTL_DORMANT_REQ j) = 0 ∧ t.fld (R.LNK_STAT_DORM_REFUSED j) = 1 ∧ (t.link j).dormWait = false ∧
        Frame s t (Keys [R.LNK_CTL_DORMANT_REQ j, R.LNK_STAT_DORM_REFUSED j, R.PWR_STAT_DORM_LEFT_UP]) NoWord ∧
        t.units = { s.units with links := t.links }) ∧
    (∀ π, s.Serves π (0x60040 + 0x1000 * j) → s.lkstate j = lkDormant → ∃ t, exec (.wakeReq π j) s = .next t ∧
        t.lkstate j = lkWaking ∧ Frame s t (InPages (lnkPg j :: evtPg :: (s.linkLanes j).map slkPg)) PbaWords ∧ t.units = s.units) ∧
    (∀ π, s.Serves π (0x60040 + 0x1000 * j) → s.lkstate j ≠ lkDormant → ∃ o, exec (.wakeReq π j) s = .next { s with opened := o }) ∧
    (s.lkstate j = lkDormant → ∃ t, exec (.wakeTone j) s = .next t ∧ t.lkstate j = lkWaking ∧
        Frame s t (InPages (lnkPg j :: evtPg :: (s.linkLanes j).map slkPg)) PbaWords ∧ t.units = s.units) ∧
    (s.laneLink n = some j → s.lstate n = lsWaking → ∃ t, exec (.wakeTimeout n) s = .next t ∧ t.lkstate j = lkRetrain ∧
        Frame s t (InPages (lnkPg j :: evtPg :: slkPg n :: (s.linkLanes j).map slkPg)) PbaWords ∧
        t.units = { s.units with lanes := t.lanes }) ∧
    (∀ π, s.Serves π (0x20040 + 0x1000 * n) → 4 ≤ s.fld (R.SLK_STAT_STEP n) → ∃ t, exec (.presetSave π n) s = .next t ∧
        t.fld (R.SLK_PRESET_VALID n) = 1 ∧
        t.fld (R.SLK_PRESET_OWN_PRE n) = (s.txTaps n).1 % 2 ^ (R.SLK_PRESET_OWN_PRE n).w ∧
        t.fld (R.SLK_PRESET_OWN_POST n) = (s.txTaps n).2 % 2 ^ (R.SLK_PRESET_OWN_POST n).w ∧
        t.fld (R.SLK_PRESET_PEER_PRE n) = s.fld (R.SLK_PEER_FFE_PRE n) % 2 ^ (R.SLK_PRESET_PEER_PRE n).w ∧
        t.fld (R.SLK_PRESET_PEER_POST n) = s.fld (R.SLK_PEER_FFE_POST n) % 2 ^ (R.SLK_PRESET_PEER_POST n).w ∧
        Frame s t (InPages [slkPg n, pg .nvr]) NoWord ∧ t.units = s.units) ∧
    (∀ π, s.Serves π (0x20040 + 0x1000 * n) → s.fld (R.SLK_STAT_STEP n) < 4 → ∃ o, exec (.presetSave π n) s = .next { s with opened := o }) ∧
    (∀ π, s.Serves π (0x20040 + 0x1000 * n) → ∃ t, exec (.presetClr π n) s = .next t ∧
        t.fld (R.SLK_PRESET_VALID n) = 0 ∧ t.fld (R.SLK_PRESET_OWN_PRE n) = 0 ∧ t.fld (R.SLK_PRESET_PEER_PRE n) = 0 ∧
        Frame s t (InPages [slkPg n, pg .nvr]) NoWord ∧ t.units = s.units)

/-- FRAME_TICK, LOAD_SYNC, LOAD_NOW, LOAD_CANCEL and NOW_LOAD (R85 to R87, R96); the host's ones served. Once the grids
run a tick advances the device's tick count by one, and ARR.NOW by one where the domain of the arrival area is on
(else ARR.NOW stays); a memory fill in progress goes on, by at most 6,291,456 bytes. With no run active LOAD_NOW
becomes the pending load, and so does LOAD_SYNC where the SYNC grid has a period; with a run active each is ignored
and CFG_BLOCKED is set, and so is a LOAD_SYNC where the grid has no period and no realign is pending. LOAD_CANCEL
leaves no pending load. At a tick later than the one it was written in a pending load (LOAD_SYNC: at an edge of the
SYNC grid) copies NOW_LD into NOW, sets NOW_VALID, counts every resident tile in INVAL_UNUSED, clears the residency
map and ends the load; with none pending nothing changes. Registers outside the pages TOD, TRN2, ARR, CHN and EVT (a
load: ARR, CHN1 and EVT; a tick while a fill runs: and the pages from the memory controllers' up), window words but
the pending bits, memory (but while a fill runs), and the units' state but the arrival area's, the channeliser's, the
evaluator's, the time of day's, memory's while a fill runs, and the tick count, are unchanged. -/
def Obligations.FrameClock : Prop :=
  ∀ (s : State),
    (s.gridOn = true → ∃ t, exec .frameTick s = .next t ∧
      t.fld R.ARR_NOW = (if s.domOn 7 then (s.fld R.ARR_NOW + 1) % 2 ^ 48 else s.fld R.ARR_NOW) ∧ t.ticks = s.ticks + 1 ∧
      (s.bit R.MAP_STAT_FILL_BUSY = false → Frame s t (InPages [pg .tod, trn2Pg, pg .arr, pg .chn0, pg .chn1, evtPg]) PbaWords ∧
        t.units = { s.units with tod := t.tod, ticks := t.ticks, chn := t.chn }) ∧
      (s.bit R.MAP_STAT_FILL_BUSY = true → s.dram.fillPos ≤ t.dram.fillPos ∧ t.dram.fillPos ≤ s.dram.fillPos + 6291456 ∧
        RegFrame s t (PagesOrMemory [pg .tod, trn2Pg, pg .arr, pg .chn0, pg .chn1, evtPg]) PbaWords ∧
        t.units = { s.units with tod := t.tod, ticks := t.ticks, chn := t.chn, dram := t.dram })) ∧
    (∀ π, s.Serves π 0xA0040 → s.running = false →
      (∃ t, exec (.loadNow π) s = .next t ∧ t.arr.load = .now ∧ t.fld R.ARR_STAT_LOAD_PEND = 1 ∧
        Frame s t (InPages [pg .arr]) NoWord ∧ t.units = { s.units with arr := t.arr }) ∧
      (s.fld R.TRN2_SYNC_PERIOD_FRAMES ≠ 0 → ∃ t, exec (.loadSync π) s = .next t ∧ t.arr.load = .sync ∧ t.fld R.ARR_STAT_LOAD_PEND = 1 ∧
        Frame s t (InPages [pg .arr]) NoWord ∧ t.units = { s.units with arr := t.arr })) ∧
    (∀ π c, s.Serves π 0xA0040 → (s.running = true ∧ c ∈ [Instr.loadNow π, .loadSync π] ∨
        s.fld R.TRN2_SYNC_PERIOD_FRAMES = 0 ∧ s.tarn.realign = false ∧ c = Instr.loadSync π) → ∃ t, exec c s = .next t ∧
      t.fld R.ARR_STAT_CFG_BLOCKED = 1 ∧ Frame s t (Keys [R.ARR_STAT_CFG_BLOCKED]) NoWord ∧ t.units = s.units) ∧
    (∀ π, s.Serves π 0xA0040 → ∃ t, exec (.loadCancel π) s = .next t ∧ t.arr.load = .none ∧ t.fld R.ARR_STAT_LOAD_PEND = 0 ∧
      Frame s t (InPages [pg .arr]) NoWord ∧ t.units = { s.units with arr := t.arr }) ∧
    (s.arr.load = .none → exec .nowLoad s = .next s) ∧
    (s.arr.loadTick < s.ticks → (s.arr.load = .now ∨ s.arr.load = .sync ∧ s.syncEdge = true) → ∃ t, exec .nowLoad s = .next t ∧
      t.fld R.ARR_NOW = s.fld R.ARR_NOW_LD % 2 ^ 48 ∧ t.fld R.ARR_STAT_NOW_VALID = 1 ∧ t.fld R.ARR_RESIDENT = 0 ∧
      t.fld R.ARR_INVAL_UNUSED = (s.fld R.ARR_INVAL_UNUSED + s.fld R.ARR_RESIDENT) % 2 ^ 48 ∧
      t.arr.load = .none ∧ t.arr.resident = [] ∧
      Frame s t (InPages [pg .arr, chn1, evtPg]) PbaWords ∧ t.units = { s.units with arr := t.arr, chn := t.chn, dly := t.dly })

/-- TILE_PLACE (R95). Where the residency bit of the slot of the oldest accepted tile is already set for the tile's frame,
the tile is a duplicate: it is counted once in ARR.INVAL_DUP, it leaves the accepted tiles, and nothing else changes.
No byte of memory and no residency bit changes, so the tile placed first stands. -/
def Obligations.DuplicateTile : Prop :=
  ∀ (s : State) (x : TileIn) (rest : List TileIn), s.arr.accepted = x :: rest →
    ({ s with arr := { s.arr with accepted := rest } }).residentFrame (s.slotOf x.frame x.group x.chan) = some x.frame →
    ∃ t, exec .tilePlace s = .next t ∧ t.fld R.ARR_INVAL_DUP = (s.fld R.ARR_INVAL_DUP + 1) % 2 ^ 48 ∧
      t.arr = { s.arr with accepted := rest } ∧ t.dram = s.dram ∧
      Frame s t (Keys [R.ARR_INVAL_DUP]) NoWord ∧ t.units = { s.units with arr := t.arr }

/-- ARR_ENABLE, ARR_DISABLE, INIT_DONE, FRAME_CLOSE, SLOT_EXPIRY, TILE_PLACE and SLOT_READ (R89 to R97, R99, R110); the
host's ones served. Enabling a disabled area with its domain on: a bad CFG records its error code and ENABLE stays 0;
else the resident tiles are counted in INVAL_UNUSED, the residency map is cleared and INIT_BUSY is set. INIT_DONE ends
that, raises its source and makes the bytes of the directory, to the end of its region, 0. Disabling clears both INIT
bits. At a close the tiles accepted so far are placed first. A frame closes once, above the window's floor of the last
load, and is remembered; its missing slots (none at a CPLX4 pair's odd frame) are counted, and one or more record
error 0x11 once and raise MISSING; else nothing more changes. At an expiry every resident slot of frame NOW + AHEAD −
D, and no other, loses its residency bit; each counts in INVAL_OVERRUN where a run was active at that frame and the
slot lies in its tile set, else in INVAL_UNUSED, and with at least one overrun OVERRUN is set, error 0x10 recorded
once and OVERRUN raised; with NOW not valid or the area disabled nothing changes. A tile whose slot does not hold its
frame is placed: the slot's residency bit is set for its frame; into an empty slot its payload and then its descriptor
are written at the slot's addresses, and while no fill runs every byte outside the words of the two is unchanged. A
read before NOW is valid, of a slot outside the geometry or of a frame not closed does nothing; else it is the
verified read: every byte of memory outside the words of the descriptor and the payload is unchanged, and the first
read of a resident tile clears its residency bit and counts in CONSUMED, INVAL_POISON or INVAL_CRC by its cause.
Registers outside the ARR and EVT pages (an INIT_DONE, placement or read: outside ARR, below the memory controllers'
pages), window words but the pending bits, and the units' state but the arrival area's and the memory's, are
unchanged. -/
def Obligations.ArrivalArea : Prop :=
  ∀ (s : State),
    (∀ π, s.Serves π 0xA0008 → s.bit (R.PG_CTL_ENABLE (pg .arr)) = false → s.domOn (pg .arr).domain = true →
      (∀ c, s.arrRefused = some c → ∃ t, exec (.arrEnable π) s = .next t ∧
        t.fld (R.PG_CTL_ENABLE (pg .arr)) = s.fld (R.PG_CTL_ENABLE (pg .arr)) ∧ Records s t (pg .arr) c ∧
        Frame s t (InPages [pg .arr, evtPg]) PbaWords ∧ t.units = s.units) ∧
      (s.arrRefused = none → ∃ t, exec (.arrEnable π) s = .next t ∧ t.fld (R.PG_CTL_ENABLE (pg .arr)) = 1 ∧
        t.fld R.ARR_STAT_INIT_BUSY = 1 ∧ t.fld R.ARR_STAT_INIT_DONE = 0 ∧ t.arr.resident = [] ∧
        t.fld R.ARR_INVAL_UNUSED = (s.fld R.ARR_INVAL_UNUSED + s.fld R.ARR_RESIDENT) % 2 ^ 48 ∧
        Frame s t (InPages [pg .arr]) NoWord ∧ t.units = { s.units with arr := t.arr })) ∧
    (∀ π, s.Serves π 0xA0008 → s.bit (R.PG_CTL_ENABLE (pg .arr)) = true → ∃ t, exec (.arrDisable π) s = .next t ∧
      t.fld (R.PG_CTL_ENABLE (pg .arr)) = 0 ∧ t.fld R.ARR_STAT_INIT_DONE = 0 ∧ t.fld R.ARR_STAT_INIT_BUSY = 0 ∧
      Frame s t (InPages [pg .arr]) NoWord ∧ t.units = { s.units with arr := t.arr }) ∧
    (∀ a n, a = s.fld R.ARR_DIR_BASE * 4096 → n = s.depth / framesPerSlot (s.fld R.ARR_GEOM_MODE) * 65536 →
      s.bit R.ARR_STAT_INIT_BUSY = true → ∃ t, exec .initDone s = .next t ∧ t.fld R.ARR_STAT_INIT_DONE = 1 ∧
      t.fld R.ARR_STAT_INIT_BUSY = 0 ∧ Raised t (pg .arr) 3 ∧
      (s.dramOpen .arrive = true → ∀ r o, s.rgnOf a = some (r, o) → ∀ p, t.dram.byteAt p =
        match offsetIn (s.rgnOrder r) (s.rgnChans r) (s.rgnCbase r) p with
        | some k => if o ≤ k ∧ k < min (o + n) (s.rgnSize r) then some 0 else s.dram.byteAt p
        | none => s.dram.byteAt p) ∧
      RegFrame s t (PagesOrMemory [pg .arr]) PbaWords ∧ t.units = { s.units with dram := t.dram }) ∧
    (∀ r f n, r = s.placeAll → f = (r.now + m48 - r.lat) % m48 →
      n = (if framesPerSlot (r.geomMode f) = 2 ∧ f % 2 = 1 then 0 else r.missingSlots f) →
      (r.arrOpen = true → (∀ l, r.arr.floor = some l → 0 < seqDiff 48 f l) → r.arr.closed ≠ some f →
        (n = 0 → exec .frameClose s = .next { r with arr := { r.arr with closed := some f } }) ∧
        (n ≠ 0 → ∃ t, exec .frameClose s = .next t ∧ t.fld R.ARR_MISSING_SLOTS = (r.fld R.ARR_MISSING_SLOTS + n) % 2 ^ 48 ∧
          t.arr.closed = some f ∧ Records r t (pg .arr) 0x11 ∧ Raised t (pg .arr) 2 ∧
          Frame r t (InPages [pg .arr, evtPg]) PbaWords ∧ t.units = { r.units with arr := t.arr })) ∧
      (r.arrOpen = false ∨ r.arr.closed = some f ∨ (∃ l, r.arr.floor = some l ∧ seqDiff 48 f l ≤ 0) → exec .frameClose s = .next r)) ∧
    (s.bit R.ARR_STAT_NOW_VALID = false ∨ s.bit (R.PG_CTL_ENABLE (pg .arr)) = false → exec .slotExpiry s = .next s) ∧
    (∀ (h n : Nat) (σs ov : List Nat), h = (s.now + m48 + s.fld R.ARR_CFG_AHEAD - s.depth) % m48 → n = groupsOf (s.geomN h) →
      σs = (s.arr.resident.filter (fun e => decide (e.2 = h + 1))).map (fun e => e.1) →
      ov = σs.filter (fun σ => s.runAt h &&
        s.inAnyTileSet h (σ % max 1 (s.slotsPer h) % max 1 n) (σ % max 1 (s.slotsPer h) / max 1 n)) →
      s.bit R.ARR_STAT_NOW_VALID = true → s.bit (R.PG_CTL_ENABLE (pg .arr)) = true → ∃ t, exec .slotExpiry s = .next t ∧
        (∀ σ ∈ σs, t.residentFrame σ = none) ∧ (∀ σ, σ ∉ σs → t.residentFrame σ = s.residentFrame σ) ∧
        t.fld R.ARR_INVAL_OVERRUN % 2 ^ 48 = (s.fld R.ARR_INVAL_OVERRUN + ov.length) % 2 ^ 48 ∧
        t.fld R.ARR_INVAL_UNUSED % 2 ^ 48 = (s.fld R.ARR_INVAL_UNUSED + (σs.length - ov.length)) % 2 ^ 48 ∧
        (ov = [] → t.fld R.ARR_STAT_OVERRUN = s.fld R.ARR_STAT_OVERRUN ∧ Frame s t (Keys [R.ARR_RESIDENT, R.ARR_INVAL_UNUSED]) NoWord) ∧
        (ov ≠ [] → t.fld R.ARR_STAT_OVERRUN = 1 ∧ Records s t (pg .arr) 0x10 ∧ Raised t (pg .arr) 1) ∧
        Frame s t (InPages [pg .arr, evtPg]) PbaWords ∧ t.units = { s.units with arr := t.arr }) ∧
    (∀ x rest σ w, s.arr.accepted = x :: rest → w = ({ s with arr := { s.arr with accepted := rest } } : State) → σ = s.slotOf x.frame x.group x.chan → s.residentFrame σ ≠ some x.frame →
      ∃ t, exec .tilePlace s = .next t ∧ t.residentFrame σ = some x.frame ∧ t.arr.accepted = rest ∧
        (s.bit R.MAP_STAT_FILL_BUSY = false → ∀ b, ¬ s.InWords .arrive (s.payAddr x.frame x.group x.chan) x.payload.length b →
          ¬ s.InWords .arrive (s.descAddr x.frame x.group x.chan) 16 b → t.dram.byteAt b = s.dram.byteAt b) ∧
        (s.residentFrame σ = none → t.dram = ((w.writeDram .arrive (s.payAddr x.frame x.group x.chan) x.payload).2.writeDram .arrive
          (s.descAddr x.frame x.group x.chan) (descBytes x)).2.dram) ∧
        RegFrame s t (PagesOrMemory [pg .arr]) PbaWords ∧ t.units = { s.units with arr := t.arr, dram := t.dram }) ∧
    (∀ f g c, s.bit R.ARR_STAT_NOW_VALID = false ∨ groupsOf (s.geomN f) ≤ g ∨ s.geomCc f ≤ c ∨ seqDiff 48 s.now f < (s.lat : Int) →
      exec (.slotRead f g c) s = .next s) ∧
    (∀ f g c e, s.bit R.ARR_STAT_NOW_VALID = true → g < groupsOf (s.geomN f) → c < s.geomCc f → (s.lat : Int) ≤ seqDiff 48 s.now f →
      e = (if framesPerSlot (s.geomMode f) = 2 then f - f % 2 else f) →
      ∃ t, exec (.slotRead f g c) s = .next t ∧ t = (s.readSlot false f g c).2 ∧
        (∀ b, ¬ s.InWords .chanRd (s.descAddr e g c) 16 b → ¬ s.InWords .chanRd (s.payAddr e g c) 2048 b → t.dram.byteAt b = s.dram.byteAt b) ∧
        (∀ k, s.residentFrame (s.slotOf e g c) = some e → s.bit (R.PG_CTL_ENABLE (pg .arr)) = true →
          k = (if (s.readSlot false f g c).1.1 = cPoison then R.ARR_INVAL_POISON
            else if (s.readSlot false f g c).1.1 = 0 then R.ARR_CONSUMED else R.ARR_INVAL_CRC) →
          t.residentFrame (s.slotOf e g c) = none ∧ t.fld k = (s.fld k + 1) % 2 ^ 48) ∧
        RegFrame s t (PagesOrMemory [pg .arr]) PbaWords ∧ t.units = { s.units with arr := t.arr, dram := t.dram })

/-- UPDATE_INTERVAL (R101, R105 to R109). For interval j of the active UPD_EXP, first sample smp = j × 2^UPD_EXP and its
frame f: where n inputs have a read offset that is not applied at one of its frames, DLY.CLAMP_CNT advances by n and
CLAMPED is set, and with n = 0 neither changes. EXPIRED is 1 after it where the interval is expired, else 0;
EXPIRED_FRAMES changes only where it is expired. The probe registers show what the evaluator gives the probed input,
zeros for one at or above N. Registers outside the DLY page, window words but the pending bits, memory, and the units'
state but the evaluator's are unchanged. -/
def Obligations.DelayIntervals : Prop :=
  ∀ (s : State) (j u smp f n : Nat), u = 2 ^ s.fld R.DLY_CFG_UPD_EXP → smp = j * u → f = smp / 16 % m48 → n = (s.clampedInputs f (u / 16)).length →
    ∃ t, exec (.updateInterval j) s = .next t ∧
      (n = 0 → t.fld R.DLY_CLAMP_CNT = s.fld R.DLY_CLAMP_CNT ∧ t.fld R.DLY_STAT_CLAMPED = s.fld R.DLY_STAT_CLAMPED) ∧
      (n ≠ 0 → t.fld R.DLY_CLAMP_CNT = (s.fld R.DLY_CLAMP_CNT + n) % 2 ^ R.DLY_CLAMP_CNT.w ∧ t.fld R.DLY_STAT_CLAMPED = 1) ∧
      (s.segExpired f smp = true → t.fld R.DLY_STAT_EXPIRED = 1) ∧
      (s.segExpired f smp = false → t.fld R.DLY_STAT_EXPIRED = 0 ∧ t.fld R.DLY_EXPIRED_FRAMES = s.fld R.DLY_EXPIRED_FRAMES) ∧
      t.fld R.DLY_PROBE_PHASE = (s.probeVal f smp).phi % 2 ^ R.DLY_PROBE_PHASE.w ∧
      t.fld R.DLY_PROBE_DFRAC = (s.probeVal f smp).dfrac % 2 ^ R.DLY_PROBE_DFRAC.w ∧
      t.fld R.DLY_PROBE_DINT = unsgn 32 (s.probeVal f smp).probe % 2 ^ R.DLY_PROBE_DINT.w ∧
      Frame s t (InPages [pg .dly]) PbaWords ∧ t.units = { s.units with dly := t.dly }

/-- CHUNK_START, CHUNK_PAIR and CHUNK_END (R115, R119, R136, R151). With no chunk in progress, the arrival area open, the
channeliser's domain on and the chunk's last frame closed, the next chunk is in progress with its pairs in order, its
length that of the set in force at its first frame, marked where its lag exceeds the limit, the one after it begins at
its end, and RUNNING is 1; with a chunk in progress CHUNK_START changes nothing. CHUNK_PAIR takes the first pair off
the chunk's list, and with none left changes nothing; where one configuration stands over the chunk and has the pair,
its rows follow those that wait (each fine sample in ascending order, each bin in ascending order, 64 positions a row,
an invalid position with a zero byte and a clear valid bit), and each input of the group counts, for its fine samples
that lie in a run, the bins produced, the bins of each cause of R111 and the clamps (R136), as the results of the pair
say, whose samples R111, R134 and R135 give: a support with an invalid sample gives every bin its first cause, one
with a read offset that changes gives SETTLE, or POISON where the gain is poison, any other its corrected bins. Once
no pair is left and the writer is idle, CHUNK_END leaves no chunk in progress, counts it in CHUNKS, clears RUNNING,
and closes each span whose last frame it holds; before that it changes nothing. Registers outside CHN1 and EVT (a
pair: outside ARR, CHN1, the input counters and memory's pages), window words but the pending bits, and the units'
state but the channeliser's, and the Mere's at an end, and the arrival area's and memory's at a pair, are unchanged;
memory too but at a pair. -/
def Obligations.Chunks : Prop :=
  ∀ (s : State),
    (∀ q a lo hi, s.nextChunk = (q, a, lo) → hi = (a + 1) * q → s.chn.chunk = none → s.arrOpen = true →
      s.domOn chn0.domain = true → s.frameClosed (hi - 1) = true → ∃ t, exec .chunkStart s = .next t ∧
        t.chn = { s.chn with chunk := some ⟨a, q, lo, s.chunkPairs lo hi, decide (lagLimit q < seqDiff 48 s.now (a * q + s.lat))⟩, next := some (hi % m48) } ∧
        t.fld R.CHN1_STAT_RUNNING = 1 ∧ Frame s t (InPages [chn1, evtPg]) PbaWords ∧ t.units = { s.units with chn := t.chn }) ∧
    (s.chn.chunk.isSome = true → exec .chunkStart s = .next s) ∧
    (s.chn.chunk = none → exec .chunkPair s = .next s ∧ exec .chunkEnd s = .next s) ∧
    (∀ c, s.chn.chunk = some c →
      (c.pairs = [] → exec .chunkPair s = .next s) ∧
      (∀ q rest, c.pairs = q :: rest → ∃ t, exec .chunkPair s = .next t ∧ t.chn.chunk = some { c with pairs := rest } ∧
        t.chn.next = s.chn.next ∧
        (∃ l, t.chn.rows = s.chn.rows ++ l ∧ ∀ x ∈ l, x.group = q.2 ∧ x.bytes.length = 64 ∧ ∀ i < 64, x.valid.testBit i = false → x.bytes[i]? = some 0) ∧
        (∀ d res, s.segments c.lo ((c.num + 1) * c.len) = [(d, c.lo, (c.num + 1) * c.len)] → q.1 < d.nCC → q.2 < groupsOf d.n →
          res = (s.segResult q.1 q.2 d c.lo ((c.num + 1) * c.len)).1 →
          t.chn.rows = s.chn.rows ++ pairRows d q.1 q.2 (d.gridBase c.lo) (d.fineAt c.lo c.lo) (d.fineAt c.lo ((c.num + 1) * c.len)) (res.map (fun x => x.2.1)) ∧
          res.map (fun x => x.1) = d.groupInputs q.2 ∧
          ∀ x ∈ res, ∀ live : List Nat, live = (x.2.1.zipIdx.filter (fun y =>
              s.runAt ((d.gridBase c.lo + d.newLen * (d.fineAt c.lo c.lo + y.2)) / 16 % m48))).flatMap (fun y => y.1.bins.map (fun b => b.1)) →
            t.fld (inputCtr x.1 0) = (s.fld (inputCtr x.1 0) + live.length) % 2 ^ 48 ∧
            (∀ k < 10, t.fld (inputCtr x.1 (k + 1)) % 2 ^ 48 = (s.fld (inputCtr x.1 (k + 1)) + live.count k) % 2 ^ 48) ∧
            t.fld (inputCtr x.1 11) % 2 ^ 48 = (s.fld (inputCtr x.1 11) + (x.2.1.map (fun y => y.clamps)).sum) % 2 ^ 48) ∧
        RegFrame s t (PagesOrMemory [pg .arr, chn1]) PbaWords ∧
        t.units = { s.units with chn := t.chn, arr := t.arr, dram := t.dram }) ∧
      (c.pairs ≠ [] ∨ s.writerIdle = false → exec .chunkEnd s = .next s) ∧
      (c.pairs = [] → s.writerIdle = true → ∃ t, exec .chunkEnd s = .next t ∧ t.chn = { s.chn with chunk := none } ∧
        t.fld R.CHN1_CHUNKS = (s.fld R.CHN1_CHUNKS + 1) % 2 ^ R.CHN1_CHUNKS.w ∧ t.fld R.CHN1_STAT_RUNNING = 0 ∧
        t.mere.closed = s.mere.closed ++ (s.spansIn c.lo ((c.num + 1) * c.len)).map (fun j => (j, s.ticks)) ∧
        Frame s t (InPages [chn1]) NoWord ∧ t.units = { s.units with chn := t.chn, mere := t.mere })) ∧
    (∀ (d : Cfg) cc i base lo hi p gs col k sn sup, k < hi - lo → sn = base + d.newLen * (lo + k) →
      sup = (col.drop (sn + d.newLen - d.support - p)).take d.support →
      (firstCause sup ≠ 0 → (s.fineInput d cc i base lo hi p gs col).1[k]? = some (deadFine d (firstCause sup))) ∧
      (firstCause sup = 0 → d.chan = true → discont sup = true →
        (s.fineInput d cc i base lo hi p gs col).1[k]? = some (settleFine d (s.fineCfg (sn / 16 % m48)) (i % 64) gs)) ∧
      (firstCause sup = 0 → d.chan = false ∨ discont sup = false → ∃ h u, (s.fineInput d cc i base lo hi p gs col).1[k]? =
        some (fineSample d (s.fineCfg (sn / 16 % m48)) cc (i % 64) (s.tabAt chn0 (sn / 16 % m48) (0x11E4000 + 4 * i) % 65536)
          (s.dlyVal (sn / 16 % m48) i sn) gs h u) ∧ (d.chan = true → h = s.coefs (s.fineCfg (sn / 16 % m48)).coef (d.mt * d.pts))))

/-- MERE_ROW_WRITE, MERE_DESCRIPTOR_WRITE, MERE_DIR_FILL_DONE and CHANNEL_RELEASE (R143 to R146, R152, R153, R157, R158,
R315). With no row nothing changes; a row of no run is dropped and nothing else changes. A row of an open tile that
has its 32 rows waits for the descriptor. A row adds its bytes to its tile's CRC, its valid bits to the running mask
by AND, and one to its rows; the first row of a tile opens it, counted in PRODUCED and in the open tiles, held where
an earlier pass still holds its place. The row of a tile not held goes to its place in the tile's payload, by the
model's write, or with an error response marks the tile; a held tile's row is not written, and its 32nd discards the
tile, counted in DISC_HELD. A tile with 32 rows gets its descriptor, written at the descriptor's address: it is no
longer open, WRITTEN and RESIDENT advance, and it is resident; not while the directory is being zeroed, and not with
fewer rows. DIR_FILL_DONE ends the zeroing: every byte of the directory of both halves, to the end of its region, is
0. A release takes the oldest accepted channel-pass of the channel away and, where that pass still holds its half,
marks the channel released in it, for no other pass. While no fill runs a row or a descriptor changes no byte outside
the words of its place. Registers outside the Mere page and from the memory controllers' pages up (of a directory
fill: below the memory controllers' pages), window words but the pending bits, and the units' state but those named,
are unchanged; a release changes no register and no memory. -/
def Obligations.MereWriter : Prop :=
  ∀ (s : State),
    (s.chn.rows = [] → ∀ b, exec (.mereRowWrite b) s = .next s) ∧
    (∀ r rest b, s.chn.rows = r :: rest → s.runAt r.frame = false →
      exec (.mereRowWrite b) s = .next { s with chn := { s.chn with rows := rest } }) ∧
    (∀ r rest b c tl pass tau u k a w, s.chn.rows = r :: rest → w = ({ s with chn := { s.chn with rows := rest } } : State) → s.runAt r.frame = true → c = s.cfgAt r.frame → tl = max 1 c.tLen →
      pass = c.pass0 + r.n / tl → tau = r.n % tl / 32 → u = c.tileIdx r.chan tau r.group → k = tileKey (pass % 2) u →
      a = c.tileAddr (pass % 2) u + 64 * (r.n % 32) →
      (∀ o, s.openTile k = some o →
        (o.rows = 32 → exec (.mereRowWrite b) s = .next s) ∧
        (o.held = false → o.rows ≠ 32 → ∃ t bad, exec (.mereRowWrite b) s = .next t ∧ t.openTile k = some { o with
            crc := crcRun o.crc r.bytes, mask := o.mask &&& r.valid, rows := o.rows + 1, fault := o.fault || bad } ∧
          (b = false → t.dram = (w.writeDram .mereWr a r.bytes).2.dram ∧ bad = decide ((w.writeDram .mereWr a r.bytes).1 ≠ .ok)) ∧
          (b = true → bad = true ∧ ∀ p, t.dram.byteAt p = s.dram.byteAt p) ∧
          t.chn = { s.chn with rows := rest } ∧ RegFrame s t (PagesOrMemory [merePg]) PbaWords ∧
          t.units = { s.units with chn := t.chn, mere := t.mere, dram := t.dram }) ∧
        (o.held = true → o.rows ≠ 32 → ∃ t, exec (.mereRowWrite b) s = .next t ∧
          t.openTile k = (if o.rows = 31 then none else some { o with
            crc := crcRun o.crc r.bytes, mask := o.mask &&& r.valid, rows := o.rows + 1 }) ∧
          (o.rows = 31 → t.fld R.MERE_DISC_HELD = (s.fld R.MERE_DISC_HELD + 1) % 2 ^ R.MERE_DISC_HELD.w ∧
            t.fld R.MERE_OPEN_COUNT = (s.fld R.MERE_OPEN_COUNT - 1) % 2 ^ R.MERE_OPEN_COUNT.w) ∧
          (o.rows ≠ 31 → Frame s t (Keys []) NoWord) ∧
          Frame s t (InPages [merePg]) NoWord ∧ t.units = { s.units with chn := t.chn, mere := t.mere })) ∧
      (s.openTile k = none → ∃ t bad, exec (.mereRowWrite b) s = .next t ∧ t.openTile k = some ⟨pass, r.chan, tau, r.group,
          crcRun 0xFFFFFFFF#32 r.bytes, (2 ^ 64 - 1) &&& r.valid, 1, (s.tileHeldBy c pass r.chan).isSome, bad, r.frame⟩ ∧
        t.fld R.MERE_PRODUCED = (s.fld R.MERE_PRODUCED + 1) % 2 ^ R.MERE_PRODUCED.w ∧
        t.fld R.MERE_OPEN_COUNT = (s.fld R.MERE_OPEN_COUNT + 1) % 2 ^ R.MERE_OPEN_COUNT.w ∧
        (s.tileHeldBy c pass r.chan = none → b = false → t.dram = ((w.openNew c pass tau r).2.writeDram .mereWr a r.bytes).2.dram) ∧
        ((s.tileHeldBy c pass r.chan).isSome = true → bad = false ∧ t.dram = s.dram) ∧
        RegFrame s t (PagesOrMemory [merePg]) PbaWords ∧ t.units = { s.units with chn := t.chn, mere := t.mere, dram := t.dram }) ∧
      (s.bit R.MAP_STAT_FILL_BUSY = false → ∃ t, exec (.mereRowWrite b) s = .next t ∧
        ∀ p, ¬ s.InWords .mereWr a r.bytes.length p → t.dram.byteAt p = s.dram.byteAt p)) ∧
    (∀ k o, s.mere.filling = false → s.openTile k = some o → o.rows = 32 → ∃ t, exec (.mereDescriptorWrite k) s = .next t ∧
        t.openTile k = none ∧ t.mere.resident = k :: s.mere.resident ∧
        t.fld R.MERE_WRITTEN = (s.fld R.MERE_WRITTEN + 1) % 2 ^ R.MERE_WRITTEN.w ∧
        t.fld R.MERE_RESIDENT = (s.fld R.MERE_RESIDENT + 1) % 2 ^ R.MERE_RESIDENT.w ∧
        (∀ a, a = (s.cfgOfPass o.pass).tileDesc (o.pass % 2) ((s.cfgOfPass o.pass).tileIdx o.chan o.tau o.group) →
          t.dram = (s.writeDram .mereWr a (mereDesc (s.cfgOfPass o.pass) o)).2.dram ∧
          (s.bit R.MAP_STAT_FILL_BUSY = false → ∀ p, ¬ s.InWords .mereWr a 16 p → t.dram.byteAt p = s.dram.byteAt p)) ∧
        RegFrame s t (PagesOrMemory [merePg]) PbaWords ∧ t.units = { s.units with mere := t.mere, dram := t.dram }) ∧
    (∀ k, s.mere.filling = true ∨ s.openTile k = none ∨ (∃ o, s.openTile k = some o ∧ o.rows ≠ 32) →
      exec (.mereDescriptorWrite k) s = .next s) ∧
    (s.mere.filling = false → exec .mereDirFillDone s = .next s) ∧
    (s.mere.filling = true → ∃ t, exec .mereDirFillDone s = .next t ∧ t.mere = { s.mere with filling := false } ∧
      (∀ c, c = s.cfgAt s.now → s.dramOpen .fill = true → ∀ r o, s.rgnOf c.dirBase = some (r, o) → ∀ p, t.dram.byteAt p =
        match offsetIn (s.rgnOrder r) (s.rgnChans r) (s.rgnCbase r) p with
        | some k => if o ≤ k ∧ k < min (o + 2 * c.tiles * 16) (s.rgnSize r) then some 0 else s.dram.byteAt p
        | none => s.dram.byteAt p) ∧
      RegFrame s t MemoryUp PbaWords ∧ t.units = { s.units with mere := t.mere, dram := t.dram }) ∧
    (∀ ch, s.bas.accepted.find? (fun a => a.2 == ch) = none → exec (.channelRelease ch) s = .next s) ∧
    (∀ ch a, s.bas.accepted.find? (fun a => a.2 == ch) = some a → ∃ t, exec (.channelRelease ch) s = .next t ∧
      t.bas = { s.bas with accepted := s.bas.accepted.filter (fun x => x != a) } ∧
      (∀ x ∈ t.mere.unrel, x.pass = a.1 → ch ∈ x.chans) ∧ ((∀ x ∈ s.mere.unrel, x.pass ≠ a.1) → t.mere = s.mere) ∧
      (∀ x, x.pass ≠ a.1 → (x ∈ t.mere.unrel ↔ x ∈ s.mere.unrel)) ∧
      Frame s t (Keys []) NoWord ∧ t.units = { s.units with bas := t.bas, mere := t.mere })

/-- PLAN_EVAL, PLAN_EVAL_DONE, EVAL and EVAL_DONE (R160, R162, R189); the host's ones served. PLAN_EVAL sets its bit and
starts an evaluation; its end writes PLAN_MEM and PLAN_BW of the configuration that all shadow sets spell, sets
PLAN_SRC and clears the bit. EVAL does the same while the XS arm is not CHECKING, else nothing; its end writes the _SH
shape registers: of a configuration that can be evaluated the slices' exponent, rounds, sub-passes, blocks, cost,
planned cycles and budget, and 0 in each of one that cannot. With no evaluation in progress the ends change nothing.
Registers outside the MERE page, or the XS page, all window words and memory, and the units' state but the Sward's,
are unchanged. -/
def Obligations.PlanAndShape : Prop :=
  ∀ (s : State),
    (∀ π, s.Serves π 0xC0040 → ∃ t, exec (.planEval π) s = .next t ∧ t.fld R.MERE_CTL_PLAN_EVAL = 1 ∧ t.sward.planBusy = true ∧
      Frame s t (Keys [R.MERE_CTL_PLAN_EVAL]) NoWord ∧ t.units = { s.units with sward := t.sward }) ∧
    (s.sward.planBusy = false → exec .planEvalDone s = .next s) ∧
    (∀ c, s.sward.planBusy = true → c = s.buildCfg (fun _ => true) → ∃ t, exec .planEvalDone s = .next t ∧
      t.fld R.MERE_PLAN_MEM_MIB = s.planMem c (s.bit R.CHN0_CFG_SH_EQ_EN) % 2 ^ R.MERE_PLAN_MEM_MIB.w ∧
      t.fld R.MERE_PLAN_BW_GBPS = c.planBw (s.bit R.CHN0_CFG_SH_EQ_EN) % 2 ^ R.MERE_PLAN_BW_GBPS.w ∧
      t.fld R.MERE_STAT_PLAN_SRC = 1 ∧ t.fld R.MERE_CTL_PLAN_EVAL = 0 ∧ t.sward = { s.sward with planBusy := false } ∧
      Frame s t (InPages [merePg]) NoWord ∧ t.units = { s.units with sward := t.sward }) ∧
    (∀ π, s.Serves π 0x160040 → s.fld (R.ARM_STATUS_STATE 0x160100) ≠ 1 → ∃ t, exec (.eval π) s = .next t ∧
      t.fld R.XS_CTL_EVAL = 1 ∧ t.sward = { s.sward with evalBusy := true } ∧
      Frame s t (Keys [R.XS_CTL_EVAL]) NoWord ∧ t.units = { s.units with sward := t.sward }) ∧
    (∀ π, s.Serves π 0x160040 → s.fld (R.ARM_STATUS_STATE 0x160100) = 1 → ∃ o, exec (.eval π) s = .next { s with opened := o }) ∧
    (s.sward.evalBusy = false → exec .evalDone s = .next s) ∧
    (∀ c, s.sward.evalBusy = true → c = s.buildCfg (fun _ => true) → ∃ t, exec .evalDone s = .next t ∧
      t.fld R.XS_CTL_EVAL = 0 ∧ t.sward = { s.sward with evalBusy := false } ∧
      (c.evaluable = true → t.fld R.XS_SHAPE_SH_S_EXP = Nat.log2 c.shape.s % 2 ^ R.XS_SHAPE_SH_S_EXP.w ∧
        t.fld R.XS_SHAPE_SH_N_R = c.shape.nr % 2 ^ R.XS_SHAPE_SH_N_R.w ∧ t.fld R.XS_SHAPE_SH_D = c.shape.d % 2 ^ R.XS_SHAPE_SH_D.w ∧
        t.fld R.XS_BLK_SH_N_BLK = c.shape.nblk % 2 ^ R.XS_BLK_SH_N_BLK.w ∧ t.fld R.XS_COST_SH_C16 = c.shape.c16 % 2 ^ R.XS_COST_SH_C16.w ∧
        t.fld R.XS_PLAN_CYC_SH_CYC = min 4294967295 c.planCyc % 2 ^ 32 ∧ t.fld R.XS_BUDGET_CYC_SH_CYC = min 4294967295 c.budget % 2 ^ 32) ∧
      (c.evaluable = false → ∀ f ∈ [R.XS_SHAPE_SH_S_EXP, R.XS_SHAPE_SH_CTX, R.XS_SHAPE_SH_N_R, R.XS_SHAPE_SH_D, R.XS_BLK_SH_N_BLK,
        R.XS_BLK_SH_W, R.XS_BLK_SH_U, R.XS_COST_SH_C16, R.XS_PLAN_CYC_SH_CYC, R.XS_BUDGET_CYC_SH_CYC], t.fld f = 0) ∧
      Frame s t (InPages [xsPg]) NoWord ∧ t.units = { s.units with sward := t.sward })

/-- PASS_START, MERE_READ, TAKEOVER and ENGINE_RETURN (R148 to R152, R265, R269 to R271, R315). Between sweeps, with no
pass in progress, the directory zeroed and the next pass's span the only one closed, that pass starts: it is in
progress with its first sweep next, its shown numbers stand in PASS_SEQ and INT_SEQ, PASS_ACTIVE and RUNNING read 1,
and its closed span is taken; with a pass in progress, or the directory being zeroed, nothing changes. A tile read is
staged with its masked payload and its effective mask, as the verified read gives them, at the port of its group
modulo 8, every byte of memory outside the words of its descriptor and payload unchanged; and with no sweep, a tile
the reader may not take, or a sweep's first read while all three slots of the mask store are taken, nothing changes. A
takeover puts the Fallow into the map, ends the schedule and is counted; with none scheduled nothing changes. At a
pass boundary the one engine of a group that may return is locked out where it has reverted twice in 24 h, and returns
otherwise, with its bore forgotten and RETURNS counted. Registers below the MERE page, window words but the pending
bits, and the units' state but the correlator's and, at a read, takeover or return, memory's, are unchanged. -/
def Obligations.PassSteps : Prop :=
  ∀ (s : State), s.sward.sweep = none →
    (s.mere.pass.isSome = true ∨ s.mere.filling = true → exec .passStart s = .next s) ∧
    (∀ j tick, s.mere.pass = none → s.mere.filling = false → s.mere.closed = [(j, tick)] → s.mere.next = j → ∃ t, exec .passStart s = .next t ∧
      t.mere.pass = some j ∧ t.mere.last = j ∧ t.mere.closed = [] ∧ t.sward.next = some ⟨j, 0, 0, 0⟩ ∧
      t.fld R.XS_PASS_SEQ = (s.cfgOfPass j).shown j % 2 ^ 32 ∧ t.fld R.XS_INT_SEQ = (s.cfgOfPass j).shownInt ((s.cfgOfPass j).intOf j) % 2 ^ 32 ∧
      t.fld R.XS_STAT_PASS_ACTIVE = 1 ∧ t.fld R.MERE_STAT_RUNNING = 1 ∧ Frame s t CorrelatorUp PbaWords ∧
      t.units = { s.units with mere := t.mere, sward := t.sward, bas := t.bas, beam := t.beam }) ∧
    (∀ tau g, exec (.mereRead tau g) s = .next s) ∧
    (∀ tau g w, s.mayRead (s.cfgOfPass w.pass) w tau g = false →
      exec (.mereRead tau g) { s with sward := { s.sward with sweep := some w } } = .next { s with sward := { s.sward with sweep := some w } }) ∧
    (∀ tau g w u, u = { s with sward := { s.sward with sweep := some w } } → u.mayRead (s.cfgOfPass w.pass) w tau g = true →
      (u.maskReady (s.cfgOfPass w.pass) w = false → 3 ≤ u.bas.masks.length → exec (.mereRead tau g) u = .next u) ∧
      (u.maskReady (s.cfgOfPass w.pass) w = true ∨ u.bas.masks.length < 3 → ∃ t x, exec (.mereRead tau g) u = .next t ∧ t.sward = { u.sward with staging := x :: u.sward.staging } ∧ x.tau = tau ∧ x.group = g ∧ x.port = g % 8 ∧
        (x.mask, x.bytes) = ((u.openMask (s.cfgOfPass w.pass) w).readMereTile (s.cfgOfPass w.pass) w.pass w.chan tau g).1 ∧
        (∀ c h i, c = s.cfgOfPass w.pass → h = w.pass % 2 → i = c.tileIdx w.chan tau g → ∀ b, ¬ s.InWords .pool (c.tileDesc h i) 16 b →
          ¬ s.InWords .pool (c.tileAddr h i) 2048 b → t.dram.byteAt b = s.dram.byteAt b) ∧
        RegFrame u t (PagesOrMemory [merePg]) PbaWords ∧
        t.units = { u.units with sward := t.sward, mere := t.mere, bas := t.bas, dram := t.dram })) ∧
    (∀ g, (s.gsv g).takeover = none → s.mere.pass = none → exec (.takeover g) s = .next s) ∧
    (∀ g l p f, g < 8 → l < 8 → p < 9 → f < 9 → s.mere.pass = none → (s.gsv g).takeover = some (l, p) → s.spareSlot g = some f →
      ∃ t, exec (.takeover g) s = .next t ∧ t.fld (mapFld g l) = f ∧ (t.gsv g).takeover = none ∧
        t.fld (R.GSV_TAKEOVERS g) = (s.fld (R.GSV_TAKEOVERS g) + 1) % 2 ^ 48 ∧ RegFrame s t CorrelatorUp PbaWords ∧
        t.units = { s.units with mere := t.mere, sward := t.sward, bas := t.bas, beam := t.beam, gsvs := t.gsvs, dram := t.dram }) ∧
    (∀ g, s.mere.pass.isSome = true ∨ s.nGroups ≤ g → exec (.engineReturn g) s = .next s) ∧
    (∀ g sl, g < s.nGroups → sl < 9 → s.mere.pass = none → s.mayReturn g sl = true → (∀ k, k < 9 → k ≠ sl → s.mayReturn g k = false) →
      (∀ f, (s.gsv g).fallow = some f → f < 9) →
      (2 ≤ (s.recentReverts g sl).length → ∃ t, exec (.engineReturn g) s = .next t ∧
        t.fld (R.ENG_STAT_STATE (9 * g + sl)) = esLocked ∧ t.fld (R.GSV_HIST_LOCKED_OUT g sl) = 1 ∧
        t.fld (R.GSV_HIST_LOCKOUTS g sl) = (s.fld (R.GSV_HIST_LOCKOUTS g sl) + 1) % 2 ^ 8 ∧ Frame s t CorrelatorUp PbaWords ∧
        t.units = { s.units with sward := t.sward }) ∧
      ((s.recentReverts g sl).length < 2 → ∃ t, exec (.engineReturn g) s = .next t ∧
        t.fld (R.GSV_HEALTH_FAILED g sl) = 0 ∧ t.fld (R.GSV_RETURNS g) = (s.fld (R.GSV_RETURNS g) + 1) % 2 ^ 48 ∧
        (t.gsv g).bore.get 0 sl = 0 ∧ RegFrame s t CorrelatorUp PbaWords ∧
        t.units = { s.units with sward := t.sward, bas := t.bas, beam := t.beam, gsvs := t.gsvs, dram := t.dram }))

/-- SWEEP_START, STEP_START, DRAIN_START, BUFFER_HANDOVER, B_SWITCH and BANK_SWAP (R171, R172, R175, R178 to R180, R192,
R235, R239, R240, R243). The next sweep of the pass starts at step 0 with an empty staging once no replay is in
progress and its weights are ready; with no pass nothing changes. A step that is staged and no wait holds back is
done, and the step count advances: each X-mode engine's contexts take up the step's products, x · conj(y) of the rows'
samples added at each cell of each placement (R165, R176); one that waits for a voltage half is not, and VWAITING is
set. After the last step an engine with a credit reads out into its buffer, whose bytes without an injection are the
header, the CRC-32C over all else, the descriptors and the records of its contexts (R179, R183, R184), or passes the
drain where it holds no records, and one without waits in CREDIT, counting. The hand-over puts the buffer among those
the Basin holds and spends the credit. A B-mode engine goes on after a sub-pass that is not the last and waits for
weights after the last; a swap with a loaded bank puts it in use, one before a load has ended waits and counts, and
where no load is to come the engine goes on with the bank it has. With no sweep these change nothing. Registers below
the MERE page, window words but the pending bits, and the units' state but the correlator's and memory's, are
unchanged; where one page or one field alone is written, and where memory is not, the clause says so. -/
def Obligations.SweepsAndDrains : Prop :=
  ∀ (s : State),
    (s.sward.sweep = none → s.mere.pass = none → ∀ k, exec (.sweepStart k) s = .next s) ∧
    (∀ j w k, s.sward.sweep = none → s.mere.pass = some j → s.sward.next = some w → s.sward.reps = [] →
      s.weightsReady (s.cfgOfPass j) w = true → ∃ t, exec (.sweepStart k) s = .next t ∧ t.sward.sweep = some w ∧ t.sward.step = 0 ∧
        t.sward.staging = [] ∧ t.fld R.XS_CUR_CH = w.chan % 2 ^ R.XS_CUR_CH.w ∧ t.fld R.XS_STAT_SWITCHING = 0 ∧ RegFrame s t CorrelatorUp PbaWords ∧
        t.units = { s.units with sward := t.sward, bas := t.bas, beam := t.beam, dram := t.dram }) ∧
    (s.sward.sweep = none → ∀ k n, exec (.stepStart k) s = .next s ∧ exec (.drainStart n k) s = .next s ∧
      exec (.bufferHandover n) s = .next s ∧ exec (.bSwitch n) s = .next s) ∧
    (∀ w c k, s.sward.sweep = some w → c = s.cfgOfPass w.pass →
      (s.sward.step + 1 < c.steps w.sub → s.stepStaged c w = true → s.firstVoltStep c w = false → s.stepEndsBin c w = false →
        ∃ t, exec (.stepStart k) s = .next t ∧ t.sward.step = s.sward.step + 1 ∧ t.sward.sweep = some w ∧
          (∀ e n, e < c.eX → (s.activeEngs c).filter (fun x => x.2 == n) = [(e, n)] →
            (t.eng n).ctx = (c.places w.round w.pass e).foldl (fun m p => s.stepPlace c w s.sward.step m p) (s.eng n).ctx) ∧
          RegFrame s t CorrelatorUp PbaWords ∧ t.units = { s.units with sward := t.sward, beam := t.beam, dram := t.dram }) ∧
      (s.sward.step < c.steps w.sub → s.stepStaged c w = true → s.firstVoltStep c w = true → s.vHalfFree c w.pass = false → c.bVrel = 0 →
        ∃ t, exec (.stepStart k) s = .next t ∧ t.sward.step = s.sward.step ∧ t.bit R.BM_STAT_VWAITING = true ∧
          Frame s t CorrelatorUp PbaWords ∧ t.units = { s.units with sward := t.sward }) ∧
      (c.steps w.sub ≤ s.sward.step ∨ s.stepStaged c w = false → exec (.stepStart k) s = .next s) ∧
      (∀ x n, n < 80 → (s.activeEngs c).find? (fun x => x.2 == n) = some x → s.stepsOver c w = true → x.1 < c.eX → (s.eng n).phase = 1 →
        ((s.eng n).credit = false → ∃ t, exec (.drainStart n k) s = .next t ∧ t.fld (R.ENG_STAT_STATE n) = esCredit ∧
          t.fld (R.ENG_CYC_CREDIT n) = (s.fld (R.ENG_CYC_CREDIT n) + k) % 2 ^ 48 ∧ (t.eng n).waited = (s.eng n).waited + k ∧
          Frame s t (InPages [engPg n]) NoWord ∧ t.units = { s.units with sward := t.sward }) ∧
        ((s.eng n).credit = true → (c.places w.round w.pass x.1).isEmpty = false → ∃ t, exec (.drainStart n k) s = .next t ∧ t.fld (R.ENG_STAT_STATE n) = esDrain ∧
          (t.eng n).phase = 2 ∧ (t.eng n).ctx = [] ∧
          (s.injects n (c.places w.round w.pass x.1) = false → ∀ d, d = (c.places w.round w.pass x.1).flatMap (fun p => recordBytes (sumsOf (s.eng n).ctx p)) →
            (t.eng n).buf = drainBuffer c w x.1 n false (c.places w.round w.pass x.1) d d) ∧ Frame s t (InPages [engPg n]) PbaWords ∧ t.units = { s.units with sward := t.sward }) ∧
        ((s.eng n).credit = true → (c.places w.round w.pass x.1).isEmpty = true → ∃ t, exec (.drainStart n k) s = .next t ∧
          t.fld (R.ENG_CYC_DRAIN n) = (s.fld (R.ENG_CYC_DRAIN n) + 1088) % 2 ^ (R.ENG_CYC_DRAIN n).w ∧ (t.eng n).phase = 3 ∧ (t.eng n).credit = true ∧
          t.bas.waiting = s.bas.waiting ∧ RegFrame s t CorrelatorUp PbaWords ∧
          t.units = { s.units with mere := t.mere, sward := t.sward, bas := t.bas, beam := t.beam, gsvs := t.gsvs, dram := t.dram })) ∧
      (∀ x n, n < 80 → (s.activeEngs c).find? (fun x => x.2 == n) = some x → x.1 < c.eX → (s.eng n).phase = 2 →
        ∃ t, exec (.bufferHandover n) s = .next t ∧ t.bas.waiting = s.bas.waiting ++ [⟨w, x.1, n, false, (s.eng n).buf⟩] ∧
          (t.eng n).credit = false ∧ t.fld (R.ENG_STAT_BUF_FULL n) = 1 ∧ t.fld R.BAS_CR_ISSUED = (s.fld R.BAS_CR_ISSUED + 1) % 2 ^ 48 ∧
          RegFrame s t CorrelatorUp PbaWords ∧
          t.units = { s.units with mere := t.mere, sward := t.sward, bas := t.bas, beam := t.beam, gsvs := t.gsvs, dram := t.dram }) ∧
      (∀ x n, (s.activeEngs c).find? (fun x => x.2 == n) = some x → s.stepsOver c w = true → c.eX ≤ x.1 → (s.eng n).phase = 1 →
        (w.sub + 1 < c.shape.d → ∃ t, exec (.bSwitch n) s = .next t ∧ (t.eng n).phase = 3 ∧ RegFrame s t CorrelatorUp PbaWords ∧
          t.units = { s.units with mere := t.mere, sward := t.sward, bas := t.bas, beam := t.beam, dram := t.dram }) ∧
        (c.shape.d ≤ w.sub + 1 → ∃ t, exec (.bSwitch n) s = .next t ∧ (t.eng n).phase = 2 ∧ Frame s t (Keys []) NoWord ∧
          t.units = { s.units with sward := t.sward, gsvs := t.gsvs }))) ∧
    (∀ x n k, s.sward.sweep = none → (s.activeEngs s.passCfg).find? (fun x => x.2 == n) = some x → s.passCfg.eX ≤ x.1 →
      (s.beam.free.isSome = true → s.beam.loading = none → ∃ t, exec (.bankSwap n k) s = .next t ∧ (t.eng n).phase = 3 ∧
        t.beam = (if s.oldBank = true then { s.beam with cur := s.beam.free, free := none } else s.beam) ∧
        t.fld R.BM_WL_WAIT_CYC = (s.fld R.BM_WL_WAIT_CYC + k) % 2 ^ R.BM_WL_WAIT_CYC.w ∧
        Frame s t (Keys [R.BM_WL_WAIT_CYC]) NoWord ∧ t.units = { s.units with sward := t.sward, beam := t.beam }) ∧
      (s.oldBank = true → s.beam.free = none → (s.beam.loading.isSome = true ∨ s.nextBeam.isSome = true) → ∃ t, exec (.bankSwap n k) s = .next t ∧
        t.fld R.BM_WL_WAIT_CYC = (s.fld R.BM_WL_WAIT_CYC + k) % 2 ^ R.BM_WL_WAIT_CYC.w ∧
        t.sward = (if s.mere.pass.isSome then { s.sward with cycles := s.sward.cycles + k } else s.sward) ∧
        Frame s t (Keys [R.BM_WL_WAIT_CYC]) NoWord ∧ t.units = { s.units with sward := t.sward }) ∧
      ((s.oldBank = false ∨ (s.beam.free = none ∧ s.beam.loading = none ∧ s.nextBeam = none)) → ∃ t, exec (.bankSwap n k) s = .next t ∧
        (t.eng n).phase = 3 ∧ t.beam = s.beam ∧ Frame s t (Keys [R.BM_WL_WAIT_CYC]) NoWord ∧ t.units = { s.units with sward := t.sward })) ∧
    (∀ (c : Cfg) w κ (m : SMap (List (Int × Int))) (p : Place) q i, (sumsOf m p).length = 4096 → i < 4096 → q = blockPQ c.nbX p.block →
      ∀ xs ys : Nat → Int × Int, (∀ σ, xs σ = (s.groupAt (c.stepSample w.sub σ κ) q.1).getD (i / 64) (0, 0)) →
        (∀ σ, ys σ = (s.groupAt (c.stepSample w.sub σ κ) q.2).getD (i % 64) (0, 0)) →
        ∀ σs, σs = (if p.sliced then [p.slice] else List.range c.shape.s) →
        (sumsOf (s.stepPlace c w κ m p) p).getD i (0, 0) =
          (((sumsOf m p).getD i (0, 0)).1 + (σs.map (fun σ => (xs σ).1 * (ys σ).1 + (xs σ).2 * (ys σ).2)).sum,
           ((sumsOf m p).getD i (0, 0)).2 + (σs.map (fun σ => (xs σ).2 * (ys σ).1 - (xs σ).1 * (ys σ).2)).sum))

/-- SELFTEST, SELFTEST_DONE, ENGINE_RESET, RETEST and UNLOCK (R182, R186, R187, R269, R271); the host's ones served. A
self-test of an engine that is idle, in standby or failed, with no buffer out, starts; otherwise ST_REFUSED is set.
RETEST starts one from standby or failed and is else ignored, which sets CMD_BAD beside the slot named; so does a slot
above 8. A test that passes gives the engine back its state, shows and counts the result, and counts a pass of an
engine that was failed or in standby; one that fails counts a sign and clears the pass run; with none in progress
nothing changes. A reset empties the engine's contexts and buffer, and in a sweep its staging, clears BUF_FULL and
keeps its state. UNLOCK of a locked-out engine leaves it FAILED with no reverts; of another it is ignored, which sets
CMD_BAD. Registers outside the pages of the engine and its group (a reset: and the event page; a failed test: below
the MERE page), window words but the pending bits, memory, and the units' state but the Sward's and the groups' are
unchanged (a failed test: but the correlator's and memory's). -/
def Obligations.EngineTests : Prop :=
  ∀ (s : State),
    (∀ π n, s.Serves π (0x100040 + 0x1000 * n) →
      ((s.fld (R.ENG_STAT_STATE n) ∈ [esIdle, esStandby, esFailed] ∧ s.bit (R.ENG_STAT_BUF_FULL n) = false) →
        ∃ t, exec (.selftest π n) s = .next t ∧ t.fld (R.ENG_STAT_STATE n) = esTest ∧ (t.eng n).testing = true ∧
          (t.eng n).testFrom = s.fld (R.ENG_STAT_STATE n) ∧ Frame s t (Keys [R.ENG_STAT_STATE n]) NoWord ∧
          t.units = { s.units with sward := t.sward }) ∧
      ((s.fld (R.ENG_STAT_STATE n) ∉ [esIdle, esStandby, esFailed] ∨ s.bit (R.ENG_STAT_BUF_FULL n) = true) →
        ∃ t, exec (.selftest π n) s = .next t ∧ t.fld (R.ENG_STAT_ST_REFUSED n) = 1 ∧
          Frame s t (Keys [R.ENG_STAT_ST_REFUSED n]) NoWord ∧ t.units = s.units)) ∧
    (∀ n ok, (s.eng n).testing = false → exec (.selftestDone n ok) s = .next s) ∧
    (∀ n, n < s.nEngs → (s.eng n).testing = true →
      (∃ t, exec (.selftestDone n true) s = .next t ∧ t.fld (R.ENG_STAT_STATE n) = (s.eng n).testFrom % 2 ^ 4 ∧ (t.eng n).testing = false ∧
        t.fld (R.ENG_STAT_ST_PASS n) = 1 ∧ t.fld (R.ENG_STAT_ST_FAIL n) = 0 ∧
        t.fld (R.ENG_ST_CNT_RUNS n) = (s.fld (R.ENG_ST_CNT_RUNS n) + 1) % 2 ^ 16 ∧
        ((s.eng n).testFrom = esFailed ∨ (s.eng n).testFrom = esStandby → t.fld (R.GSV_HEALTH_PASS_RUN (n / 9) (n % 9)) =
          min 255 (s.fld (R.GSV_HEALTH_PASS_RUN (n / 9) (n % 9)) + 1)) ∧
        Frame s t (InPages [engPg n, gsvPg (n / 9)]) PbaWords ∧ t.units = { s.units with sward := t.sward }) ∧
      (∃ t, exec (.selftestDone n false) s = .next t ∧ t.fld (R.GSV_HEALTH_PASS_RUN (n / 9) (n % 9)) = 0 ∧
        t.fld (R.GSV_SIGNS (n / 9)) = (s.fld (R.GSV_SIGNS (n / 9)) + 1) % 2 ^ 48 ∧ RegFrame s t CorrelatorUp PbaWords ∧
        t.units = { s.units with mere := t.mere, sward := t.sward, bas := t.bas, beam := t.beam, gsvs := t.gsvs, dram := t.dram })) ∧
    (∀ π n, s.Serves π (0x100008 + 0x1000 * n) → n < s.nEngs → (s.eng n).testing = false → ∃ t, exec (.engineReset π n) s = .next t ∧
      t.eng n = { s.eng n with ctx := [], buf := [], phase := 0, lost := s.sward.sweep.isSome && decide ((s.eng n).phase ≠ 0) } ∧
      t.bit (R.ENG_STAT_BUF_FULL n) = false ∧ t.fld (R.ENG_STAT_STATE n) = s.fld (R.ENG_STAT_STATE n) % 2 ^ 4 ∧
      Frame s t (InPages [engPg n, evtPg]) PbaWords ∧ t.units = { s.units with sward := t.sward }) ∧
    (∀ π g sl, g < 8 → s.Serves π (0x150040 + 0x1000 * g) → 8 < sl → ∃ t, exec (.unlock π g sl) s = .next t ∧ exec (.retest π g sl) s = .next t ∧
      t.fld (R.GSV_STAT_CMD_BAD g) = 1 ∧ Frame s t (Keys [R.GSV_CTL_SLOT g, R.GSV_STAT_CMD_BAD g]) NoWord ∧ t.units = s.units) ∧
    (∀ π g sl n, g < 8 → s.Serves π (0x150040 + 0x1000 * g) → sl ≤ 8 → n = 9 * g + sl →
      (s.fld (R.ENG_STAT_STATE n) ∈ [esStandby, esFailed] → s.bit (R.ENG_STAT_BUF_FULL n) = false → ∃ t, exec (.retest π g sl) s = .next t ∧
        t.fld (R.ENG_STAT_STATE n) = esTest ∧ (t.eng n).testing = true ∧ Frame s t (Keys [R.GSV_CTL_SLOT g, R.ENG_STAT_STATE n]) NoWord ∧
        t.units = { s.units with sward := t.sward }) ∧
      (s.fld (R.ENG_STAT_STATE n) ∉ [esStandby, esFailed] ∨ s.bit (R.ENG_STAT_BUF_FULL n) = true → ∃ t, exec (.retest π g sl) s = .next t ∧ t.fld (R.GSV_STAT_CMD_BAD g) = 1 ∧
        t.fld (R.GSV_CTL_SLOT g) = sl ∧ Frame s t (Keys [R.GSV_CTL_SLOT g, R.GSV_STAT_CMD_BAD g]) NoWord ∧ t.units = s.units) ∧
      (s.engBase n = esLocked → ∃ t, exec (.unlock π g sl) s = .next t ∧ t.fld (R.ENG_STAT_STATE n) = esFailed ∧
        t.fld (R.GSV_HEALTH_REVERTS g sl) = 0 ∧ t.fld (R.GSV_HIST_LOCKED_OUT g sl) = 0 ∧ (t.gsv g).reverts.get [] sl = [] ∧
        Frame s t (InPages [engPg n, gsvPg g]) NoWord ∧ t.units = { s.units with sward := t.sward, gsvs := t.gsvs }) ∧
      (s.engBase n ≠ esLocked → ∃ t, exec (.unlock π g sl) s = .next t ∧ t.fld (R.GSV_STAT_CMD_BAD g) = 1 ∧
        t.fld (R.GSV_CTL_SLOT g) = sl ∧ Frame s t (Keys [R.GSV_CTL_SLOT g, R.GSV_STAT_CMD_BAD g]) NoWord ∧ t.units = s.units))

/-- FAILURE_SIGN, TOKEN_TIMEOUT, STEP_TIMEOUT and FAIL (R194, R196, R197, R261 to R264, R273); FAIL served. The low four
bits of the operand name the cause. Where the condition of the cause holds for an engine that is neither failed nor
locked out (TOKEN: its token is missing; STEP: it has not finished the step; COPY: it is its group's Fallow, holds
records, and five copies of one fail; MANUAL: none), the sign leaves it FAILED with its contexts empty, its slot's
LAST_CAUSE the cause and FAILED 1, its buffers rejected from then on, and is counted in SIGNS. A bad buffer of the
engine being copied (DIAG, CRC) gives its credit back and sets REJECT. A failing self-test is SELFTEST_DONE's. Fewer
than five failing copies are each error 0x14 and no sign. A cause outside the table, or whose condition does not hold,
changes nothing where no sweep is about to end; a dead engine is only counted. The deadlines are FAILURE_SIGN of
causes 1 and 2; FAIL of a slot up to 8 is of cause 7, and a slot above 8 sets CMD_BAD. Registers below the MERE page,
window words but the pending bits, and the units' state but the correlator's and memory's, are unchanged. -/
def Obligations.FailureSigns : Prop :=
  ∀ (s : State),
    (∀ n x, s.settle = s → (x % 16 = 0 ∨ 7 < x % 16 ∨ (x % 16 = 1 ∧ s.tokenMissing n = false) ∨ (x % 16 = 2 ∧ s.stepMissing n = false) ∨
        ((x % 16 = 3 ∨ x % 16 = 4) ∧ ∀ b, s.bas.copying = some b → b.phys ≠ n) ∨ (x % 16 = 5 ∧ (s.eng n).testing = false) ∨
        (x % 16 = 6 ∧ (s.gsv (n / 9)).fallow ≠ some (n % 9))) → exec (.failureSign n x) s = .next s) ∧
    (∀ n x, n < s.nEngs → s.engDead n = false → (x % 16 = 7 ∨ (x % 16 = 1 ∧ s.tokenMissing n = true) ∨ (x % 16 = 2 ∧ s.stepMissing n = true) ∨
        ((x = 6 ∨ x = 86) ∧ (s.gsv (n / 9)).fallow = some (n % 9) ∧ (s.gsv (n / 9)).recs.isEmpty = false)) →
      ∃ t, exec (.failureSign n x) s = .next t ∧
      t.fld (R.ENG_STAT_STATE n) = esFailed ∧ (t.eng n).ctx = [] ∧ t.fld (R.GSV_HEALTH_LAST_CAUSE (n / 9) (n % 9)) = x % 16 ∧
      t.fld (R.GSV_HEALTH_FAILED (n / 9) (n % 9)) = 1 ∧ n ∈ t.bas.failed ∧
      t.fld (R.GSV_SIGNS (n / 9)) = (s.fld (R.GSV_SIGNS (n / 9)) + 1) % 2 ^ 48 ∧ RegFrame s t CorrelatorUp PbaWords ∧
      t.units = { s.units with mere := t.mere, sward := t.sward, bas := t.bas, beam := t.beam, gsvs := t.gsvs, dram := t.dram }) ∧
    (∀ n x b, n < s.nEngs → (x % 16 = 3 ∨ x % 16 = 4) → s.bas.copying = some b → b.phys = n → s.dropsBuf b = false →
      (∀ r ∈ s.sward.reps, r.n ≠ n) → ∃ t, exec (.failureSign n x) s = .next t ∧ t.bas.copying = none ∧ (t.eng n).credit = true ∧
      t.bit R.BAS_STAT_REJECT = true ∧ (s.engDead n = false → t.fld (R.GSV_HEALTH_LAST_CAUSE (n / 9) (n % 9)) = x % 16 ∧ n ∈ t.bas.failed) ∧
      RegFrame s t CorrelatorUp PbaWords ∧
      t.units = { s.units with mere := t.mere, sward := t.sward, bas := t.bas, beam := t.beam, gsvs := t.gsvs, dram := t.dram }) ∧
    (∀ n x, x % 16 = 5 → s.sward.sweep = none → exec (.failureSign n x) s = exec (.selftestDone n false) s) ∧
    (∀ n k, n < 72 → 1 ≤ k → k ≤ 4 → s.sward.sweep = none → s.engDead n = false → (s.gsv (n / 9)).fallow = some (n % 9) →
      (s.gsv (n / 9)).recs.isEmpty = false → ∃ t, exec (.failureSign n (16 * k + 6)) s = .next t ∧
      t.fld (R.PG_ERR_CNT_COUNT (gsvPg (n / 9))) = (s.fld (R.PG_ERR_CNT_COUNT (gsvPg (n / 9))) + k) % 2 ^ 32 ∧
      Frame s t (InPages [gsvPg (n / 9), evtPg]) PbaWords ∧ t.units = s.units) ∧
    (∀ n x, x % 16 = 7 → n < s.nEngs → s.engDead n = true → s.sward.sweep = none → ∃ t, exec (.failureSign n x) s = .next t ∧
      t.fld (R.GSV_SIGNS (n / 9)) = (s.fld (R.GSV_SIGNS (n / 9)) + 1) % 2 ^ 48 ∧ Frame s t (Keys [R.GSV_SIGNS (n / 9)]) NoWord ∧
      t.units = s.units) ∧
    (∀ n, exec (.tokenTimeout n) s = exec (.failureSign n 1) s ∧ exec (.stepTimeout n) s = exec (.failureSign n 2) s) ∧
    (∀ π g sl, g < s.nGroups → s.Serves π (0x150040 + 0x1000 * g) →
      (sl ≤ 8 → ∃ t u, exec (.fail π g sl) s = .next t ∧ exec (.failureSign (9 * g + sl) 7) (s.setFld (R.GSV_CTL_SLOT g) sl) = .next u ∧
        ∃ o, t = { u with opened := o }) ∧
      (8 < sl → s.sward.sweep = none → ∃ t, exec (.fail π g sl) s = .next t ∧ t.fld (R.GSV_STAT_CMD_BAD g) = 1 ∧
        Frame s t (Keys [R.GSV_CTL_SLOT g, R.GSV_STAT_CMD_BAD g]) NoWord ∧ t.units = s.units))

/-- COLLECT_START, COLLECT_DONE, BUFFER_COMMIT and CHANNEL_PASS_ACCEPT (R192 to R199, R214 to R217, R268). The first
waiting buffer in order is taken where no copy is in progress and fewer than two collection buffers are used; where it
must wait, only the cycles are counted. The end of a copy returns the engine's credit, which a replay of that engine
may spend again at once; a buffer that is neither from a failed engine nor resolved, intact and with right diagonals,
with no replay to follow, clears BUF_FULL and joins the collection buffers. While a write of the Basin waits for the
finisher BUFFER_COMMIT counts its cycles, also with no buffer. A commit that waits for the finisher only counts; one
that must follow a pending sweep of an earlier pass is kept for it; else the first collection buffer is committed
whole, its sweep and engine are done, and COMMITTED advances, by one where none is kept. The blocks of a buffer enter
the bank of its integration in order, here where each is whole: each product that a cell of a block holds, 0 at an
input above N_X, is stored at the first commit and added to what was read at a later one, by the format, with its
weight, poison staying in its words; no byte outside the blocks' words changes (R203 to R206). A slice adds to the
sums of its block, and the last commits it (R200, R214). The adds of the formats are those of R208 to R210: a sum that
leaves its width becomes the marker and stays, the VISC sum carries its error, a weight stays at its top. The first
channel-pass that may be accepted is, and is no longer among those begun. With nothing to do each changes nothing.
Registers outside the pages named (a commit, and a copy that ends badly: below the MERE page), window words but the
pending bits, and the units' state named are unchanged; memory but at a commit and a copy that ends badly. -/
def Obligations.Collection : Prop :=
  ∀ (s : State),
    (∀ k, takeFirst s.bas.waiting = none → exec (.collectStart k) s = .next s) ∧
    (∀ k b rest, takeFirst s.bas.waiting = some (b, rest) → ∃ t, exec (.collectStart k) s = .next t ∧
      t.fld R.BAS_BP_CYC = (s.fld R.BAS_BP_CYC + k) % 2 ^ 48 ∧
      (s.bas.copying = none → s.bas.cbs.length < 2 → t.bas = { s.bas with waiting := rest, copying := some b }) ∧
      (s.bas.copying.isSome = true ∨ 2 ≤ s.bas.cbs.length → t.bas = s.bas) ∧
      Frame s t (Keys [R.BAS_BP_CYC]) NoWord ∧ t.units = { s.units with bas := t.bas }) ∧
    (s.bas.copying = none → exec .collectDone s = .next s) ∧
    (∀ b, s.bas.copying = some b → b.phys < 80 → ∃ t, exec .collectDone s = .next t ∧ t.bas.copying = none ∧
      t.fld R.BAS_CR_RETURNED = (s.fld R.BAS_CR_RETURNED + 1) % 2 ^ 48 ∧
      ((∀ r ∈ s.sward.reps, r.n ≠ b.phys) → (t.eng b.phys).credit = true ∧ t.fld R.BAS_CR_OUT = (s.fld R.BAS_CR_OUT - 1) % 2 ^ 48) ∧ RegFrame s t CorrelatorUp PbaWords ∧
      t.units = { s.units with mere := t.mere, sward := t.sward, bas := t.bas, beam := t.beam, gsvs := t.gsvs, dram := t.dram }) ∧
    (∀ b, s.bas.copying = some b → b.phys < 80 → b.phys ∉ s.bas.failed → s.keyDone b = false → (∀ r ∈ s.sward.reps, r.n ≠ b.phys) → b.intact (s.cfgOfPass b.key.pass) = true →
      b.diagsOk (s.cfgOfPass b.key.pass) = true → ∃ t, exec .collectDone s = .next t ∧
        t.bas = { s.bas with copying := none, cbs := s.bas.cbs ++ [b] } ∧ t.fld (R.ENG_STAT_BUF_FULL b.phys) = 0 ∧
        t.fld R.BAS_IN_CB = (s.fld R.BAS_IN_CB + 1) % 2 ^ R.BAS_IN_CB.w ∧
        Frame s t (InPages [basPg, engPg b.phys, gsvPg (b.phys / 9)]) NoWord ∧ t.units = { s.units with sward := t.sward, bas := t.bas }) ∧
    (s.bas.cbs = [] → s.finWaits = false → ∀ k, exec (.bufferCommit k) s = .next s) ∧
    (s.bas.cbs = [] → s.finWaits = true → ∀ k, ∃ t, exec (.bufferCommit k) s = .next t ∧
        t.fld R.BAS_FIN_WAIT_CYC = (s.fld R.BAS_FIN_WAIT_CYC + k) % 2 ^ R.BAS_FIN_WAIT_CYC.w ∧ t.bit R.BAS_STAT_FIN_WAIT = true ∧
        Frame s t (InPages [basPg]) PbaWords ∧ t.units = s.units) ∧
    (∀ k b rest, s.bas.cbs = b :: rest → s.commitHeld b = true →
      ∃ t, exec (.bufferCommit k) s = .next t ∧
        t.fld R.BAS_FIN_WAIT_CYC = (s.fld R.BAS_FIN_WAIT_CYC + k) % 2 ^ R.BAS_FIN_WAIT_CYC.w ∧ t.bit R.BAS_STAT_FIN_WAIT = true ∧
        Frame s t (InPages [basPg]) PbaWords ∧ t.units = s.units) ∧
    (∀ k b rest, s.bas.cbs = b :: rest → s.commitHeld b = false → s.mustFollow b = true → ∃ t, exec (.bufferCommit k) s = .next t ∧
        t.bas = { s.bas with cbs := rest, late := s.bas.late ++ [b] } ∧ Frame s t (InPages [basPg]) PbaWords ∧
        (s.finWaits = false → Frame s t (Keys [R.BAS_STAT_FIN_WAIT]) NoWord) ∧
        t.units = { s.units with bas := t.bas }) ∧
    (∀ k b rest, s.bas.cbs = b :: rest → s.commitHeld b = false → s.mustFollow b = false →
      ∃ t, exec (.bufferCommit k) s = .next t ∧ t.bas.cbs = rest ∧ (b.key, b.logical) ∈ t.bas.done ∧
        (s.bas.late = [] → t.fld R.BAS_COMMITTED = (s.fld R.BAS_COMMITTED + 1) % 2 ^ R.BAS_COMMITTED.w) ∧
        RegFrame s t CorrelatorUp PbaWords ∧ t.units = { s.units with sward := t.sward, bas := t.bas, beam := t.beam, dram := t.dram }) ∧
    (∀ k b rest x c w ps, s.bas.cbs = b :: rest → s.finWaits = false → b.replay = false → s.mustFollow b = false →
      s.intOfPass b.key.pass = some x → ps = (s.cfgOfPass b.key.pass).places b.key.round b.key.pass b.logical →
      (∀ p ∈ ps, p.sliced = false ∧ (b.key, p.block) ∉ s.bas.zeroed) → (∀ m ∈ s.bas.masks, m.key = b.key → ps.length ≤ m.left) →
      c = x.cfg → w = ({ s with bas := { s.bas with cbs := rest } } : State) →
      ∀ (pq : Place → Nat × Nat) (cells : Place → List (Nat × Nat)) (va wa : Place → Nat) (live : Place → Nat × Nat → Bool)
        (v : Place × Nat → Nat × Nat → Int × Int) (n : Place → Nat × Nat → Nat) (g : Place → Nat × Nat → Option Gain),
      (∀ p, pq p = blockPQ c.nbX p.block) → (∀ p, cells p = storedCells (decide ((pq p).1 = (pq p).2))) →
      (∀ p, va p = c.chanArea x.seq b.key.chan + recordOf p.block (pq p).2 * c.bv) →
      (∀ p, wa p = c.chanArea x.seq b.key.chan + c.vch * c.bv + recordOf p.block (pq p).2 * 4) →
      (∀ p z, live p z = (decide (64 * (pq p).1 + z.1 < c.nX) && decide (64 * (pq p).2 + z.2 < c.nX))) →
      (∀ y z, v y z = if live y.1 z then (productsOf (b.record y.2)).getD (64 * z.1 + z.2) (0, 0) else (0, 0)) →
      (∀ p z, n p z = if live p z then tileWeight c b.key.sub (s.masksOf b.key false) (pq p).1 (pq p).2 z.1 z.2 else 0) →
      (∀ p z, g p z = if c.fmt = 2 ∧ s.bitAt basPg (c.passFrame b.key.pass) R.BAS_INT_CTL_CAL_EN = true ∧ live p z = true then
        some (calGain (s.gainAt (c.passFrame b.key.pass) (64 * (pq p).1 + z.1)) (s.gainAt (c.passFrame b.key.pass) (64 * (pq p).2 + z.2))) else none) →
      ∃ t, exec (.bufferCommit k) s = .next t ∧
        (x.first b.key = true → t.dram = (ps.zipIdx.foldl (fun u y =>
          ((u.writeDram .drain (va y.1) ((cells y.1).flatMap (fun z => recBytes c.fmt (recFirst c.fmt (v y z) (g y.1 z))))).2.writeDram .drain (wa y.1)
            ((cells y.1).flatMap (fun z => leBytes 4 (min 4294967295 (n y.1 z))))).2) w).dram) ∧
        (x.first b.key = false → t.dram = (ps.zipIdx.foldl (fun u y =>
          let (rv, u) := u.readDram .drain (va y.1) ((cells y.1).length * c.bv)
          let (rw, u) := u.readDram .drain (wa y.1) ((cells y.1).length * 4)
          ((u.writeDramP .drain (va y.1) ((cells y.1).zipIdx.flatMap (fun z => recBytes c.fmt
              (recAdd c.fmt (recOfBytes c.fmt (sliceBytes rv.bytes (z.2 * c.bv) c.bv)) (v y z.1) (g y.1 z.1)))) rv.markAt).2.writeDramP .drain (wa y.1)
            ((cells y.1).zipIdx.flatMap (fun z => leBytes 4 (weightAdd (leAt rw.bytes (4 * z.2) 4) (n y.1 z.1)))) rw.markAt).2) w).dram) ∧
        (s.bit R.MAP_STAT_FILL_BUSY = false → (c.fmt = 0 ∧ c.bv = 8 ∨ c.fmt = 1 ∧ c.bv = 16 ∨ c.fmt = 2 ∧ c.bv = 16) →
          ∀ a, (∀ p ∈ ps, ¬ s.InWords .drain (va p) ((cells p).length * c.bv) a ∧ ¬ s.InWords .drain (wa p) ((cells p).length * 4) a) →
            t.dram.byteAt a = s.dram.byteAt a)) ∧
    (∀ (c : Cfg) w b vals r (a : Assembly), s.bas.slices.find? (fun a => a.key == w && a.block == b) = some a → a.sums.length = vals.length → ∃ sums : List (Int × Int),
      sums.length = vals.length ∧ (∀ i, i < vals.length → sums.getD i (0, 0) = ((a.sums.getD i (0, 0)).1 + (vals.getD i (0, 0)).1, (a.sums.getD i (0, 0)).2 + (vals.getD i (0, 0)).2)) ∧
      ∀ rest, rest = s.bas.slices.filter (fun x => !(x.key == w && x.block == b)) →
      (a.got + 1 < c.shape.s → s.addSlice c w b vals r = { s with bas := { s.bas with slices := { a with got := a.got + 1, sums := sums, rep := a.rep || r } :: rest } }) ∧
      (c.shape.s ≤ a.got + 1 → s.addSlice c w b vals r = ({ s with bas := { s.bas with slices := rest } } : State).commit w b sums (a.rep || r))) ∧
    (∀ q : Int × Int, recFirst 0 q none = [unsgn 32 q.1, unsgn 32 q.2] ∧ recFirst 1 q none = [unsgn 64 q.1, unsgn 64 q.2] ∧
      recFirst 2 q none = [f32.encode (FVal.ofInt q.1), 0, f32.encode (FVal.ofInt q.2), 0]) ∧
    (∀ n old x, 0 < n → (old = 2 ^ (n - 1) → stickyAdd n old x = old) ∧ (old ≠ 2 ^ (n - 1) →
      (-(2 : Int) ^ (n - 1) ≤ sgn n old + x → sgn n old + x ≤ (2 : Int) ^ (n - 1) - 1 → stickyAdd n old x = unsgn n (sgn n old + x)) ∧
      (sgn n old + x < -(2 : Int) ^ (n - 1) ∨ (2 : Int) ^ (n - 1) - 1 < sgn n old + x → stickyAdd n old x = 2 ^ (n - 1)))) ∧
    (∀ a b a' b' (q : Int × Int) g, recAdd 0 [a, b] q g = [stickyAdd 32 a q.1, stickyAdd 32 b q.2] ∧ recAdd 1 [a, b] q g = [stickyAdd 64 a q.1, stickyAdd 64 b q.2] ∧
      recAdd 2 [a, b, a', b'] q g = [(compAdd a b (visTerm q g).1).1, (compAdd a b (visTerm q g).1).2, (compAdd a' b' (visTerm q g).2).1, (compAdd a' b' (visTerm q g).2).2]) ∧
    (∀ k, s.bas.begun.find? (fun k => s.mayAccept k) = none → exec (.channelPassAccept k) s = .next s) ∧
    (∀ k p, s.bas.begun.find? (fun k => s.mayAccept k) = some p → ∃ t, exec (.channelPassAccept k) s = .next t ∧
      t.bas.accepted = s.bas.accepted ++ [p] ∧ t.bas.begun = s.bas.begun.filter (fun x => x != p) ∧
      Frame s t (InPages [basPg, pkPg]) NoWord ∧ t.units = { s.units with bas := t.bas, beam := t.beam })

/-- FINISHER_CHANNEL, VOLTAGE_NOTICE, PACKET_COMMIT, RPTR_WRITE and RING_RESET (R216, R221, R222, R244, R248); the host's
ones served. With a packet not yet committed, neither producer does anything; nor the finisher while a notice is due.
A producer begins its packet and writes of its body, behind the 64 bytes of the header's place, what the ring has room
for: all of it, the finisher goes on and RING_FULL clears; else RING_FULL is set, and a later write of RPTR goes on
writing from where it stopped. A visibility packet holds the blocks of its channel as they are read, with its CRC
table behind them, and its header with flags, PKT_SEQ and CRC (R223 to R226). Bytes at a count stand in the ring from
the count modulo its size, and go on at its base past its end. A commit of a packet whose body is written and whose
header is accepted advances WPTR and PKT_BYTES by the packet's length and PACKETS and PKT_SEQ by one, and none is
pending; without a packet, or before its body is written, nothing changes. RPTR takes a value between itself and WPTR,
cut to 48 bits; else RPTR_BAD is set and RPTR stays. A ring reset clears both counts and begins a pending packet anew,
unless a run is active or the finisher works: then CFG_BLOCKED is set. Registers outside the pages BAS, BM, PK and,
with accesses to memory, from its pages up, window words but the pending bits, and the units' state but the Basin's,
the beams' and memory's, are unchanged. -/
def Obligations.PacketsAndRing : Prop :=
  ∀ (s : State),
    (s.bas.fin = [] → exec .finisherChannel s = .next s) ∧
    (∀ x rest, s.bas.fin = x :: rest → (s.bas.pkt.isSome = true ∨ s.beam.notices ≠ [] ∨ x.stage = 3) → exec .finisherChannel s = .next s) ∧
    (∀ x rest, s.bas.fin = x :: rest → s.bas.pkt = none → s.beam.notices = [] → x.stage ≠ 3 →
      ∃ t p more, exec .finisherChannel s = .next t ∧ t.bas.pkt = some p ∧
        (p.count < p.body.length → t.bit R.BAS_STAT_RING_FULL = true ∧ t.bas.fin = s.bas.fin) ∧
        (p.body.length ≤ p.count → t.fld R.BAS_STAT_RING_FULL = 0 ∧ t.bas.fin = s.advanceInt x :: (rest ++ more)) ∧
        p.len = 64 + p.body.length ∧ p.count = min p.body.length (s.ringRoom - 64) ∧
        (x.stage = 0 → ∀ ps u f v, (ps, u) = s.showFin.readChan x x.ch → (f, v) = u.judgeProducts x x.ch ps →
          p.body = chanBytes x.cfg ps ++ crcTrailer (cutTiles (x.cfg.shape.nblk * (2 * x.cfg.bv + 8)) (chanBytes x.cfg ps)) ∧ p.marks = chanMarks x.cfg ps ∧
          p.header = s.closeHeader (visHeader x x.ch (if s.runEndsAt (x.firstPass + x.len) then orBit f 10 else f) (x.cfg.shape.nblk * (2 * x.cfg.bv + 8))) ∧
          (p.count < p.body.length ∨ s.bas.zeroLater = [] ∧ s.bas.late = [] ∧ s.beam.zeroBinsLater = [] → 0 < p.count →
            t.dram = (({ v with bas := { v.bas with pkt := some { p with count := 0 } } } : State).ringWrite (s.fld R.BAS_WPTR + 64) (sliceBytes p.body 0 p.count)
              (fun i => p.marks.getD i false)).2.dram)) ∧
        RegFrame s t (PagesOrMemory [basPg, bmPg, pkPg]) PbaWords ∧
        t.units = { s.units with bas := t.bas, beam := t.beam, dram := t.dram }) ∧
    (s.beam.notices = [] ∨ s.bas.pkt.isSome = true → exec .voltageNotice s = .next s) ∧
    (∀ j b rest, s.beam.notices = (j, b) :: rest → s.bas.pkt = none →
      ∃ t p, exec .voltageNotice s = .next t ∧ t.bas.pkt = some p ∧ t.beam.notices = rest ∧
        t.bit R.BAS_STAT_RING_FULL = decide (p.count < p.body.length) ∧ t.bas = { s.bas with pkt := some p } ∧
        p.len = 64 + p.body.length ∧ p.count = min p.body.length (s.ringRoom - 64) ∧ p.notice = some j ∧
        (0 < p.count → t.dram = (({ s with bas := { s.bas with pkt := some { p with count := 0 } } } : State).ringWrite (s.fld R.BAS_WPTR + 64) (sliceBytes p.body 0 p.count)
          (fun i => p.marks.getD i false)).2.dram) ∧
        RegFrame s t (PagesOrMemory [basPg]) PbaWords ∧ t.units = { s.units with bas := t.bas, beam := t.beam, dram := t.dram }) ∧
    (s.bas.pkt = none → exec .packetCommit s = .next s) ∧
    (∀ p, s.bas.pkt = some p → p.count < p.body.length → exec .packetCommit s = .next s) ∧
    (∀ p, s.bas.pkt = some p → p.body.length ≤ p.count → (s.ringWrite (s.fld R.BAS_WPTR) p.header (fun _ => false)).1 = .ok → ∃ t, exec .packetCommit s = .next t ∧
      t.bas.pkt = none ∧ t.fld R.BAS_WPTR = (s.fld R.BAS_WPTR + p.len) % 2 ^ 48 ∧ t.fld R.BAS_PACKETS = (s.fld R.BAS_PACKETS + 1) % 2 ^ R.BAS_PACKETS.w ∧
      t.fld R.BAS_PKT_BYTES = (s.fld R.BAS_PKT_BYTES + p.len) % 2 ^ R.BAS_PKT_BYTES.w ∧ t.fld R.BAS_PKT_SEQ = (s.fld R.BAS_PKT_SEQ + 1) % 2 ^ 32 ∧
      t.dram = (s.ringWrite (s.fld R.BAS_WPTR) p.header (fun _ => false)).2.dram ∧
      RegFrame s t (PagesOrMemory [basPg, bmPg, pkPg]) PbaWords ∧ t.units = { s.units with bas := t.bas, beam := t.beam, dram := t.dram }) ∧
    (∀ π v, s.Serves π 0x180094 →
      ((v % m48 + m48 - s.fld R.BAS_RPTR) % m48 ≤ (s.fld R.BAS_WPTR + m48 - s.fld R.BAS_RPTR) % m48 →
        ((∀ p, s.bas.pkt = some p → p.body.length ≤ p.count) → ∃ t, exec (.rptrWrite π v) s = .next t ∧
          t.fld R.BAS_RPTR = v % m48 ∧ Frame s t (Keys [R.BAS_RPTR]) NoWord ∧ t.units = s.units) ∧
        (∀ p, s.bas.pkt = some p → p.count < p.body.length → ∃ t q, exec (.rptrWrite π v) s = .next t ∧ t.fld R.BAS_RPTR = v % m48 ∧
          t.bas.pkt = some q ∧ q.body = p.body ∧ p.count ≤ q.count ∧
          (∀ u, u = s.setFld R.BAS_RPTR (v % m48) → q.count = max p.count (min p.body.length (u.ringRoom - 64)) ∧
            (p.count < q.count → q.count < p.body.length → t.dram = (u.ringWrite (s.fld R.BAS_WPTR + 64 + p.count) (sliceBytes p.body p.count (q.count - p.count))
              (fun i => p.marks.getD (p.count / 32 + i) false)).2.dram)) ∧ RegFrame s t (PagesOrMemory [basPg, bmPg, pkPg]) PbaWords ∧
          t.units = { s.units with bas := t.bas, beam := t.beam, dram := t.dram })) ∧
      ((s.fld R.BAS_WPTR + m48 - s.fld R.BAS_RPTR) % m48 < (v % m48 + m48 - s.fld R.BAS_RPTR) % m48 → ∃ t, exec (.rptrWrite π v) s = .next t ∧
        t.fld R.BAS_RPTR = s.fld R.BAS_RPTR ∧ t.fld R.BAS_STAT_RPTR_BAD = 1 ∧ Frame s t (InPages [basPg, evtPg]) PbaWords ∧ t.units = s.units)) ∧
    (∀ π, s.Serves π 0x180040 →
      (s.running = false → s.bit R.BAS_STAT_FINISHING = false → ∃ t, exec (.ringReset π) s = .next t ∧ t.fld R.BAS_WPTR = 0 ∧ t.fld R.BAS_RPTR = 0 ∧
        (s.bas.pkt = none → Frame s t (Keys [R.BAS_WPTR, R.BAS_RPTR]) NoWord ∧ t.units = s.units) ∧
        (∀ p, s.bas.pkt = some p → ∃ q, t.bas.pkt = some q ∧ q.body = p.body) ∧ RegFrame s t (PagesOrMemory [basPg, bmPg, pkPg]) PbaWords ∧
        t.units = { s.units with bas := t.bas, beam := t.beam, dram := t.dram }) ∧
      (s.running = true ∨ s.bit R.BAS_STAT_FINISHING = true → ∃ t, exec (.ringReset π) s = .next t ∧ t.fld R.BAS_STAT_CFG_BLOCKED = 1 ∧
        Frame s t (Keys [R.BAS_STAT_CFG_BLOCKED]) NoWord ∧ t.units = s.units)) ∧
    (∀ n bs (pois : Nat → Bool) size base, size = s.fld R.BAS_RING_SIZE * 4096 → base = s.fld R.BAS_RING_BASE * 4096 → 0 < size →
      (n % size + bs.length ≤ size → (s.ringWrite n bs pois) = s.writeDramP .drain (base + n % size) bs pois) ∧
      (size < n % size + bs.length → (s.ringWrite n bs pois).2 = ((s.writeDramP .drain (base + n % size) (bs.take (size - n % size)) pois).2.writeDramP .drain base
        (bs.drop (size - n % size)) (fun i => pois (i + (size / 32 - n % size / 32)))).2))

/-- WEIGHT_LOAD, WEIGHT_LOAD_DONE and VREL_WRITE (R239, R243); the write served. With a run active, the free bank empty
and a beamformed channel-pass to come, WEIGHT_LOAD fills the free bank with that channel-pass's weights, read unit by
unit from the weight store by the configuration that its pass will have, marks the load in progress and sets WL_BUSY;
with the free bank full, no run, or none to come, nothing changes. WEIGHT_LOAD_DONE ends a load or a reload in
progress and clears WL_BUSY, and else changes nothing. A write of VREL stores the pass. Registers outside the BM page,
or at a load from the memory's pages up, window words but the pending bits, and the units' state but the beams' and at
a load memory's, are unchanged; memory too but at a load. -/
def Obligations.BeamWeights : Prop :=
  ∀ (s : State),
    (s.beam.free.isSome = true ∨ s.running = false ∨ s.nextBeam = none → exec .weightLoad s = .next s) ∧
    (∀ p c, s.beam.free = none → s.running = true → s.nextBeam = some (p, c) → ∃ t b, exec .weightLoad s = .next t ∧
      t.beam.loading = some (p, c) ∧ t.beam.free = some b ∧ b.pass = p ∧ b.chan = c ∧ t.beam.cur = s.beam.cur ∧ t.fld R.BM_STAT_WL_BUSY = 1 ∧
      b = (s.readWeights (s.loadCfg p) p c).1 ∧ t.dram = (s.readWeights (s.loadCfg p) p c).2.dram ∧
      b.exps = (List.range (s.loadCfg p).beams).map (fun β => s.expOf ((s.loadCfg p).passFrame p) ((c - (s.loadCfg p).bChan0) * (s.loadCfg p).beams + β)) ∧
      (∀ k base, k = s.loadCfg p → base = (if s.wtBankOf (k.passFrame p) = 0 then s.fld R.BM_BWT_BASE0 else s.fld R.BM_BWT_BASE1) * 4096 →
        ∀ a, (∀ β g, β < k.beams → g < k.nbb → ¬ s.InWords .beamw (base + 2 * (((c - k.bChan0) * k.beams + β) * k.nB + 64 * g)) (2 * min 64 (k.nB - 64 * g)) a) →
          t.dram.byteAt a = s.dram.byteAt a) ∧
      RegFrame s t (PagesOrMemory [bmPg]) PbaWords ∧ t.units = { s.units with beam := t.beam, dram := t.dram }) ∧
    (s.beam.loading = none → s.beam.reload = false → exec .weightLoadDone s = .next s) ∧
    (s.beam.loading.isSome = true ∨ s.beam.reload = true → ∃ t, exec .weightLoadDone s = .next t ∧ t.beam = { s.beam with loading := none, reload := false } ∧
      t.fld R.BM_STAT_WL_BUSY = 0 ∧ Frame s t (Keys [R.BM_STAT_WL_BUSY]) NoWord ∧ t.units = { s.units with beam := t.beam }) ∧
    (∀ π v, s.Serves π 0x1610BC → ∃ t, exec (.vrelWrite π v) s = .next t ∧ t.fld R.BM_VREL_PASS = v % 2 ^ 32 ∧
      Frame s t (Keys [R.BM_VREL_PASS]) NoWord ∧ t.units = s.units)

/-- WELL_FAILURE, WELL_WATCHDOG_EXPIRY, WELL_SELFTEST_DONE, WELL_TAKEBACK, RESTART and TEST (R276 to R278); the host's
ones served. A failure of cause 1 to 3, or a watchdog expiry (cause 4), of a Well in control or in STANDBY takes it to
its test with that cause, and shows WELL_WDT. Was it in control, the other Well takes control if it is in STANDBY and
MBX.STAT names it; if the other is neither, no Well is in control and hardware sends 800 mV. A test that Well A passes
gives it control where no Well has it, else STANDBY, from which it waits to take back from B; one that Well B passes
gives STANDBY; one that fails leaves FAILED, cause 5. The take-back swaps the two with no mailbox command in progress.
RESTART acts on a FAILED Well, TEST on one in STANDBY. Otherwise nothing changes. Registers outside the WELL, MBX, ST
and EVT pages (RESTART and TEST: the Well's own), window words but the pending bits, memory, and the units' state but
the Wells' and power's, are unchanged. -/
def Obligations.Wells : Prop :=
  ∀ (s : State) (b : Nat), b < 2 →
    (∀ c, s.fld (R.WELL_STAT_STATE b) ≠ wsControl → s.fld (R.WELL_STAT_STATE b) ≠ wsStandby →
      exec (.wellFailure b c) s = .next s ∧ exec (.wellWatchdogExpiry b) s = .next s) ∧
    (∀ c d, (d = .wellFailure b c ∧ 1 ≤ c ∧ c ≤ 3) ∨ (d = .wellWatchdogExpiry b ∧ c = 4) →
      (s.fld (R.WELL_STAT_STATE b) = wsStandby → ∃ t, exec d s = .next t ∧ t.fld (R.WELL_STAT_STATE b) = wsTest ∧
        t.fld (R.WELL_STAT_CAUSE b) = c ∧ t.fld R.ST_RST_CAUSE_WELL_WDT = 1 ∧
        Frame s t (InPages [wellPg b, pg .st, evtPg]) PbaWords ∧ t.units = s.units) ∧
      (s.fld (R.WELL_STAT_STATE b) = wsControl → s.fld (R.WELL_STAT_STATE (1 - b)) = wsStandby → ∃ t, exec d s = .next t ∧
        t.fld (R.WELL_STAT_STATE b) = wsTest ∧ t.fld (R.WELL_STAT_CAUSE b) = c ∧ t.fld (R.WELL_STAT_STATE (1 - b)) = wsControl ∧
        t.fld R.MBX_STAT_WELL = 1 - b ∧ t.fld R.MBX_STAT_NO_WELL = 0 ∧ t.well.op = none ∧
        Frame s t (InPages [wellPg 0, wellPg 1, mbxPg, pg .st, evtPg]) PbaWords ∧ t.units = { s.units with well := t.well }) ∧
      (s.fld (R.WELL_STAT_STATE b) = wsControl → s.fld (R.WELL_STAT_STATE (1 - b)) ≠ wsStandby →
        s.fld (R.WELL_STAT_STATE (1 - b)) ≠ wsControl → ∃ t, exec d s = .next t ∧
        t.fld (R.WELL_STAT_STATE b) = wsTest ∧ t.fld (R.WELL_STAT_CAUSE b) = c ∧ t.fld R.MBX_STAT_NO_WELL = 1 ∧
        t.pwr = { s.pwr with avsSent := 800, avsOpen := true } ∧ Frame s t (InPages [wellPg b, mbxPg, pg .st, evtPg]) PbaWords ∧
        t.units = { s.units with well := t.well, pwr := t.pwr })) ∧
    (∀ ok, s.fld (R.WELL_STAT_STATE b) ≠ wsTest → exec (.wellSelftestDone b ok) s = .next s) ∧
    (s.fld (R.WELL_STAT_STATE b) = wsTest →
      (b = 0 → s.wellIn = none → ∃ t, exec (.wellSelftestDone b true) s = .next t ∧ t.fld (R.WELL_STAT_STATE b) = wsControl ∧
        t.fld R.MBX_STAT_WELL = b ∧ t.fld R.MBX_STAT_NO_WELL = 0 ∧
        Frame s t (InPages [wellPg b, mbxPg, evtPg]) PbaWords ∧ t.units = { s.units with well := t.well }) ∧
      (b = 1 ∨ s.wellIn.isSome = true → ∃ t, exec (.wellSelftestDone b true) s = .next t ∧ t.fld (R.WELL_STAT_STATE b) = wsStandby ∧
        (b = 0 → s.wellIn = some 1 → t.well.takeback = true) ∧
        Frame s t (InPages [wellPg b]) PbaWords ∧ t.units = { s.units with well := t.well }) ∧
      (∃ t, exec (.wellSelftestDone b false) s = .next t ∧ t.fld (R.WELL_STAT_STATE b) = wsFailed ∧ t.fld (R.WELL_STAT_CAUSE b) = 5 ∧
        t.fld (R.WELL_FAILS_COUNT b) = (s.fld (R.WELL_FAILS_COUNT b) + 1) % 2 ^ 32 ∧
        Frame s t (InPages [wellPg b, evtPg]) PbaWords ∧ t.units = { s.units with well := t.well })) ∧
    (s.well.takeback = true → s.well.op = none → s.fld (R.WELL_STAT_STATE 0) = wsStandby → s.fld (R.WELL_STAT_STATE 1) = wsControl →
      ∃ t, exec .wellTakeback s = .next t ∧ t.fld (R.WELL_STAT_STATE 0) = wsControl ∧ t.fld (R.WELL_STAT_STATE 1) = wsStandby ∧
        t.fld (R.WELL_HANDOVERS_COUNT 1) = (s.fld (R.WELL_HANDOVERS_COUNT 1) + 1) % 2 ^ 32 ∧ t.fld R.MBX_STAT_WELL = 0 ∧
        t.well = { s.well with takeback := false } ∧
        Frame s t (InPages [wellPg 0, wellPg 1, mbxPg, evtPg]) PbaWords ∧ t.units = { s.units with well := t.well }) ∧
    (s.well.takeback = false ∨ s.well.op.isSome = true → exec .wellTakeback s = .next s) ∧
    (∀ π, s.Serves π (0x280040 + 0x1000 * b) →
      (s.fld (R.WELL_STAT_STATE b) = wsFailed → ∃ t, exec (.restart π b) s = .next t ∧ t.fld (R.WELL_STAT_STATE b) = wsTest ∧
        t.fld (R.WELL_CTL_RESTART b) = 1 ∧ Frame s t (InPages [wellPg b]) PbaWords ∧ t.units = s.units) ∧
      (s.fld (R.WELL_STAT_STATE b) ≠ wsFailed → ∃ o, exec (.restart π b) s = .next { s with opened := o }) ∧
      (s.fld (R.WELL_STAT_STATE b) = wsStandby → ∃ t, exec (.test π b) s = .next t ∧ t.fld (R.WELL_STAT_STATE b) = wsTest ∧
        t.fld (R.WELL_CTL_TEST b) = 1 ∧ Frame s t (InPages [wellPg b]) PbaWords ∧ t.units = s.units) ∧
      (s.fld (R.WELL_STAT_STATE b) ≠ wsStandby → ∃ o, exec (.test π b) s = .next { s with opened := o }))

/-- PING, FW_INFO, NVR_READ, NVR_FLUSH, SET_SUBSYS, FW_STAGE, WELL_TEST, UNKNOWN_CMD and MBX_COMMAND_DONE (R372, R373);
the GOs served. While BUSY a GO sets GO_IGN and nothing else. With no Well in control it ends at once with status 0x05
and DONE. Otherwise BUSY is set and the command, its opcode and tag, is in progress: FLUSH and SET_SUBSYS also request
a save, SET_SUBSYS with the identity of ARG0, and WELL_TEST takes the Well in STANDBY to its test; a WELL_TEST with
none there, and an FW_STAGE that arrives during a run, change no other unit and end with 0x03. The Well in control
completes PING with who it is and the version, FW_INFO with version, build, slot and key, NVR_READ with the bytes of
the newer bank that ARG0 and ARG1 name (0xFF past what is written) or 0x02 for a bad stretch, FW_STAGE with 0x02 for a
bad length or an address in no region, 0x07 and a count for an image that does not verify, 0x06 where the flash
failed, leaving its slot without an image, and else 0 with the slot that does not run, which now holds the image, an
opcode not listed with status 0x01, a command that waits for a save with status 0 (NVR_FLUSH with the sequence number)
or 0x06 once it has ended and not before, WELL_TEST with the outcome of the test; each completion clears BUSY, sets
DONE and shows the tag. With no command or no Well in control nothing changes. Registers outside the MBX page and EVT,
NVR.STAT, a tested Well's page, window words but the pending bits, memory, and the units' state but the Wells' and the
flash's, are unchanged; FW_STAGE reads memory, and changes what an access to it changes, no byte outside the image's
words. (That the address is judged before anything is read is the model's choice, log entry 159.) -/
def Obligations.Mailbox : Prop :=
  ∀ (s : State),
    (∀ π, s.Serves π 0x282044 → ∀ c op, (c, op) ∈ [(Instr.ping π, 0x01), (.fwInfo π, 0x02), (.nvrRead π, 0x10), (.nvrFlush π, 0x11),
        (.setSubsys π, 0x12), (.fwStage π, 0x20), (.wellTest π, 0x30), (.unknownCmd π, s.fld R.MBX_CMD_OPCODE)] →
      (c = .unknownCmd π → s.fld R.MBX_CMD_OPCODE ∉ [0x01, 0x02, 0x10, 0x11, 0x12, 0x20, 0x30]) →
      (s.bit R.MBX_STAT_BUSY = true → ∃ t, exec c s = .next t ∧ t.fld R.MBX_STAT_GO_IGN = 1 ∧
        Frame s t (Keys [R.MBX_STAT_GO_IGN]) NoWord ∧ t.units = s.units) ∧
      (s.bit R.MBX_STAT_BUSY = false → s.wellIn = none → ∃ t, exec c s = .next t ∧ t.fld R.MBX_STAT_STATUS = 5 ∧
        t.fld R.MBX_STAT_DONE = 1 ∧ t.fld R.MBX_STAT_BUSY = 0 ∧ t.well.op = none ∧
        Frame s t (InPages [mbxPg, evtPg]) PbaWords ∧ t.units = { s.units with well := t.well }) ∧
      (s.bit R.MBX_STAT_BUSY = false → s.wellIn.isSome = true → (op = 0x30 → s.standbyWell.isSome = true) →
        (op = 0x20 → s.running = false) → ∃ t, exec c s = .next t ∧
        t.fld R.MBX_STAT_BUSY = 1 ∧ t.well.op = some (op + 65536 * s.fld R.MBX_CMD_TAG) ∧
        (op = 0x11 ∨ op = 0x12 → t.fld R.NVR_STAT_DIRTY = 1) ∧ (op = 0x12 → t.flash.subsys = some (s.fld (R.MBX_ARG 0))) ∧
        (∀ b, op = 0x30 → s.standbyWell = some b → t.fld (R.WELL_STAT_STATE b) = wsTest) ∧
        Frame s t (fun k => Keys [R.MBX_CMD_OPCODE, R.MBX_STAT_BUSY] k ∨ op = 0x11 ∧ Keys [R.NVR_STAT_DIRTY] k ∨
          op = 0x12 ∧ Keys [R.NVR_STAT_DIRTY] k ∨ op = 0x30 ∧ InPages [wellPg 0, wellPg 1] k) PbaWords ∧
        t.units = { s.units with well := t.well, flash := t.flash }) ∧
      (s.bit R.MBX_STAT_BUSY = false → s.wellIn.isSome = true → op = 0x30 ∧ s.standbyWell = none ∨ op = 0x20 ∧ s.running = true →
        ∃ t, exec c s = .next t ∧ t.fld R.MBX_STAT_BUSY = 1 ∧ t.well.op = some (op + 65536 * s.fld R.MBX_CMD_TAG + 2 ^ 24) ∧
        Frame s t (Keys [R.MBX_CMD_OPCODE, R.MBX_STAT_BUSY]) NoWord ∧ t.units = { s.units with well := t.well })) ∧
    (∀ x ok, s.well.op = none ∨ s.wellIn = none → exec (.mbxCommandDone x ok) s = .next s) ∧
    (∀ x ok o w, s.well.op = some o → s.wellIn = some w → s.well.saved = none → o < 2 ^ 24 → o % 65536 ∈ [0x11, 0x12] →
      exec (.mbxCommandDone x ok) s = .next s) ∧
    (∀ x ok o w, s.well.op = some o → s.wellIn = some w → s.well.tested = none → o < 2 ^ 24 → o % 65536 = 0x30 → exec (.mbxCommandDone x ok) s = .next s) ∧
    (∀ x ok o w, s.well.op = some o → s.wellIn = some w →
      (o % 65536 ∈ [0x01, 0x02, 0x10, 0x20] ∨ o % 65536 ∈ [0x11, 0x12] ∧ s.well.saved.isSome = true ∨
        o % 65536 = 0x30 ∧ s.well.tested.isSome = true ∨ 2 ^ 24 ≤ o ∨ o % 65536 ∉ [0x01, 0x02, 0x10, 0x11, 0x12, 0x20, 0x30]) →
      ∃ t, exec (.mbxCommandDone x ok) s = .next t ∧ t.fld R.MBX_STAT_DONE = 1 ∧ t.fld R.MBX_STAT_BUSY = 0 ∧
        t.fld R.MBX_STAT_TAG = o / 65536 % 2 ^ 8 ∧ t.well.op = none ∧
        (2 ^ 24 ≤ o → t.fld R.MBX_STAT_STATUS = 3 ∧ t.flash = s.flash) ∧
        (o < 2 ^ 24 → o % 65536 = 0x01 → t.fld R.MBX_STAT_STATUS = 0 ∧ t.fld (R.MBX_RSP 0) = w ∧ t.fld (R.MBX_RSP 1) = s.fwVersion % 2 ^ 32) ∧
        (o < 2 ^ 24 → o % 65536 = 0x02 → t.fld R.MBX_STAT_STATUS = 0 ∧ t.fld (R.MBX_RSP 0) = s.fwVersion % 2 ^ 32 ∧
          t.fld (R.MBX_RSP 1) = ((s.flash.running.map (fun y => y.build)).getD 0) % 2 ^ 32 ∧
          t.fld (R.MBX_RSP 2) = s.fld R.SEC_BOOT_SLOT % 2 ^ 32 ∧ t.fld (R.MBX_RSP 3) = s.fld R.SEC_BOOT_KEY_INDEX % 2 ^ 32) ∧
        (∀ a n, a = s.fld (R.MBX_ARG 0) → n = s.fld (R.MBX_ARG 1) → o < 2 ^ 24 → o % 65536 = 0x10 →
          (n = 0 ∨ 32 < n ∨ 65536 < a + n → t.fld R.MBX_STAT_STATUS = 2) ∧
          (0 < n → n ≤ 32 → a + n ≤ 65536 → t.fld R.MBX_STAT_STATUS = 0 ∧ ∀ b : Nat → Nat,
            (∀ i, b i = if i < n then (((s.bank (s.newerBank.getD 0))[a + i]?).map (fun y => y.toNat)).getD 255 else 0) →
            ∀ k, k < 8 → t.fld (R.MBX_RSP k) = b (4 * k) + 256 * b (4 * k + 1) + 65536 * b (4 * k + 2) + 16777216 * b (4 * k + 3))) ∧
        (o < 2 ^ 24 → o % 65536 ∈ [0x11, 0x12] → t.fld R.MBX_STAT_STATUS = (if s.well.saved = some true then 0 else 6) ∧
          (o % 65536 = 0x11 → s.well.saved = some true → t.fld (R.MBX_RSP 0) = s.fld R.NVR_SEQ % 2 ^ 32)) ∧
        (∀ a n sl m u rd, a = s.fld (R.MBX_ARG 0) + m32 * s.fld (R.MBX_ARG 1) → n = s.fld (R.MBX_ARG 2) → sl = 1 - s.fld R.SEC_BOOT_SLOT →
          m = (if w = 0 then Master.wellA else .wellB) → (rd, u) = s.readDram m a n → o < 2 ^ 24 → o % 65536 = 0x20 →
          (n = 0 ∨ 4194304 < n ∨ s.inRegions a n = false → t.fld R.MBX_STAT_STATUS = 2 ∧ t.flash = s.flash ∧ Frame s t (InPages [mbxPg]) PbaWords) ∧
          (0 < n → n ≤ 4194304 → s.inRegions a n = true → (∀ b, ¬ s.InWords m a n b → t.dram.byteAt b = s.dram.byteAt b) ∧ t.dram = u.dram ∧
            (rd.marks.any id = true ∨ s.imgOk x = false → t.fld R.MBX_STAT_STATUS = 7 ∧ t.flash = s.flash ∧
              t.fld R.SEC_AUTH_FAILS_COUNT = (s.fld R.SEC_AUTH_FAILS_COUNT + 1) % 2 ^ R.SEC_AUTH_FAILS_COUNT.w) ∧
            (rd.marks.any id = false → s.imgOk x = true → t.fld R.MBX_STAT_STATUS = (if ok then 0 else 6) ∧
              t.flash = (if sl = 0 then { s.flash with slot0 := if ok then some x else none } else { s.flash with slot1 := if ok then some x else none }) ∧
              (ok = true → t.fld (R.MBX_RSP 0) = sl)))) ∧
        (o < 2 ^ 24 → o % 65536 = 0x30 → t.fld R.MBX_STAT_STATUS = 0 ∧ t.fld (R.MBX_RSP 0) = if s.well.tested = some true then 0 else 1) ∧
        (o < 2 ^ 24 → o % 65536 ∉ [0x01, 0x02, 0x10, 0x11, 0x12, 0x20, 0x30] → t.fld R.MBX_STAT_STATUS = 1) ∧
        (o % 65536 ≠ 0x20 ∨ 2 ^ 24 ≤ o → Frame s t (InPages [mbxPg]) PbaWords ∧ t.dram = s.dram) ∧
        RegFrame s t (PagesOrMemory [mbxPg, secPg]) PbaWords ∧ t.units = { s.units with well := t.well, flash := t.flash, dram := t.dram })

/-- OPEN and KEY_ERASE_DONE (R426), and DOE_DISCOVERY, GET_VERSION, GET_CAPABILITIES, NEGOTIATE_ALGORITHMS, GET_DIGESTS,
GET_CERTIFICATE, CHALLENGE, GET_MEASUREMENTS, UNSUPPORTED_REQUEST and DOE_ABORT (R367, R368). OPEN, served and as the
write after the key, starts the erase, or with the fuse that closes debug sets REFUSED; not as the write after the
key, or with debug open or an erase in progress, it does nothing. The erase's end empties the key SRAM and opens
debug, or shows ERASE_FAIL. A DOE request that is served, with no object in error, sends one response of its code and
content, ERROR (0x7F) for a slot other than 0, an offset past the chain, or an unknown index; one that is not served
sends none. What the host had written of an object is taken with it. A DOE_ABORT drops it, with the error of an object
too long. Registers outside the SEC and EVT pages, window words but the pending bits, memory and the units' state but
the flash's are unchanged; a DOE command changes no register and of the units' state the PCIe port's alone. -/
def Obligations.DebugAndAttestation : Prop :=
  ∀ (s : State),
    (∀ π, s.Serves π 0x340040 →
      (pathKey π secPg.base ∉ s.opened ∨ s.bit R.SEC_DBG_STAT_OPENED = true ∨ s.bit R.SEC_DBG_STAT_ERASING = true →
        ∃ o, exec (.open π) s = .next { s with opened := o }) ∧
      (pathKey π secPg.base ∈ s.opened → s.bit R.SEC_DBG_STAT_OPENED = false → s.bit R.SEC_DBG_STAT_ERASING = false →
        (s.bit R.FUSE_SEC_CFG_DBG_PERM_CLOSED = true → ∃ t, exec (.open π) s = .next t ∧ t.fld R.SEC_DBG_STAT_REFUSED = 1 ∧
          Frame s t (InPages [secPg, evtPg]) PbaWords ∧ t.units = s.units) ∧
        (s.bit R.FUSE_SEC_CFG_DBG_PERM_CLOSED = false → ∃ t, exec (.open π) s = .next t ∧ t.fld R.SEC_DBG_STAT_ERASING = 1 ∧
          Frame s t (Keys [R.SEC_DBG_STAT_ERASING]) NoWord ∧ t.units = s.units))) ∧
    (∀ ok, s.bit R.SEC_DBG_STAT_ERASING = false → exec (.keyEraseDone ok) s = .next s) ∧
    (∀ ok, s.bit R.SEC_DBG_STAT_ERASING = true → ∃ t, exec (.keyEraseDone ok) s = .next t ∧ t.flash = { s.flash with keys := false } ∧
      t.fld R.SEC_DBG_STAT_ERASING = 0 ∧ (ok = true → t.fld R.SEC_DBG_STAT_OPENED = 1) ∧
      (ok = false → t.fld R.SEC_DBG_STAT_ERASE_FAIL = 1 ∧ t.fld R.SEC_DBG_STAT_OPENED = s.fld R.SEC_DBG_STAT_OPENED) ∧
      Frame s t (InPages [secPg, evtPg]) PbaWords ∧ t.units = { s.units with flash := t.flash }) ∧
    (exec .doeAbort s = .next { s with pcie := { s.pcie with doe := [], doeErr := false } }) ∧
    (∀ i slot off len sg n code c r q m b,
      m = (if i = 0 then [4] else if i = 0xFF then (List.range 4).flatMap (fun j => (j + 1) :: s.measurement (j + 1)) else i :: s.measurement i) →
      b = min len (s.chainLen - off) →
      (c, r, q) ∈ [(Instr.doeDiscovery i, 0, some (if i = 0 then [1, 0, 1] else if i = 1 then [1, 1, 0] else [0xFFFF, 0xFF, 0])),
        (.getVersion, 0x04, some [0x1200, 0x1300]), (.getCapabilities, 0x61, some [4096]),
        (.negotiateAlgorithms, 0x63, some [0x80, 0x02]), (.getDigests, 0x01, some [0x01, s.chainDigest]),
        (.getCertificate slot off len, if slot ≠ 0 ∨ s.chainLen ≤ off then 0x7F else 0x02, if slot ≠ 0 ∨ s.chainLen ≤ off then some [1, 0] else
          some (slot :: b :: (s.chainLen - off - b) :: (List.range b).map (fun j => Config.crypto 7 [s.fld R.ID_SERIAL, off + j] % 256))),
        (.challenge slot n, if slot ≠ 0 then 0x7F else 0x03, if slot ≠ 0 then some [1, 0] else none),
        (.getMeasurements i sg n, if i ≤ 4 ∨ i = 0xFF then 0x60 else 0x7F, if i ≤ 4 ∨ i = 0xFF then
          some (m ++ (if sg then s.signature (leNat n :: m) else [])) else some [1, 0]), (.unsupportedRequest code, 0x7F, some [7, 0])] →
      ∃ t p, exec c s = .next t ∧ (q = none ∨ q = some p) ∧
        (s.doeServed = true → s.pcie.doeErr = false → t.out = Out.doe r p :: s.out ∧ t.pcie = { s.pcie with doe := [] }) ∧
        (s.doeServed = false ∨ s.pcie.doeErr = true → t.out = s.out ∧ t.pcie = s.pcie) ∧
        Frame s t (Keys []) NoWord ∧ t.units = { s.units with pcie := t.pcie })

/-- DRAM_REQUEST, DRAM_READ_COMPLETE, TRACK_EXPIRY, LOG_POP, SCRUB_PASS_START, START, SCRUB_READ and SOFT_SPARE (R289 to
R297, R303, R307 to R310); the host's ones served. A request with a place on a channel that is offline for a retrain,
and not retired, is held. Another counts its failed attempts up to two and takes its channel out of self-refresh. A
read, and a write that ends in an error response, leave every byte of memory; a read has each word that it asks for
accepted, or marked failed with the third failure; a failed write's granule enters the write-fault table, with
WIN_DROP where it is the host's; a write stores its bytes at the places that its addresses map to, and changes no byte
outside those words. A read that was accepted completes: a corrected word counts in CE, an uncorrectable one in UE,
bad data to a master but a Well in POISON_OUT, every byte outside its word unchanged, and so does a scrub read, of the
word that the pass's order makes the next and of no other; one that was not changes nothing. An expired tracking entry
is freed, another kept. A pop drops a controller's oldest log entry. A scrub pass begins at its first word when it is
due and none is in progress, START's at once, with ACTIVE set and PERMILLE 0; with the period 0 neither begins; after
its last word the pass counts, and is over unless the next is due. The first row in the spare queue takes the next
free spare of its bank, every byte outside the row is unchanged, and a save is requested; with four used it is counted
as exhausted. Registers below the memory controllers' pages, window words but the pending bits, and the units' state
but memory's are unchanged. (That a request to a channel that retrains is held whatever its kind, that SCRUB_READ
waits for a remap, and that START begins a pass in progress anew are the model's readings: log entries 160, 161 and
20.) -/
def Obligations.MemoryRequestsAndScrub : Prop :=
  ∀ (s : State),
    (∀ q p, s.placeOf q.master q.addr = some p → placeChan p ∈ s.dram.retraining → s.chanRetired (placeChan p) = false →
      exec (.dramRequest q) s = .next { s with dram := { s.dram with held := s.dram.held ++ [(placeChan p, q)] } }) ∧
    (∀ q p k, s.placeOf q.master q.addr = some p → (placeChan p ∈ s.dram.retraining → s.chanRetired (placeChan p) = true) → k = placeChan p / 8 → ∃ t, exec (.dramRequest q) s = .next t ∧
      t.fld (R.MC_CMD_RETRY k) = (s.fld (R.MC_CMD_RETRY k) + min q.failures 2) % 2 ^ 48 ∧
      (q.write = false ∨ 3 ≤ q.failures → ∀ a, t.dram.byteAt a = s.dram.byteAt a) ∧
      (q.write = true → q.failures < 3 →
        t.dram = (((s.wakeChan (placeChan p)).addFld (R.MC_CMD_RETRY k) (min q.failures 2)).writeDram q.master q.addr q.data).2.dram ∧
        (s.bit R.MAP_STAT_FILL_BUSY = false → ∀ a, ¬ s.InWords q.master q.addr q.data.length a → t.dram.byteAt a = s.dram.byteAt a) ∧
        (s.chanRetired (placeChan p) = false → (q.master = .host ∨ q.master = .dma → ∀ o, s.rgnOf (q.addr / 32 * 32) ≠ some (7, o)) →
          q.addr % 32 + q.data.length ≤ 32 → ∀ i, i < q.data.length → t.dram.byteAt (p + i) = some (q.data.getD i 0))) ∧
      (q.write = false → q.failures < 3 → t.dram.reads = s.dram.reads ++ (s.wordsOf q).map (fun w => (q.master, w))) ∧
      (q.write = false → 3 ≤ q.failures → q.master ≠ .wellA → q.master ≠ .wellB →
        t.dram.reads = s.dram.reads ∧ t.dram.failed = s.dram.failed ++ (s.wordsOf q).map (fun w => (q.master, w))) ∧
      (q.write = true → 3 ≤ q.failures → (q.master = .host → t.fld R.PCIE_EVT_WIN_DROP = 1) ∧
        (p / 64 ∈ s.dram.wfaults ∨ (s.dram.wfaults.filter (fun g => decide (placeChan (g * 64) = placeChan p))).length < 16 → p / 64 ∈ t.dram.wfaults)) ∧
      (s.chanAsleep (placeChan p) = true → t.chanAsleep (placeChan p) = false) ∧
      RegFrame s t MemoryUp PbaWords ∧ t.units = { s.units with dram := t.dram }) ∧
    (∀ q, s.placeOf q.master q.addr = none → ∃ t, exec (.dramRequest q) s = .next t ∧ t.fld R.MX_STAT_DEC_ERR = 1 ∧
      Frame s t (InPages [pg .mx, evtPg]) PbaWords ∧ t.units = s.units) ∧
    (∀ m a es, s.placeOf m a = none → exec (.dramReadComplete m a es) s = .next s) ∧
    (∀ m a es p, s.placeOf m a = some p → (m, p / 32) ∉ s.dram.reads → exec (.dramReadComplete m a es) s = .next s) ∧
    (∀ m a es p, s.placeOf m a = some p → (m, p / 32) ∈ s.dram.reads → ∃ t, exec (.dramReadComplete m a es) s = .next t ∧
      t.dram.reads = s.dram.reads.erase (m, p / 32) ∧ (∀ b, b / 32 ≠ p / 32 → t.dram.byteAt b = s.dram.byteAt b) ∧
      (∀ x k, s.blankWord (p / 32) = false → s.chanRetired (placeChan p) = false → (m, p / 32) ∉ s.dram.failed → p / 64 ∉ s.dram.wfaults → k = placeChan p / 8 →
        x = (if es = [] then s.dram.words.get cleanWord (p / 32) else { (s.dram.words.get cleanWord (p / 32)) with errs := es }) →
        (∀ y, x.outcome (s.wordBytes (p / 32)) = .corrected y → t.fld (R.MC_CE k) = (s.fld (R.MC_CE k) + 1) % 2 ^ (R.MC_CE k).w) ∧
        (x.outcome (s.wordBytes (p / 32)) = .ue → t.fld (R.MC_UE k) = (s.fld (R.MC_UE k) + 1) % 2 ^ (R.MC_UE k).w) ∧
        (x.outcome (s.wordBytes (p / 32)) = .ue ∨ x.outcome (s.wordBytes (p / 32)) = .poison → m ≠ .wellA → m ≠ .wellB →
          t.fld (R.MC_POISON_OUT k) = (s.fld (R.MC_POISON_OUT k) + 1) % 2 ^ (R.MC_POISON_OUT k).w)) ∧
      RegFrame s t MemoryUp PbaWords ∧ t.units = { s.units with dram := t.dram }) ∧
    (∀ n x, s.track n = some x →
      (x.last + 4 * s.scrubMin * minuteTicks ≤ s.ticks → ∃ t, exec (.trackExpiry n) s = .next t ∧ t.track n = none ∧
        (∀ m, m ≠ n → t.track m = s.track m) ∧ Frame s t (Keys []) NoWord ∧ t.units = { s.units with dram := t.dram }) ∧
      (s.ticks < x.last + 4 * s.scrubMin * minuteTicks → exec (.trackExpiry n) s = .next s)) ∧
    (∀ n, s.track n = none → exec (.trackExpiry n) s = .next s) ∧
    (∀ π k, s.Serves π (0x1C0060 + 0x1000 * k) → ∃ t, exec (.logPop π k) s = .next t ∧ t.mcLog k = (s.mcLog k).tail ∧
      Frame s t (Keys []) NoWord ∧ t.units = { s.units with dram := t.dram }) ∧
    (s.scrubMin = 0 ∨ s.bit R.SCR_STAT_ACTIVE = true ∨ s.scrubDue = false → exec .scrubPassStart s = .next s) ∧
    (s.scrubMin ≠ 0 → s.bit R.SCR_STAT_ACTIVE = false → s.scrubDue = true → s.dram.selfRefresh = false → ∃ t, exec .scrubPassStart s = .next t ∧
      t.fld R.SCR_STAT_ACTIVE = 1 ∧ t.fld R.SCR_PROG_PERMILLE = 0 ∧ t.dram = { s.dram with scrubStart := some s.ticks, scrubAt := none } ∧
      Frame s t (Keys [R.SCR_STAT_ACTIVE, R.SCR_PROG_PERMILLE]) NoWord ∧ t.units = { s.units with dram := t.dram }) ∧
    (∀ π, s.Serves π 0x1C9040 →
      (s.scrubMin = 0 → ∃ o, exec (.start π) s = .next { s with opened := o }) ∧
      (s.scrubMin ≠ 0 → ∃ t, exec (.start π) s = .next t ∧ t.fld R.SCR_STAT_ACTIVE = 1 ∧ t.fld R.SCR_PROG_PERMILLE = 0 ∧
        t.dram = { s.dram with scrubStart := some s.ticks, scrubAt := none } ∧ Frame s t (Keys [R.SCR_STAT_ACTIVE, R.SCR_PROG_PERMILLE]) NoWord ∧
        t.units = { s.units with dram := t.dram })) ∧
    (∀ c b r w es x, s.bit R.SCR_STAT_ACTIVE = false ∨ s.dram.selfRefresh = true ∨ s.bit R.MAP_STAT_REMAP_BUSY = true ∨ 16 ≤ b ∨ 65536 ≤ r ∨ 64 ≤ w ∨
        s.scrubNext s.dram.scrubAt ≠ some (rowIndex (mkPlace c b r (32 * w)), c, w) →
      exec (.scrubRead c b r w es x) s = .next s) ∧
    (∀ c b r w es x row, s.bit R.SCR_STAT_ACTIVE = true → s.dram.selfRefresh = false → s.bit R.MAP_STAT_REMAP_BUSY = false → b < 16 → r < 65536 → w < 64 →
      row = rowIndex (mkPlace c b r (32 * w)) → s.scrubNext s.dram.scrubAt = some (row, c, w) → ∃ t, exec (.scrubRead c b r w es x) s = .next t ∧
      (s.scrubNext (some (row, c, w)) ≠ none → t.dram.scrubAt = some (row, c, w) ∧ t.fld R.SCR_STAT_ACTIVE = 1 ∧ t.fld R.SCR_PASSES = s.fld R.SCR_PASSES) ∧
      (s.scrubNext (some (row, c, w)) = none → t.fld R.SCR_PASSES = (s.fld R.SCR_PASSES + 1) % 2 ^ R.SCR_PASSES.w ∧ Raised t (pg .scr) 0 ∧
        t.fld R.SCR_STAT_ACTIVE = (if s.scrubDue = true ∧ s.scrubMin ≠ 0 then 1 else 0) ∧
        (s.scrubDue = true → s.scrubMin ≠ 0 → t.dram.scrubAt = none ∧ t.dram.scrubStart = some s.ticks)) ∧
      (∀ a, a / 32 ≠ mkPlace c b r (32 * w) / 32 → t.dram.byteAt a = s.dram.byteAt a) ∧
      RegFrame s t MemoryUp PbaWords ∧ t.units = { s.units with dram := t.dram }) ∧
    (s.dram.spareQ = [] → exec .softSpare s = .next s) ∧
    (∀ c b r rest, s.dram.spareQ = (c, b, r) :: rest →
      (s.sparesUsed c b < 4 → ∃ t, exec .softSpare s = .next t ∧ t.dram.spares = s.dram.spares ++ [⟨c, b, s.sparesUsed c b, r⟩] ∧
        (∃ l, t.dram.spareQ = rest ++ l) ∧ t.fld R.SCR_SPARES_APPLIED = (s.fld R.SCR_SPARES_APPLIED + 1) % 2 ^ 48 ∧
        t.fld R.NVR_STAT_DIRTY = 1 ∧ (∀ a, a / 2048 ≠ mkPlace c b r 0 / 2048 → t.dram.byteAt a = s.dram.byteAt a) ∧
        RegFrame s t MemoryUp PbaWords ∧ t.units = { s.units with dram := t.dram }) ∧
      (4 ≤ s.sparesUsed c b → ∃ t, exec .softSpare s = .next t ∧ t.dram = { s.dram with spareQ := rest } ∧
        t.fld R.SCR_SPARE_EXHAUSTED = (s.fld R.SCR_SPARE_EXHAUSTED + 1) % 2 ^ 48 ∧
        Frame s t (InPages [pg .scr, evtPg]) PbaWords ∧ t.units = { s.units with dram := t.dram }))

/-- REGION_WRITE, REMAP, REMAP_DONE, FILL and FILL_DONE (R284 to R286, R304, R306, R316); the host's ones served. A write
of the base or the slice of a disabled region stores it, the base's low half by way of its staging register; one that
would change the slice of an enabled region is dropped with CFG_BLOCKED. Enabling a disabled region that R285 allows
sets ENABLE; a refused enable leaves it 0 and counts an error. Region 7 takes no write. REMAP and FILL are refused
with CFG_BLOCKED where R306 and R316 say so; else REMAP takes the active channels and sets its busy bits, and FILL
sets its busy bits and zero progress. REMAP_DONE clears its bits, and REMAP_NEEDED unless a channel has retired
meanwhile; a byte of memory stays, or is as never written, or is one that the Wells write in region 7. FILL_DONE
clears its bits, with the region FILLED, its SCRUB 1 and FILL_PROG its size: every byte of the region that the fill
had still to pass reads 0 and every other is unchanged. With neither in progress they change nothing. Registers
outside the MAP and EVT pages, at a fill those from the memory controllers' pages up, window words but the pending
bits, memory's bytes where nothing else is said, and the units' state but memory's are unchanged. -/
def Obligations.MapCommands : Prop :=
  ∀ (s : State),
    (∀ π off v, ¬ (0x1C8080 ≤ off ∧ off < 0x1C8100) → exec (.regionWrite π off v) s = .next s) ∧
    (∀ π r off v, r < 7 → off = 0x1C8088 + 16 * r → s.Serves π off →
      (s.bit (R.MAP_RGN_CTL_ENABLE r) = false → ∃ t, exec (.regionWrite π off v) s = .next t ∧
        t.fld (R.MAP_RGN_SLICE_CBASE r) = v % 4096 ∧ t.fld (R.MAP_RGN_SLICE_CSIZE r) = v / 65536 % 4096 ∧
        Frame s t (Keys [R.MAP_RGN_SLICE_CBASE r, R.MAP_RGN_SLICE_CSIZE r]) NoWord ∧ t.units = s.units) ∧
      (s.bit (R.MAP_RGN_CTL_ENABLE r) = true → v % 4096 ≠ s.fld (R.MAP_RGN_SLICE_CBASE r) ∨ v / 65536 % 4096 ≠ s.fld (R.MAP_RGN_SLICE_CSIZE r) →
        ∃ t, exec (.regionWrite π off v) s = .next t ∧ t.fld R.MAP_STAT_CFG_BLOCKED = 1 ∧
          Frame s t (Keys [R.MAP_STAT_CFG_BLOCKED]) NoWord ∧ t.units = s.units)) ∧
    (∀ π r off v u, r < 7 → off = 0x1C808C + 16 * r → s.Serves π off → s.bit (R.MAP_RGN_CTL_ENABLE r) = false → v / 4 % 2 = 1 →
      u = ((s.setFld (R.MAP_RGN_CTL_ORDER r) (v % 4)).setFld (R.MAP_RGN_CTL_CHAN r) (v / 256 % 64)).setFld (R.MAP_RGN_CTL_SCRUB r) (v / 8 % 2) →
      ∃ t, exec (.regionWrite π off v) s = .next t ∧ t.fld (R.MAP_RGN_CTL_ORDER r) = v % 4 ∧ t.fld (R.MAP_RGN_CTL_CHAN r) = v / 256 % 64 ∧
        (u.rgnRefused r = none → t.fld (R.MAP_RGN_CTL_ENABLE r) = 1) ∧
        ((u.rgnRefused r).isSome = true → t.bit (R.MAP_RGN_CTL_ENABLE r) = false ∧
          t.fld (R.PG_ERR_CNT_COUNT (pg .map)) = (s.fld (R.PG_ERR_CNT_COUNT (pg .map)) + 1) % 2 ^ 32) ∧
        Frame s t (InPages [pg .map, evtPg]) PbaWords ∧ t.units = s.units) ∧
    (∀ π r off v, r < 7 → off = 0x1C8080 + 16 * r → s.Serves π off → s.bit (R.MAP_RGN_CTL_ENABLE r) = false →
      ∃ t, exec (.regionWrite π off v) s = .next t ∧ t.stagedLo π off = some (v % 2 ^ 32) ∧ Frame s t (Keys []) NoWord ∧ t.units = s.units) ∧
    (∀ π r off v, r < 7 → off = 0x1C8084 + 16 * r → s.Serves π off → s.bit (R.MAP_RGN_CTL_ENABLE r) = false →
      ∃ t, exec (.regionWrite π off v) s = .next t ∧ t.stagedLo π (off - 4) = none ∧
        t.fld (R.MAP_RGN_BASE_BASE r) = (match s.stagedLo π (off - 4) with | some x => x / 2 ^ 26 % 64 | none => s.fld (R.MAP_RGN_BASE_BASE r) % 64) + 64 * (v % 256) ∧
        Frame s t (Keys [R.MAP_RGN_BASE_BASE r]) NoWord ∧ t.units = s.units) ∧
    (∀ π off v, 0x1C80F0 ≤ off → off < 0x1C8100 → s.Serves π off → ∃ o, exec (.regionWrite π off v) s = .next { s with opened := o }) ∧
    (∀ π, s.Serves π 0x1C8040 →
      (s.bit R.MAP_CTL_REMAP = true → ∃ o, exec (.remap π) s = .next { s with opened := o }) ∧
      (s.bit R.MAP_CTL_REMAP = false → s.running = true ∨ s.dmaIdle = false ∨ s.bit R.BAS_STAT_FINISHING = true ∨ s.bit R.MAP_STAT_FILL_BUSY = true →
        ∃ t, exec (.remap π) s = .next t ∧ t.fld R.MAP_STAT_CFG_BLOCKED = 1 ∧ Frame s t (Keys [R.MAP_STAT_CFG_BLOCKED]) NoWord ∧ t.units = s.units) ∧
      (s.bit R.MAP_CTL_REMAP = false → s.running = false → s.dmaIdle = true → s.bit R.BAS_STAT_FINISHING = false → s.bit R.MAP_STAT_FILL_BUSY = false →
        ∃ t, exec (.remap π) s = .next t ∧ t.fld R.MAP_STAT_REMAP_BUSY = 1 ∧ t.dram = { s.dram with mapped := s.activeChans } ∧
          t.fld R.MAP_STAT_MAP_CH = s.fld R.MAP_STAT_ACT_CH % 2 ^ 7 ∧
          Frame s t (Keys [R.MAP_STAT_MAP_CH, R.MAP_CTL_REMAP, R.MAP_STAT_REMAP_BUSY]) NoWord ∧ t.units = { s.units with dram := t.dram })) ∧
    (s.bit R.MAP_STAT_REMAP_BUSY = false → exec .remapDone s = .next s) ∧
    (s.bit R.MAP_STAT_REMAP_BUSY = true → ∃ t, exec .remapDone s = .next t ∧ t.fld R.MAP_STAT_REMAP_BUSY = 0 ∧ t.fld R.MAP_CTL_REMAP = 0 ∧
      t.fld R.MAP_STAT_REMAP_NEEDED = (if s.fld R.MAP_STAT_ACT_CH < s.fld R.MAP_STAT_MAP_CH then 1 else 0) ∧ t.dram.sysDone = true ∧
      (∀ r, r < 7 → s.rgnOrder r ≠ 2 → t.fld (R.MAP_RGN_CTL_FILLED r) = 0 ∧ t.fld (R.MAP_RGN_CTL_SCRUB r) = 0) ∧
      (∀ a, t.dram.byteAt a = s.dram.byteAt a ∨ t.dram.byteAt a = none ∨
        ∃ o, offsetIn (s.rgnOrder 7) (s.rgnChans 7) (s.rgnCbase 7) a = some o ∧ o < s.rgnSize 7) ∧
      RegFrame s t (InPages [pg .map, evtPg]) PbaWords ∧ t.units = { s.units with dram := t.dram }) ∧
    (∀ π g r, s.Serves π 0x1C8040 → r = g % 8 →
      (s.bit R.MAP_CTL_FILL = true ∨ s.bit R.MAP_STAT_FILL_BUSY = true ∨ s.bit R.MAP_STAT_REMAP_BUSY = true ∨ r = 7 ∨ s.bit (R.MAP_RGN_CTL_ENABLE r) = false →
        ∃ t, exec (.fill π g) s = .next t ∧ t.fld R.MAP_STAT_CFG_BLOCKED = 1 ∧ Frame s t (Keys [R.MAP_CTL_FILL_RGN, R.MAP_STAT_CFG_BLOCKED]) NoWord ∧
          t.units = s.units) ∧
      (s.bit R.MAP_CTL_FILL = false → s.bit R.MAP_STAT_FILL_BUSY = false → s.bit R.MAP_STAT_REMAP_BUSY = false → r ≠ 7 → s.bit (R.MAP_RGN_CTL_ENABLE r) = true →
        ∃ t, exec (.fill π g) s = .next t ∧ t.fld R.MAP_STAT_FILL_BUSY = 1 ∧ t.fld R.MAP_CTL_FILL_RGN = r ∧ t.fld R.MAP_FILL_PROG_MIB = 0 ∧
          t.dram.fillRgn = r ∧ t.dram.fillPos = 0 ∧ Frame s t MemoryUp NoWord ∧
          (s.dram.selfRefresh = false → Frame s t (Keys [R.MAP_CTL_FILL_RGN, R.MAP_CTL_FILL, R.MAP_STAT_FILL_BUSY, R.MAP_FILL_PROG_MIB]) NoWord) ∧
          (∀ c, c ∈ s.rgnChans r → s.chanRetired c = false → t.chanAsleep c = false) ∧
          t.units = { s.units with dram := t.dram })) ∧
    (s.bit R.MAP_STAT_FILL_BUSY = false → exec .fillDone s = .next s) ∧
    (s.bit R.MAP_STAT_FILL_BUSY = true → s.dram.fillRgn < 8 → ∃ t, exec .fillDone s = .next t ∧ t.fld R.MAP_STAT_FILL_BUSY = 0 ∧
      t.fld R.MAP_CTL_FILL = 0 ∧ t.fld (R.MAP_RGN_CTL_FILLED s.dram.fillRgn) = 1 ∧ t.fld (R.MAP_RGN_CTL_SCRUB s.dram.fillRgn) = 1 ∧
      t.fld R.MAP_FILL_PROG_MIB = max s.dram.fillPos (s.rgnSize s.dram.fillRgn) / 2 ^ 20 % 2 ^ R.MAP_FILL_PROG_MIB.w ∧
      (∀ a o, offsetIn (s.rgnOrder s.dram.fillRgn) (s.rgnChans s.dram.fillRgn) (s.rgnCbase s.dram.fillRgn) a = some o → s.dram.fillPos ≤ o →
        o < s.rgnSize s.dram.fillRgn → t.dram.byteAt a = some 0) ∧
      (∀ a, (∀ o, offsetIn (s.rgnOrder s.dram.fillRgn) (s.rgnChans s.dram.fillRgn) (s.rgnCbase s.dram.fillRgn) a = some o →
        o < s.dram.fillPos ∨ s.rgnSize s.dram.fillRgn ≤ o) → t.dram.byteAt a = s.dram.byteAt a) ∧
      RegFrame s t MemoryUp PbaWords ∧ t.units = { s.units with dram := t.dram })

/-- REFRESH_INTERVAL, TEMP_CHANGE, THERMTRIP, DRAM_RETRAIN_TIMER, MC_RETRAIN, DRAM_RETRAIN_DONE and RETIRE (R298, R299,
R303, R304, R465); the host's ones served. A multiplier that waits is taken up by both controllers of its stack; with
none waiting nothing changes. A temperature is shown by both, HOT follows 125 °C, and above 135 °C THERMTRIP_N is
driven low, by THERMTRIP too, which changes nothing else. The timer, once RT_INTERVAL × 10 ms have passed since it
last acted, retrains the next channel in turn, or remembers it while one retrains or that channel is in self-refresh;
disabled or too early it does nothing. A commanded retrain starts at once or waits; one of a retired channel, or while
the field reads 1, does nothing but name its channel. A retrain that ends well puts its channel back online; RETIRE,
or one that fails, retires the channel: its bit is set and a save is requested; a request held at the channel is
performed, when the retrain ends well, like a new one, and when the channel retires answered as every request to a
retired channel: a write changes no byte of memory and counts in DEAD_ACC. Registers outside the pages of the
controllers concerned and MAP, MERE, EVT and NVR, window words but the pending bits, memory's bytes, and the units'
state but memory's and THERMTRIP_N, are unchanged. -/
def Obligations.RefreshAndRetraining : Prop :=
  ∀ (s : State),
    (∀ x, exec (.thermtrip x) s = .next (if 135 < x then { s with thermtrip := true } else s)) ∧
    (∀ k, s.nStacks ≤ k ∨ s.dram.nextMult.get none k = none → exec (.refreshInterval k) s = .next s) ∧
    (∀ k m, k < s.nStacks → s.dram.nextMult.get none k = some m → ∃ t, exec (.refreshInterval k) s = .next t ∧
      t.fld (R.MC_TEMP_REF_MULT (2 * k)) = m % 4 ∧ t.fld (R.MC_TEMP_REF_MULT (2 * k + 1)) = m % 4 ∧ t.dram.nextMult.get none k = none ∧
      Frame s t (InPages [⟨.mc, 2 * k⟩, ⟨.mc, 2 * k + 1⟩, pg .map, merePg]) PbaWords ∧ t.units = { s.units with dram := t.dram }) ∧
    (∀ k x, s.nStacks ≤ k → exec (.tempChange k x) s = .next s) ∧
    (∀ k x, k < s.nStacks → ∃ t, exec (.tempChange k x) s = .next t ∧ t.fld (R.MC_TEMP (2 * k)) = unsgn 8 x ∧
      t.fld (R.MC_TEMP (2 * k + 1)) = unsgn 8 x ∧ t.fld (R.MC_TEMP_HOT (2 * k)) = (if 125 < x then 1 else 0) ∧
      (135 < x → t.thermtrip = true) ∧ (x ≤ 135 → t.thermtrip = s.thermtrip) ∧
      (∀ m, m = multOf ((s.dram.nextMult.get none k).getD (s.fld (R.MC_TEMP_REF_MULT (2 * k)))) x →
        t.dram.nextMult.get none k = (if m = s.fld (R.MC_TEMP_REF_MULT (2 * k)) then none else some m)) ∧
      Frame s t (InPages [⟨.mc, 2 * k⟩, ⟨.mc, 2 * k + 1⟩, evtPg]) PbaWords ∧ t.units = { s.units with dram := t.dram, thermtrip := t.thermtrip }) ∧
    (s.bit R.MAP_CFG_RT_EN = false ∨ s.rtDue = false → exec .dramRetrainTimer s = .next s) ∧
    (∀ x, s.dram.rtLast = some x → (s.rtDue = true ↔ max 1 (s.fld R.MAP_CFG_RT_INTERVAL) * 10000000 ≤ (s.ticks - x) * 10240)) ∧
    (∀ c, s.bit R.MAP_CFG_RT_EN = true → s.rtDue = true → s.dram.retraining ≠ [] ∨ s.nextRetrain = some c ∧ s.chanAsleep c = true →
      exec .dramRetrainTimer s = .next { s with dram := { s.dram with rtLast := some s.ticks, retrainDue := true } }) ∧
    (s.bit R.MAP_CFG_RT_EN = true → s.rtDue = true → s.dram.retraining = [] → s.nextRetrain = none →
      exec .dramRetrainTimer s = .next { s with dram := { s.dram with rtLast := some s.ticks } }) ∧
    (∀ c, s.bit R.MAP_CFG_RT_EN = true → s.rtDue = true → s.dram.retraining = [] → s.nextRetrain = some c → s.chanAsleep c = false →
      ∃ t, exec .dramRetrainTimer s = .next t ∧ t.dram.retraining = [c] ∧ t.dram.retrainDue = false ∧ t.dram.rtLast = some s.ticks ∧
        t.fld (R.MC_RETRAINS (c % 64 / 8)) = (s.fld (R.MC_RETRAINS (c % 64 / 8)) + 1) % 2 ^ 48 ∧
        Frame s t (Keys [R.MC_STAT_OFFLINE (c % 64 / 8), R.MC_RETRAINS (c % 64 / 8)]) NoWord ∧ t.units = { s.units with dram := t.dram }) ∧
    (∀ π k ch c, k < 8 → s.Serves π (0x1C0040 + 0x1000 * k) → c = 8 * k + ch % 8 →
      (s.bit (R.MC_CTL_RETRAIN k) = true ∨ s.chanRetired c = true → ∃ t, exec (.mcRetrain π k ch) s = .next t ∧
        t.fld (R.MC_CTL_CH k) = ch % 8 ∧ Frame s t (Keys [R.MC_CTL_CH k]) NoWord ∧ t.units = s.units) ∧
      (s.bit (R.MC_CTL_RETRAIN k) = false → s.chanRetired c = false → ∃ t, exec (.mcRetrain π k ch) s = .next t ∧
        t.fld (R.MC_CTL_CH k) = ch % 8 ∧ t.fld (R.MC_CTL_RETRAIN k) = 1 ∧
        (s.chanAsleep c = false → s.dram.retraining = [] → s.dram.manual = [] → t.dram.retraining = [c] ∧ Frame s t (InPages [⟨.mc, k⟩]) NoWord) ∧
        (s.dram.retraining ≠ [] ∨ s.chanAsleep c = true ∧ s.dram.manual = [] ∧ s.dram.retrainDue = false →
          t.dram = { s.dram with manual := s.dram.manual ++ [c] } ∧ Frame s t (InPages [⟨.mc, k⟩]) NoWord) ∧
        Frame s t MemoryUp NoWord ∧ t.units = { s.units with dram := t.dram }) ∧
      (s.chanRetired c = true → ∃ t, exec (.retire π k ch) s = .next t ∧ t.fld (R.MC_CTL_CH k) = ch % 8 ∧
        Frame s t (Keys [R.MC_CTL_CH k]) NoWord ∧ t.units = s.units) ∧
      (s.chanRetired c = false → ∃ t, exec (.retire π k ch) s = .next t ∧ t.chanRetired c = true ∧ t.chanActive c = false ∧
        t.fld R.NVR_STAT_DIRTY = 1 ∧ ((∀ x ∈ s.dram.held, x.1 ≠ c) → t.dram = { s.dram with manual := s.dram.manual.filter (fun m => m != c) } ∧
          Frame s t (InPages [⟨.mc, k⟩, pg .map, merePg, evtPg, pg .nvr]) PbaWords) ∧
        t.dram.held = s.dram.held.filter (fun x => decide (x.1 ≠ c)) ∧
        (∀ q p, s.dram.held.filter (fun x => decide (x.1 = c)) = [(c, q)] → q.write = true → q.failures < 3 → s.placeOf q.master q.addr = some p → placeChan p = c →
          0 < q.data.length → q.addr % 32 + q.data.length ≤ 32 → q.master ≠ .host → q.master ≠ .dma → s.bit R.MAP_STAT_FILL_BUSY = false →
          t.fld (R.MC_DEAD_ACC k) = (s.fld (R.MC_DEAD_ACC k) + 1) % 2 ^ (R.MC_DEAD_ACC k).w ∧ ∀ a, t.dram.byteAt a = s.dram.byteAt a) ∧
        RegFrame s t (fun x => InPages [merePg] x ∨ MemoryUp x) PbaWords ∧ t.units = { s.units with dram := t.dram })) ∧
    (∀ c ok, c ∉ s.dram.retraining → exec (.dramRetrainDone c ok) s = .next s) ∧
    (∀ c, c < 64 → c ∈ s.dram.retraining → s.dram.manual = [] → s.dram.retrainDue = false →
      (∀ q p u, s.dram.held.filter (fun x => decide (x.1 = c)) = [(c, q)] → s.placeOf q.master q.addr = some p →
        exec (.dramRetrainDone c true) { s with dram := { s.dram with held := s.dram.held.filter (fun x => decide (x.1 ≠ c)) } } = .next u →
        s.chanRetired c = false → placeChan p = c → ∃ t, exec (.dramRetrainDone c true) s = .next t ∧ exec (.dramRequest q) u = .next t) ∧
      ((∀ x ∈ s.dram.held, x.1 ≠ c) → (∃ t, exec (.dramRetrainDone c true) s = .next t ∧ t.dram.retraining = [] ∧ t.fld (R.MC_CTL_RETRAIN (c / 8)) = 0 ∧
        (t.fld (R.MC_STAT_OFFLINE (c / 8))).testBit (c % 8) = false ∧ Frame s t (InPages [⟨.mc, c / 8⟩]) NoWord ∧
        t.units = { s.units with dram := t.dram }) ∧
      (∃ t, exec (.dramRetrainDone c false) s = .next t ∧ t.dram.retraining = [] ∧ t.chanRetired c = true ∧
        Frame s t (InPages [⟨.mc, c / 8⟩, pg .map, merePg, evtPg, pg .nvr]) PbaWords ∧ t.units = { s.units with dram := t.dram })))

/-- DMACH_START, DMACH_STOP, DMACH_CLEAR, STOP_ALL, PROGRAM_FETCH and ILLEGAL (R321, R327 to R329); the host's ones
served. A start of a channel that runs, waits or stops sets CMD_IGN alone; any other start takes PROG_ADDR into PC,
clears REMAIN and the loops, keeps the channel's age, and leaves it RUNNING, or in ERROR with code 0x01 for a start
not aligned to 32 bytes, and else 0x02 for the reserved space. STOP of a running or waiting channel issues no further
read: with bursts not yet returned the channel is STOPPING, else STOPPED, what it has read being written; of any other
it sets CMD_IGN. CLEAR of a channel that is done, stopped or in error leaves it IDLE; else it sets CMD_IGN. STOP_ALL
stops each running or waiting channel and leaves the others; it is ignored while channels that it stopped still
finish. A fetch adds the instructions of the block that the channel lacks, or stops it with code 0x11; of a channel
that neither runs nor waits, or lacks none, it changes nothing. An instruction that is not legal stops the channel
with code 0x10; ILLEGAL of a legal one, or of none, changes nothing. Registers below the memory controllers' pages,
window words but the pending bits, memory, and the units' state but the DMA's, and at a fetch the memory's and the
PCIe port's, are unchanged; where a stop writes what has been read, memory and the program SRAM change too. -/
def Obligations.DmaChannels : Prop :=
  ∀ (s : State) (n : Nat), n < 32 →
    (∀ π, s.Serves π (0x201040 + 0x1000 * n) →
      (s.fld (R.DMACH_STAT_STATE n) ∈ [csRunning, csWaiting, csStopping] → ∃ t, exec (.dmachStart π n) s = .next t ∧
        t.fld (R.DMACH_STAT_CMD_IGN n) = 1 ∧ Frame s t (Keys [R.DMACH_STAT_CMD_IGN n]) NoWord ∧ t.units = s.units) ∧
      (s.fld (R.DMACH_STAT_STATE n) ∉ [csRunning, csWaiting, csStopping] → ∃ t, exec (.dmachStart π n) s = .next t ∧
        t.fld (R.DMACH_PC n) = s.fld (R.DMACH_PROG_ADDR n) % 2 ^ 64 ∧ t.fld (R.DMACH_REMAIN n) = 0 ∧ t.fld (R.DMACH_LOOP_DEPTH n) = 0 ∧ (t.dmaCh n).age = (s.dmaCh n).age ∧
        (s.fld (R.DMACH_PROG_ADDR n) % 32 = 0 → s.fld (R.DMACH_CFG_PROG_SPACE n) ≠ 3 → t.fld (R.DMACH_STAT_STATE n) = csRunning) ∧
        (s.fld (R.DMACH_PROG_ADDR n) % 32 ≠ 0 → t.fld (R.DMACH_STAT_STATE n) = csError ∧ t.fld (R.DMACH_STAT_ERR_CODE n) = 0x01) ∧
        (s.fld (R.DMACH_PROG_ADDR n) % 32 = 0 → s.fld (R.DMACH_CFG_PROG_SPACE n) = 3 →
          t.fld (R.DMACH_STAT_STATE n) = csError ∧ t.fld (R.DMACH_STAT_ERR_CODE n) = 0x02) ∧
        Frame s t (InPages [pg .dma, dmachPg n, evtPg]) PbaWords ∧ t.units = { s.units with dma := t.dma }) ∧
      (s.fld (R.DMACH_STAT_STATE n) ∈ [csRunning, csWaiting] → ∃ t, exec (.dmachStop π n) s = .next t ∧
        ((s.dmaCh n).move = none → t.fld (R.DMACH_STAT_STATE n) = csStopped) ∧
        (∀ m, (s.dmaCh n).move = some m → m.reads = [] → t.fld (R.DMACH_STAT_STATE n) = csStopped ∧ (t.dmaCh n).move = none) ∧
        (∀ m, (s.dmaCh n).move = some m → m.reads ≠ [] → t.fld (R.DMACH_STAT_STATE n) = csStopping ∧ (t.dmaCh n).move = some { m with todo := [] }) ∧
        ((∀ m, (s.dmaCh n).move = some m → m.reads ≠ [] ∨ m.funnel = []) →
          Frame s t (InPages [pg .dma, dmachPg n, mxPg]) NoWord ∧ t.units = { s.units with dma := t.dma }) ∧
        RegFrame s t MemoryUp (fun o => PbaWords o ∨ SramWords o) ∧ t.units = { s.units with dma := t.dma, dram := t.dram, tabPoison := t.tabPoison }) ∧
      (s.fld (R.DMACH_STAT_STATE n) ∉ [csRunning, csWaiting] → ∃ t, exec (.dmachStop π n) s = .next t ∧
        t.fld (R.DMACH_STAT_CMD_IGN n) = 1 ∧ Frame s t (Keys [R.DMACH_STAT_CMD_IGN n]) NoWord ∧ t.units = s.units) ∧
      (s.fld (R.DMACH_STAT_STATE n) ∈ [csDone, csStopped, csError] → ∃ t, exec (.dmachClear π n) s = .next t ∧
        t.fld (R.DMACH_STAT_STATE n) = csIdle ∧ Frame s t (Keys [R.DMACH_STAT_STATE n, R.DMA_RUN_MAP, R.DMA_ERR_MAP]) NoWord ∧ t.units = s.units) ∧
      (s.fld (R.DMACH_STAT_STATE n) ∉ [csDone, csStopped, csError] → ∃ t, exec (.dmachClear π n) s = .next t ∧
        t.fld (R.DMACH_STAT_CMD_IGN n) = 1 ∧ Frame s t (Keys [R.DMACH_STAT_CMD_IGN n]) NoWord ∧ t.units = s.units)) ∧
    (∀ π, s.Serves π 0x200040 → s.stopAllBusy = true → ∃ o, exec (.stopAll π) s = .next { s with opened := o }) ∧
    (∀ π, s.Serves π 0x200040 → s.stopAllBusy = false → ∃ t, exec (.stopAll π) s = .next t ∧
      (s.fld (R.DMACH_STAT_STATE n) ∈ [csRunning, csWaiting] → t.fld (R.DMACH_STAT_STATE n) ∈ [csStopped, csStopping]) ∧
      (s.fld (R.DMACH_STAT_STATE n) ∉ [csRunning, csWaiting] → t.fld (R.DMACH_STAT_STATE n) = s.fld (R.DMACH_STAT_STATE n)) ∧
      ((∀ k m, k < 32 → (s.dmaCh k).move = some m → m.reads ≠ [] ∨ m.funnel = []) →
        Frame s t (InPages (pg .dma :: mxPg :: (List.range 32).map dmachPg)) NoWord ∧ t.units = { s.units with dma := t.dma }) ∧
      RegFrame s t MemoryUp (fun o => PbaWords o ∨ SramWords o) ∧ t.units = { s.units with dma := t.dma, dram := t.dram, tabPoison := t.tabPoison }) ∧
    (∀ data cpl, (s.fld (R.DMACH_STAT_STATE n) ∉ [csRunning, csWaiting] ∨
        (∀ i < 9, ∃ e ∈ (s.dmaCh n).buf, e.1 = s.fld (R.DMACH_PC n) + 32 * i)) → exec (.programFetch n data cpl) s = .next s) ∧
    (∀ data cpl i, s.fld (R.DMACH_STAT_STATE n) ∈ [csRunning, csWaiting] → i < 9 →
      (∀ e ∈ (s.dmaCh n).buf, e.1 ≠ s.fld (R.DMACH_PC n) + 32 * i) →
      (∀ j < i, ∃ e ∈ (s.dmaCh n).buf, e.1 = s.fld (R.DMACH_PC n) + 32 * j) →
      ∃ t, exec (.programFetch n data cpl) s = .next t ∧
        (∀ bs, (s.fetchBlock n ((s.fld (R.DMACH_PC n) + 32 * i) / 256 * 256) data cpl).1 = some bs →
          ∃ new, (t.dmaCh n).buf = (s.dmaCh n).buf ++ new ∧
            ∀ x ∈ new, ∃ k < 8, x.1 = (s.fld (R.DMACH_PC n) + 32 * i) / 256 * 256 + 32 * k ∧ x.2 = sliceBytes bs (32 * k) 32) ∧
        ((s.fetchBlock n ((s.fld (R.DMACH_PC n) + 32 * i) / 256 * 256) data cpl).1 = none → (s.dmaCh n).move = none →
          t.fld (R.DMACH_STAT_STATE n) = csError ∧ t.fld (R.DMACH_STAT_ERR_CODE n) = 0x11) ∧
        RegFrame s t MemoryUp PbaWords ∧ t.units = { s.units with dma := t.dma, dram := t.dram, pcie := t.pcie }) ∧
    (∀ bs, s.dmaFetched n = some bs → instrOk bs = false → ∃ t, exec (.illegal n) s = .next t ∧
      t.fld (R.DMACH_STAT_STATE n) = csError ∧ t.fld (R.DMACH_STAT_ERR_CODE n) = 0x10 ∧
      Frame s t (InPages [pg .dma, dmachPg n, mxPg, evtPg]) PbaWords ∧ t.units = { s.units with dma := t.dma }) ∧
    ((s.dmaFetched n = none ∨ ∃ bs, s.dmaFetched n = some bs ∧ instrOk bs = true) → exec (.illegal n) s = .next s)

/-- MOVE, LOOP, WAIT, WAIT_POLL, WAIT_TIMEOUT and SIGNAL (R319 to R325, R331, R336). Without the instruction at PC, or a
WAIT in progress, each changes nothing. A MOVE between admitted spaces, its rings having sizes, with bytes to move, is
in progress with the reads of its source cut and REMAIN its length, in overlap mode and in the direction that keeps
its data where the two share bytes, which is code 0x16 where a side is more than one stretch; of no bytes it
completes; a space that is not admitted is code 0x14, a ring without a size 0x15. A LOOP without a body is code 0x13;
one of no iterations goes on behind its body; else it is the innermost loop and PC goes to its body; a fifth level is
0x12. A WAIT of a space outside DRAM, HOST, program SRAM and registers is 0x14; else one whose condition holds of the
value read completes, one whose does not waits, one whose read fails is 0x1A; a poll, once its interval has passed,
reads again and counts its cycles, and past the timeout the channel stops with 0x19. A SIGNAL does its actions in
order: WRITE puts its value into DRAM or sends it to HOST, CRC_STORE puts the CRC and its status into DRAM, CRC_RESET
and DP_STEP, then it counts in SIGNALS, raises its interrupt where it says so, and ends the program or goes on; a bad
space is 0x14, a ring without a size 0x15; a FLUSH sends its read and waits, and a SIGNAL that waits for a completion
changes nothing. Registers below the memory controllers' pages, window words but the pending bits, memory, and the
units' state but the DMA's, and at a WAIT's read or a SIGNAL's write the memory's and the PCIe port's, are unchanged;
where nothing is said of a WAIT of a register, its read may change what any read changes. -/
def Obligations.DmaInstructions : Prop :=
  ∀ (s : State) (n : Nat), n < 32 → (s.dmaCh n).late = false →
    (s.dmaInstr n 1 = none → exec (.move n) s = .next s) ∧ (s.dmaInstr n 2 = none → exec (.loop n) s = .next s) ∧
    (s.dmaInstr n 3 = none → ∀ v c, exec (.wait n v c) s = .next s) ∧ (s.dmaInstr n 4 = none → exec (.signal n) s = .next s) ∧
    (s.waitingOn n = none → ∀ v c k, exec (.waitPoll n v c k) s = .next s ∧ exec (.waitTimeout n k) s = .next s) ∧
    (∀ bs sc dc len, s.dmaInstr n 1 = some bs → sc = insByte bs 1 % 8 → dc = insByte bs 1 / 16 % 8 → len = leAt bs 4 4 →
      ((sc = 3 ∨ dc = 3 ∨ dc = 6) → ∃ t, exec (.move n) s = .next t ∧ t.fld (R.DMACH_STAT_STATE n) = csError ∧
        t.fld (R.DMACH_STAT_ERR_CODE n) = 0x14 ∧ Frame s t MemoryUp PbaWords ∧ t.units = { s.units with dma := t.dma }) ∧
      (¬ (sc = 3 ∨ dc = 3 ∨ dc = 6) → (s.ringUnset n sc || s.ringUnset n dc) = true → ∃ t, exec (.move n) s = .next t ∧
        t.fld (R.DMACH_STAT_STATE n) = csError ∧ t.fld (R.DMACH_STAT_ERR_CODE n) = 0x15 ∧
        Frame s t MemoryUp PbaWords ∧ t.units = { s.units with dma := t.dma }) ∧
      (∀ src dst, ¬ (sc = 3 ∨ dc = 3 ∨ dc = 6) → (s.ringUnset n sc || s.ringUnset n dc) = false →
        src = s.dmaSegs n sc (ptrAddr (insBit bs 2 0) (s.fld (R.DMACH_SP n)) (leAt bs 8 8)) len →
        dst = s.dmaSegs n dc (ptrAddr (insBit bs 2 1) (s.fld (R.DMACH_DP n)) (leAt bs 16 8)) len → segsShare src dst = false →
        ∃ t, exec (.move n) s = .next t ∧
          (0 < len → t.fld (R.DMACH_REMAIN n) = len % 2 ^ 32 ∧ t.fld (R.DMACH_PC n) = s.fld (R.DMACH_PC n) ∧
            ∃ m, (t.dmaCh n).move = some m ∧ m.todo = cutSource (max 4 s.pcie.maxRead) 0 src ∧ m.dst = dst ∧ m.reads = [] ∧ m.funnel = [] ∧
              m.written = 0 ∧ m.overlap = false ∧ m.crc = (!insBit bs 2 4)) ∧
          (len = 0 → (s.dmaCh n).loops = [] → t.fld (R.DMACH_PC n) = (s.fld (R.DMACH_PC n) + 32) % 2 ^ 64 ∧ (t.dmaCh n).move = none ∧
            t.fld (R.DMACH_INSTR n) = (s.fld (R.DMACH_INSTR n) + 1) % 2 ^ 48) ∧
          Frame s t MemoryUp PbaWords ∧ t.units = { s.units with dma := t.dma }) ∧
      (∀ src dst, ¬ (sc = 3 ∨ dc = 3 ∨ dc = 6) → (s.ringUnset n sc || s.ringUnset n dc) = false →
        src = s.dmaSegs n sc (ptrAddr (insBit bs 2 0) (s.fld (R.DMACH_SP n)) (leAt bs 8 8)) len →
        dst = s.dmaSegs n dc (ptrAddr (insBit bs 2 1) (s.fld (R.DMACH_DP n)) (leAt bs 16 8)) len → segsShare src dst = true →
        (1 < src.length ∨ 1 < dst.length → ∃ t, exec (.move n) s = .next t ∧ t.fld (R.DMACH_STAT_STATE n) = csError ∧
          t.fld (R.DMACH_STAT_ERR_CODE n) = 0x16 ∧ Frame s t MemoryUp PbaWords ∧ t.units = { s.units with dma := t.dma }) ∧
        (∀ a b, src = [a] → dst = [b] → 0 < len → ∃ t m, exec (.move n) s = .next t ∧ (t.dmaCh n).move = some m ∧ m.overlap = true ∧ m.dst = dst ∧
          m.down = decide (a.2.1 < b.2.1) ∧ m.todo = (if a.2.1 < b.2.1 then (cutSource (max 4 s.pcie.maxRead) 0 src).reverse else cutSource (max 4 s.pcie.maxRead) 0 src) ∧
          t.fld (R.DMACH_STAT_OVERLAP n) = 1 ∧ t.fld R.DMA_OVERLAP_MOVES = (s.fld R.DMA_OVERLAP_MOVES + 1) % 2 ^ R.DMA_OVERLAP_MOVES.w ∧
          Frame s t MemoryUp PbaWords ∧ t.units = { s.units with dma := t.dma }))) ∧
    (∀ bs pc body count, s.dmaInstr n 2 = some bs → pc = s.fld (R.DMACH_PC n) → body = leAt bs 8 2 → count = leAt bs 4 4 →
      (body = 0 → ∃ t, exec (.loop n) s = .next t ∧ t.fld (R.DMACH_STAT_STATE n) = csError ∧ t.fld (R.DMACH_STAT_ERR_CODE n) = 0x13 ∧
        Frame s t MemoryUp PbaWords ∧ t.units = { s.units with dma := t.dma }) ∧
      (0 < body → (s.dmaCh n).loops = [] → insBit bs 1 0 = false → count = 0 → ∃ t, exec (.loop n) s = .next t ∧
        t.fld (R.DMACH_PC n) = (pc + 32 + 32 * body) % 2 ^ 64 ∧ t.fld (R.DMACH_INSTR n) = (s.fld (R.DMACH_INSTR n) + 1) % 2 ^ 48 ∧
        Frame s t MemoryUp PbaWords ∧ t.units = { s.units with dma := t.dma }) ∧
      (0 < body → (∀ b e k l, (s.dmaCh n).loops = (b, e, k) :: l → pc + 32 + 32 * body ≤ e) →
        insBit bs 1 0 = true ∨ 0 < count →
        ((s.dmaCh n).loops.length < 4 → ∃ t, exec (.loop n) s = .next t ∧ t.fld (R.DMACH_PC n) = (pc + 32) % 2 ^ 64 ∧
          (t.dmaCh n).loops = (pc + 32, pc + 32 + 32 * body, if insBit bs 1 0 = true then none else some count) :: (s.dmaCh n).loops ∧
          t.fld (R.DMACH_LOOP_DEPTH n) = ((s.dmaCh n).loops.length + 1) % 2 ^ 3 ∧ Frame s t MemoryUp PbaWords ∧
          t.units = { s.units with dma := t.dma }) ∧
        (4 ≤ (s.dmaCh n).loops.length → ∃ t, exec (.loop n) s = .next t ∧ t.fld (R.DMACH_STAT_STATE n) = csError ∧
          t.fld (R.DMACH_STAT_ERR_CODE n) = 0x12 ∧ Frame s t MemoryUp PbaWords ∧ t.units = { s.units with dma := t.dma }))) ∧
    (∀ bs v c, s.dmaInstr n 3 = some bs → 4 ≤ waitSpace bs → ∃ t, exec (.wait n v c) s = .next t ∧ t.fld (R.DMACH_STAT_STATE n) = csError ∧
      t.fld (R.DMACH_STAT_ERR_CODE n) = 0x14 ∧ Frame s t MemoryUp PbaWords ∧ t.units = { s.units with dma := t.dma }) ∧
    (∀ bs v c, s.dmaInstr n 3 = some bs → waitSpace bs < 4 → ∃ t, exec (.wait n v c) s = .next t ∧
      ((s.waitRead n bs v c).1 = none → t.fld (R.DMACH_STAT_STATE n) = csError ∧ t.fld (R.DMACH_STAT_ERR_CODE n) = 0x1A) ∧
      (∀ x, (s.waitRead n bs v c).1 = some x → s.waitHolds n bs x = true → (s.dmaCh n).loops = [] →
        t.fld (R.DMACH_STAT_STATE n) = csRunning ∧ t.fld (R.DMACH_PC n) = (s.fld (R.DMACH_PC n) + 32) % 2 ^ 64) ∧
      (∀ x, (s.waitRead n bs v c).1 = some x → s.waitHolds n bs x = false →
        t.fld (R.DMACH_STAT_STATE n) = csWaiting ∧ t.fld (R.DMACH_PC n) = s.fld (R.DMACH_PC n) ∧ (t.dmaCh n).waited = some 0) ∧
      (waitSpace bs < 3 → RegFrame s t MemoryUp PbaWords ∧ t.units = { s.units with dma := t.dma, dram := t.dram, pcie := t.pcie })) ∧
    (∀ bs t0 v c k, s.waitingOn n = some (bs, t0) → (s.dmaCh n).move = none → waitSpace bs < 3 →
      (k < 16 * max 1 (s.fld R.DMA_CFG_POLL) → exec (.waitPoll n v c k) s = .next s) ∧
      (16 * max 1 (s.fld R.DMA_CFG_POLL) ≤ k → ∃ t, exec (.waitPoll n v c k) s = .next t ∧
        (waitLimit bs ≠ 0 → waitLimit bs < t0 + k → t.fld (R.DMACH_STAT_STATE n) = csError ∧ t.fld (R.DMACH_STAT_ERR_CODE n) = 0x19 ∧
          t.fld (R.DMACH_WAIT_CYC n) = (s.fld (R.DMACH_WAIT_CYC n) + (waitLimit bs - t0)) % 2 ^ 48) ∧
        (waitLimit bs = 0 ∨ t0 + k ≤ waitLimit bs → t.fld (R.DMACH_WAIT_CYC n) = (s.fld (R.DMACH_WAIT_CYC n) + k) % 2 ^ 48) ∧
        RegFrame s t MemoryUp PbaWords ∧ t.units = { s.units with dma := t.dma, dram := t.dram, pcie := t.pcie }) ∧
      (waitLimit bs ≠ 0 → waitLimit bs ≤ t0 + k → ∃ t, exec (.waitTimeout n k) s = .next t ∧ t.fld (R.DMACH_STAT_STATE n) = csError ∧
        t.fld (R.DMACH_STAT_ERR_CODE n) = 0x19 ∧ Frame s t MemoryUp PbaWords ∧ t.units = { s.units with dma := t.dma }) ∧
      (waitLimit bs = 0 ∨ t0 + k < waitLimit bs → exec (.waitTimeout n k) s = .next s)) ∧
    (∀ bs, s.dmaInstr n 4 = some bs → (s.dmaCh n).flush ≠ 0 → exec (.signal n) s = .next s) ∧
    (∀ bs, s.dmaInstr n 4 = some bs → (s.dmaCh n).flush = 0 →
      (sigBadSpace bs = true → ∃ t, exec (.signal n) s = .next t ∧ t.fld (R.DMACH_STAT_STATE n) = csError ∧
        t.fld (R.DMACH_STAT_ERR_CODE n) = 0x14 ∧ Frame s t MemoryUp PbaWords ∧ t.units = { s.units with dma := t.dma }) ∧
      (sigBadSpace bs = false → s.sigNoRing n bs = true → ∃ t, exec (.signal n) s = .next t ∧ t.fld (R.DMACH_STAT_STATE n) = csError ∧
        t.fld (R.DMACH_STAT_ERR_CODE n) = 0x15 ∧ Frame s t MemoryUp PbaWords ∧ t.units = { s.units with dma := t.dma }) ∧
      (sigWrite bs = false → sigCrc bs = false → sigFlush bs = false ∨ (s.dmaCh n).werrs = [] ∧ (s.dmaCh n).hostLast = none →
        ∃ t, exec (.signal n) s = .next t ∧ t.fld (R.DMACH_SIGNALS n) = (s.fld (R.DMACH_SIGNALS n) + 1) % 2 ^ 48 ∧
        (sigEnd bs = true → t.fld (R.DMACH_STAT_STATE n) = csDone ∧ (t.fld (R.PG_IRQ_RAW (dmachPg n))).testBit 1 = true) ∧
        (sigEnd bs = false → (s.dmaCh n).loops = [] → t.fld (R.DMACH_PC n) = (s.fld (R.DMACH_PC n) + 32) % 2 ^ 64) ∧
        (sigIrq bs = true → (t.fld (R.PG_IRQ_RAW (dmachPg n))).testBit 0 = true) ∧
        (sigCrcReset bs = true → t.fld (R.DMACH_CRC n) = 0) ∧
        (sigDpStep bs = true → t.fld (R.DMACH_DP n) = unsgn 48 ((s.fld (R.DMACH_DP n) : Int) + sgn 32 (leAt bs 4 4))) ∧
        Frame s t MemoryUp PbaWords ∧ t.units = { s.units with dma := t.dma }) ∧
      (∀ k v a x, sigFlush bs = false → s.sigNoRing n bs = false → sigBadSpace bs = false → k = (if insBit bs 1 3 then 8 else 4) → a = leAt bs 8 8 →
        v = (match insByte bs 3 % 4 with | 1 => s.fld (R.DMACH_SP n) | 2 => s.fld (R.DMACH_DP n) | _ => leAt bs 24 8) →
        x = (leAt bs 16 8 + s.dmaBase n (insByte bs 3 / 16 % 4)) % 2 ^ 64 →
        (sigWrite bs = true → sigCrc bs = false → sigWSpace bs = 0 → ∃ t, exec (.signal n) s = .next t ∧
          t.fld (R.DMACH_SIGNALS n) = (s.fld (R.DMACH_SIGNALS n) + 1) % 2 ^ 48 ∧
          t.dram = ((s.mxMem .dma a k).writeDram .dma a (leBytes k v)).2.dram ∧ RegFrame s t MemoryUp PbaWords ∧
          t.units = { s.units with dma := t.dma, dram := t.dram }) ∧
        (sigWrite bs = true → sigCrc bs = false → sigWSpace bs = 1 → s.pcie.bme = true → s.pcie.up = true → k ≤ s.pcie.maxPayload →
          ∃ t, exec (.signal n) s = .next t ∧ t.fld (R.DMACH_SIGNALS n) = (s.fld (R.DMACH_SIGNALS n) + 1) % 2 ^ 48 ∧
          Out.hostWrite a false false (leBytes k v) ∈ t.out ∧ Frame s t MemoryUp PbaWords ∧ t.units = { s.units with dma := t.dma }) ∧
        (sigWrite bs = false → sigCrc bs = true → sigCSpace bs = 0 → ∃ t, exec (.signal n) s = .next t ∧
          t.fld (R.DMACH_SIGNALS n) = (s.fld (R.DMACH_SIGNALS n) + 1) % 2 ^ 48 ∧
          t.dram = ((s.mxMem .dma x 8).writeDram .dma x (leBytes 4 (s.fld (R.DMACH_CRC n)) ++ leBytes 4 (if (s.dmaCh n).crcPoison then 1 else 0))).2.dram ∧
          RegFrame s t MemoryUp PbaWords ∧ t.units = { s.units with dma := t.dma, dram := t.dram })) ∧
      (sigFlush bs = true → sigBadSpace bs = false → s.sigNoRing n bs = false →
        ((s.dmaCh n).werrs ≠ [] → ∃ t, exec (.signal n) s = .next t ∧ t.dmaCh n = { s.dmaCh n with signalling := true } ∧
          Frame s t (Keys []) NoWord ∧ t.units = { s.units with dma := t.dma }) ∧
        (∀ a, (s.dmaCh n).werrs = [] → (s.dmaCh n).hostLast = some a → s.pcie.bme = true → s.pcie.up = true → ∃ t, exec (.signal n) s = .next t ∧
          (t.dmaCh n).flush = 1 ∧ (t.dmaCh n).hostLast = none ∧ t.out = Out.hostRead n (a / 4 * 4) ((a + 4 + 3) / 4 * 4 - a / 4 * 4) :: s.out ∧
          t.fld (R.MX_OUT 9) = (s.fld (R.MX_OUT 9) + 1) % 2 ^ (R.MX_OUT 9).w ∧ Frame s t (InPages [mxPg]) NoWord ∧ t.units = { s.units with dma := t.dma })))

/-- BURST_GRANT, DMA_READ_RETURN, COMPLETION_TIMEOUT, WRITE_ERROR_RESPONSE and MATRIX_REQUEST (R325, R329, R330, R333 to
R335, R339, R341, R343, R345, R350). A grant goes to the channel that the arbitration names: its first read awaits its
data, its age is 0 and it is the one last granted, and every other that was ready is a grant older; a read of the host
leaves as one request, outstanding at PCIE_OUT, or is refused; with none ready nothing changes. The data of a
channel's oldest read counts its bytes in RD_BYTES and those that come with poison in POISON_BYTES; the last read of a
MOVE into one stretch counts them in WR_BYTES and the channel's BYTES too and completes the MOVE, and where they make
one write to DRAM they are written there. A completion timeout of a read from the host is counted and its bytes are
poison; one of any other, or while timeouts are disabled, changes nothing, nor does either with none outstanding. The
response to a FLUSH's read lets the SIGNAL go on. An error response of a write of a completed MOVE sets LATE_ERR, and
of one in progress with nothing outstanding stops the channel with 0x17; with none nothing changes. A legal request to
a target with one port is granted and answered: REQ and RSP each count one; a target that does not exist, or the
fabric off, changes nothing. Registers below the memory controllers' pages, window words but the pending bits and,
where a burst is written, the program SRAM's, and the units' state but the DMA's, memory's and the PCIe port's, or the
matrix's, are unchanged. (What a request to memory counts at the matrix is the model's choice, log entry 92; a FLUSH's
read data is ignored, log entry 90.) -/
def Obligations.DmaBursts : Prop :=
  ∀ (s : State),
    (s.grantChoice = none → exec .burstGrant s = .next s) ∧
    (∀ n l, s.grantChoice = some (n, l) → ∃ t, exec .burstGrant s = .next t ∧ t.dma.last.get 0 l = n + 1 ∧ (t.dmaCh n).age = 0 ∧
      (∀ m b r, (s.dmaCh n).move = some m → m.todo = b :: r → ∃ x y, (t.dmaCh n).move = some x ∧ x.todo = r ∧
        x.reads = m.reads ++ [y] ∧ y = { b with refused := b.refused || (decide (b.space = 1) && !(s.pcie.bme && s.pcie.up)) } ∧
        (b.space = 1 → s.pcie.bme = true → s.pcie.up = true → t.fld (R.MX_OUT 9) = (s.fld (R.MX_OUT 9) + 1) % 2 ^ (R.MX_OUT 9).w ∧
          t.out = Out.hostRead n (b.addr / 4 * 4) ((b.addr + b.len + 3) / 4 * 4 - b.addr / 4 * 4) :: s.out)) ∧
      (∀ k, k < 32 → k ≠ n → s.burstReady k = true → (t.dmaCh k).age = (s.dmaCh k).age + 1) ∧
      Frame s t MemoryUp PbaWords ∧ t.units = { s.units with dma := t.dma }) ∧
    (∀ n data c, (s.dmaCh n).flush = 0 → s.oldestRead n = none → exec (.dmaReadReturn n data c) s = .next s ∧ exec (.completionTimeout n) s = .next s) ∧
    (∀ n m b r, s.pcie.noTimeout = true ∨ (s.dmaCh n).flush = 0 ∧ s.oldestRead n = some (m, b, r) ∧ b.fromHost = false → exec (.completionTimeout n) s = .next s) ∧
    (∀ n data c m b r, n < 32 → (s.dmaCh n).flush = 0 → s.oldestRead n = some (m, b, r) →
      (∀ u bs marks w, u = (if b.fromHost then (s.mxClose 9).cplSeen c else s) → (bs, marks, w) = u.burstData b data (decide (c ≠ .good)) →
        ∃ t, exec (.dmaReadReturn n data c) s = .next t ∧ t.fld R.DMA_RD_BYTES = (s.fld R.DMA_RD_BYTES + b.len) % 2 ^ R.DMA_RD_BYTES.w ∧
        t.fld (R.DMACH_POISON_BYTES n) = (s.fld (R.DMACH_POISON_BYTES n) + (marks.filter id).length) % 2 ^ (R.DMACH_POISON_BYTES n).w ∧
        (∀ sp a, r = [] → m.todo = [] → m.overlap = false → m.funnel = [] → m.written = 0 → m.dst = [(sp, a, b.len)] → 0 < b.len →
          t.fld R.DMA_WR_BYTES = (s.fld R.DMA_WR_BYTES + b.len) % 2 ^ 48 ∧ t.fld (R.DMACH_BYTES n) = (s.fld (R.DMACH_BYTES n) + b.len) % 2 ^ 48 ∧
          (t.dmaCh n).move = none ∧
          (sp = 0 → cutLen 0 a b.len = b.len → t.dram = ((w.burstIn n m bs marks).dmaWrite 0 a false bs marks).2.dram)) ∧
        RegFrame s t MemoryUp (fun o => PbaWords o ∨ SramWords o) ∧
        t.units = { s.units with dma := t.dma, dram := t.dram, tabPoison := t.tabPoison, pcie := t.pcie }) ∧
      (b.fromHost = true → s.pcie.noTimeout = false → ∃ t, exec (.completionTimeout n) s = .next t ∧
        t.fld R.DMA_RD_BYTES = (s.fld R.DMA_RD_BYTES + b.len) % 2 ^ R.DMA_RD_BYTES.w ∧ t.bit R.PCIE_EVT_CPL_TIMEOUT = true ∧
        t.fld R.PCIE_CPL_TIMEOUT = (s.fld R.PCIE_CPL_TIMEOUT + 1) % 2 ^ 48 ∧
        t.fld (R.DMACH_POISON_BYTES n) = (s.fld (R.DMACH_POISON_BYTES n) + b.len) % 2 ^ (R.DMACH_POISON_BYTES n).w ∧
        RegFrame s t MemoryUp (fun o => PbaWords o ∨ SramWords o) ∧
        t.units = { s.units with dma := t.dma, dram := t.dram, tabPoison := t.tabPoison, pcie := t.pcie })) ∧
    (∀ n data c bs, n < 32 → (s.dmaCh n).flush = 1 → (s.dmaCh n).late = false → s.dmaInstr n 4 = some bs → sigWrite bs = false → sigCrc bs = false →
      (∃ t, exec (.dmaReadReturn n data c) s = .next t ∧ (t.dmaCh n).flush = 0 ∧ t.fld (R.DMACH_SIGNALS n) = (s.fld (R.DMACH_SIGNALS n) + 1) % 2 ^ 48 ∧
        t.fld (R.MX_OUT 9) = (s.fld (R.MX_OUT 9) - 1) % 2 ^ (R.MX_OUT 9).w ∧ Frame s t MemoryUp PbaWords ∧
        t.units = { s.units with dma := t.dma, pcie := t.pcie }) ∧
      (s.pcie.noTimeout = false → ∃ t, exec (.completionTimeout n) s = .next t ∧ (t.dmaCh n).flush = 0 ∧
        t.fld R.PCIE_CPL_TIMEOUT = (s.fld R.PCIE_CPL_TIMEOUT + 1) % 2 ^ 48 ∧ Frame s t MemoryUp PbaWords ∧ t.units = { s.units with dma := t.dma, pcie := t.pcie })) ∧
    (∀ n, (s.dmaCh n).werrs = [] → exec (.writeErrorResponse n) s = .next s) ∧
    (∀ n w r, n < 32 → (s.dmaCh n).werrs = w :: r → ∃ t, exec (.writeErrorResponse n) s = .next t ∧
      ((w.late = true ∨ (s.dmaCh n).move = none) → t.bit (R.DMACH_STAT_LATE_ERR n) = true) ∧
      (∀ m, w.late = false → (s.dmaCh n).move = some m → m.reads = [] → s.fld (R.DMACH_STAT_STATE n) ≠ csStopping →
        t.fld (R.DMACH_STAT_STATE n) = csError ∧ t.fld (R.DMACH_STAT_ERR_CODE n) = 0x17) ∧
      ((∀ m, (s.dmaCh n).move = some m → m.reads ≠ [] ∨ m.funnel = []) → Frame s t MemoryUp PbaWords ∧ t.units = { s.units with dma := t.dma }) ∧
      RegFrame s t MemoryUp (fun o => PbaWords o ∨ SramWords o) ∧ t.units = { s.units with dma := t.dma, dram := t.dram, tabPoison := t.tabPoison }) ∧
    (∀ k qs, 12 ≤ k ∨ s.domOn 19 = false → exec (.matrixRequest k qs) s = .next s) ∧
    (∀ k q, 8 ≤ k → k < 12 → s.domOn 19 = true → s.mxKind k q = .legal → ∃ t, exec (.matrixRequest k [q]) s = .next t ∧
      t.fld (R.MX_REQ k) = (s.fld (R.MX_REQ k) + 1) % 2 ^ 48 ∧ t.fld (R.MX_RSP k) = (s.fld (R.MX_RSP k) + 1) % 2 ^ 48 ∧
      Frame s t (InPages [mxPg]) NoWord ∧ t.units = { s.units with mx := t.mx }) ∧
    (∀ k q, k < 8 → s.domOn 19 = true → s.mxKind k q = .legal → ∃ t, exec (.matrixRequest k [q]) s = .next t ∧
      t.fld (R.MX_REQ k) = (s.fld (R.MX_REQ k) + 1) % 2 ^ 48 ∧ t.fld (R.MX_RSP k) = (s.fld (R.MX_RSP k) + 1) % 2 ^ 48 ∧
      t.mx.park.get 0 (2 * k + s.mxPortOf k q) = mxPort q + 1 ∧ Frame s t (InPages [mxPg]) NoWord ∧ t.units = { s.units with mx := t.mx })

/-- MSPI_RST_PULSE, MSPI_READ, MSPI_WRITE, MSPI_BAD_OPCODE and MSPI_CS_RISE (R344, R369, R370, R454). While the port
hangs, and in POR, when bring-up step 1 has not begun, a read, a write and a rise of CS_N change nothing; a pulse of
MSPI_RST_N ends the hang and is counted, and without a hang changes nothing. An address past BAR0 is a decode error:
the port hangs, interrupt 1 of the MX page is pending, nothing is answered. Else the access of the dword is made, and
what leaves on MISO is what it returned (0 of a write) with status 0, 1 of a blocked or 2 of an unmapped access; a
blocked or unmapped read returns 0, is counted in ST, and changes nothing else. A rise of CS_N before bit 40 of a read
or bit 72 of a write changes nothing, and later ends an access already made, whose result is discarded. An unknown
opcode changes nothing. At a decode error registers outside the MX and EVT pages, window words but the pending bits,
memory and the units' state are unchanged. -/
def Obligations.ManagementPort : Prop :=
  ∀ (s : State),
    (s.bit R.MX_STAT_MSPI_HUNG = false → exec .mspiRstPulse s = .next s) ∧
    (s.bit R.MX_STAT_MSPI_HUNG = true → ∃ t, exec .mspiRstPulse s = .next t ∧ t.fld R.MX_STAT_MSPI_HUNG = 0 ∧
      t.fld R.MX_MSPI_RST = (s.fld R.MX_MSPI_RST + 1) % 2 ^ 48 ∧ Frame s t (Keys [R.MX_STAT_MSPI_HUNG, R.MX_MSPI_RST]) NoWord ∧
      t.units = s.units) ∧
    (∀ op, exec (.mspiBadOpcode op) s = .next s) ∧
    (s.bit R.MX_STAT_MSPI_HUNG = true ∨ s.fld R.ST_STATE_STEP = 0 → ∀ a v b k, exec (.mspiRead a) s = .next s ∧ exec (.mspiWrite a v) s = .next s ∧
      exec (.mspiCsRise b a v k) s = .next s) ∧
    (∀ a v k, k < 40 → exec (.mspiCsRise false a v k) s = .next s) ∧ (∀ a v k, k < 72 → exec (.mspiCsRise true a v k) s = .next s) ∧
    (s.bit R.MX_STAT_MSPI_HUNG = false → s.fld R.ST_STATE_STEP ≠ 0 → ∀ a v, 2 ^ 26 ≤ a → a < 2 ^ 32 →
      (∃ t, exec (.mspiRead a) s = .next t ∧ (∀ k, 40 ≤ k → exec (.mspiCsRise false a v k) s = .next t) ∧ t.fld R.MX_STAT_MSPI_HUNG = 1 ∧
        t.fld R.MX_DEC_MSPI = (s.fld R.MX_DEC_MSPI + 1) % 2 ^ 48 ∧ t.fld R.MX_DEC_ADDR = a ∧ (t.fld (R.PG_IRQ_RAW (pg .mx))).testBit 1 = true ∧
        Frame s t (InPages [pg .mx, evtPg]) PbaWords ∧ t.units = s.units) ∧
      (∃ t, exec (.mspiWrite a v) s = .next t ∧ (∀ k, 72 ≤ k → exec (.mspiCsRise true a v k) s = .next t) ∧ t.fld R.MX_STAT_MSPI_HUNG = 1 ∧
        t.fld R.MX_DEC_INFO_WRITE = 1 ∧ (t.fld (R.PG_IRQ_RAW (pg .mx))).testBit 1 = true ∧
        Frame s t (InPages [pg .mx, evtPg]) PbaWords ∧ t.units = s.units)) ∧
    (s.bit R.MX_STAT_MSPI_HUNG = false → s.fld R.ST_STATE_STEP ≠ 0 → ∀ a v, a < 2 ^ 26 →
      (s.gate (a / 4 * 4) = .served → ∃ x u w, s.readAt .mspi (a / 4 * 4) = (.served, x, u) ∧ exec (.mspiRead a) s = .next (u.emit (.mspi x 0)) ∧
        (∀ k, 40 ≤ k → exec (.mspiCsRise false a v k) s = .next u) ∧
        s.writeAt .mspi (a / 4 * 4) (v % 2 ^ 32) 15 = (.served, w) ∧ exec (.mspiWrite a v) s = .next (w.emit (.mspi 0 0)) ∧
        (∀ k, 72 ≤ k → exec (.mspiCsRise true a v k) s = .next w)) ∧
      (s.gate (a / 4 * 4) = .blocked → ∃ t, exec (.mspiRead a) s = .next t ∧ t.out = .mspi 0 1 :: s.out ∧
        t.fld R.ST_BLOCKED_CNT_COUNT = (s.fld R.ST_BLOCKED_CNT_COUNT + 1) % 2 ^ 32 ∧ Frame s t (InPages [stPg]) NoWord ∧ t.units = s.units) ∧
      (s.gate (a / 4 * 4) = .unmapped → ∃ t, exec (.mspiWrite a v) s = .next t ∧ t.out = .mspi 0 2 :: s.out ∧
        t.fld R.ST_UNMAPPED_CNT_COUNT = (s.fld R.ST_UNMAPPED_CNT_COUNT + 1) % 2 ^ 32 ∧ Frame s t (InPages [stPg]) NoWord ∧ t.units = s.units))

/-- CONFIG_REQUEST, PCIE_LINK_UP, PCIE_LINK_DOWN, D3HOT_ENTRY and D0_RETURN (R349 to R353, R367). A request during PERST#
changes nothing; one of another function than 0 ends with UR; one before the identity has been restored with retry
status. Else a read ends with SC and the register's value (identity, class and stepping, subsystem, no interrupt pin,
the error registers, the busy bit of DOE), and a write with SC: the identity registers do not change, the command
register takes memory enable and bus master enable, the MSI-X control its two bits, the power state enters or leaves
D3hot, Device Control takes the payload and read sizes within the device's limits, Device Control 2 the completion
timeout's range and disable, LTR and 10-bit tags, Link Control ASPM L1; a write of Device Control 3 asks for L0p,
which LINK shows. A status of the error registers is cleared by ones. A dword of DOE is added to the object, which
past 1024 is dropped until an Abort. The link comes up where PERST# is released and step 4 is complete, and LINK shows
speed, width, FLIT and reversal; it goes down with LINK 0, LINK_DOWN counted and error 0x13 recorded, and every host
read outstanding refused; both interrupts are pending. D3HOT_ENTRY and D0_RETURN change that state alone. Registers
outside the PCIE, MX and EVT pages, window words but the pending bits, memory, and the units' state but the function's
and the DMA's are unchanged. (The places of the bits within the registers, and L0p by Device Control 3, are taken from
the PCI Express Base Specification: log entries 162 and 163.) -/
def Obligations.PciFunction : Prop :=
  ∀ (s : State),
    (∀ q, s.pcie.perst = true → exec (.configRequest q) s = .next s) ∧
    (∀ q, s.pcie.perst = false → ∃ t, exec (.configRequest q) s = .next t ∧
      (q.write = false ∨ q.reg ≠ .devCtl3 → Frame s t (Keys []) NoWord) ∧ Frame s t (InPages [pciePg]) PbaWords ∧
      t.units = { s.units with pcie := t.pcie } ∧
      (q.function ≠ 0 → t.pcie = s.pcie ∧ t.out = .cfg 1 0 :: s.out) ∧
      (q.function = 0 → s.pcie.restored = false → t.pcie = s.pcie ∧ t.out = .cfg 2 0 :: s.out) ∧
      (q.function = 0 → s.pcie.restored = true → q.write = false → t.pcie = s.pcie ∧
        (q.reg = .ids → t.out = .cfg 0 0x64721E5A :: s.out) ∧ (q.reg = .classRev → t.out = .cfg 0 (0x11800000 + s.dev.stepping) :: s.out) ∧
        (q.reg = .subsystem → t.out = .cfg 0 (s.fld R.PCIE_SUBSYS_SVID + 65536 * s.fld R.PCIE_SUBSYS_SSID) :: s.out) ∧
        (q.reg = .intPin → t.out = .cfg 0 0 :: s.out) ∧
        (q.reg = .aerUnc → t.out = .cfg 0 s.pcie.aerUnc :: s.out) ∧ (q.reg = .aerCor → t.out = .cfg 0 s.pcie.aerCor :: s.out) ∧
        (q.reg = .aerHdr0 → t.out = .cfg 0 (s.pcie.aerHdr.getD 0 0) :: s.out) ∧ (q.reg = .serialLo → t.out = .cfg 0 (s.fld R.ID_SERIAL % 2 ^ 32) :: s.out) ∧
        (q.reg = .doeStatus → t.out = .cfg 0 ((if s.doeServed then 0 else 1) + if s.pcie.doeErr then 4 else 0) :: s.out) ∧ ∃ v, t.out = .cfg 0 v :: s.out) ∧
      (q.function = 0 → s.pcie.restored = true → q.write = true → (q.reg ≠ .devCtl3 → t.out = .cfg 0 0 :: s.out) ∧
        (q.reg = .devCtl3 → t.pcie.l0p = (if q.value.testBit 3 = false then 0 else if q.value / 16 % 8 = 2 then 4 else if q.value / 16 % 8 = 3 then 8 else 0) ∧
          (s.pcie.up = true → ∀ w, w = (if s.bit R.PCIE_LINK_FLIT = true ∧ t.pcie.l0p ≠ 0 ∧ t.pcie.l0p < s.pcie.width then t.pcie.l0p else s.pcie.width) → w < 2 ^ R.PCIE_LINK_WIDTH.w →
            t.fld R.PCIE_LINK_WIDTH = w ∧ (s.fld R.PCIE_LINK_WIDTH ≠ w → t.bit R.PCIE_LINK_L0P = decide (w ≠ s.pcie.width) ∧ Raised t pciePg 0))) ∧
        (q.reg = .devCtl → t.pcie.maxPayload = (if q.value / 32 % 8 ≤ 2 then 128 * 2 ^ (q.value / 32 % 8) else 512) ∧
          t.pcie.maxRead = (if q.value / 4096 % 8 ≤ 5 then 128 * 2 ^ (q.value / 4096 % 8) else 4096)) ∧
        (q.reg = .devCtl2 → t.pcie.noTimeout = q.value.testBit 4 ∧ t.pcie.ltr = q.value.testBit 10 ∧ t.pcie.tag10 = q.value.testBit 12 ∧
          (q.value % 16 ∈ [0, 1, 2, 5, 6, 9, 10, 13, 14] → t.pcie.timeout = q.value % 16)) ∧
        (q.reg = .linkCtl → t.pcie = { s.pcie with aspm := q.value.testBit 1 }) ∧
        (q.reg = .aerUnc → ∀ i, i < 32 → t.pcie.aerUnc.testBit i = (s.pcie.aerUnc.testBit i && !q.value.testBit i)) ∧
        (q.reg = .doeWrite → s.doeServed = true → s.pcie.doeErr = false →
          t.pcie = if 1024 ≤ s.pcie.doe.length then { s.pcie with doe := [], doeErr := true } else { s.pcie with doe := s.pcie.doe ++ [q.value % 2 ^ 32] }) ∧
        (q.reg = .doeWrite → s.doeServed = false ∨ s.pcie.doeErr = true → t.pcie = s.pcie) ∧
        (q.reg ∈ [.ids, .classRev, .subsystem, .intPin, .serialLo, .serialHi] → t.pcie = s.pcie) ∧
        (q.reg = .command → t.pcie = { s.pcie with memEn := q.value.testBit 1, bme := q.value.testBit 2 }) ∧
        (q.reg = .msixCtl → t.pcie = { s.pcie with funcMask := q.value.testBit 14, msixEn := q.value.testBit 15 }) ∧
        (q.reg = .powerState → t.pcie = { s.pcie with d3hot := decide (q.value % 4 = 3) }))) ∧
    (∀ a b c d, s.pcie.perst = true ∨ s.fld R.ST_STATE_STEP < 4 → exec (.pcieLinkUp a b c d) s = .next s) ∧
    (∀ a b c d, s.pcie.perst = false → 4 ≤ s.fld R.ST_STATE_STEP → ∃ t, exec (.pcieLinkUp a b c d) s = .next t ∧
      t.pcie = { s.pcie with up := true, width := b % 32, l0p := 0 } ∧ t.fld R.PCIE_LINK_L0P = 0 ∧ t.fld R.PCIE_LINK_SPEED = a % 2 ^ R.PCIE_LINK_SPEED.w ∧
      t.fld R.PCIE_LINK_WIDTH = b % 2 ^ R.PCIE_LINK_WIDTH.w ∧ t.bit R.PCIE_LINK_FLIT = c ∧ t.bit R.PCIE_LINK_REVERSED = d ∧
      (t.fld (R.PG_IRQ_RAW pciePg)).testBit 0 = true ∧ Frame s t (InPages [pciePg]) PbaWords ∧ t.units = { s.units with pcie := t.pcie }) ∧
    (s.pcie.up = false → exec .pcieLinkDown s = .next s) ∧
    (s.pcie.up = true → ∃ t, exec .pcieLinkDown s = .next t ∧ t.pcie = { s.pcie with up := false } ∧ t.fld R.PCIE_LINK_SPEED = 0 ∧
      t.fld R.PCIE_LINK_WIDTH = 0 ∧ t.fld R.PCIE_LINK_DOWN = (s.fld R.PCIE_LINK_DOWN + 1) % 2 ^ 48 ∧
      (s.bit (R.PG_ERR_CODE_VALID pciePg) = false → t.fld (R.PG_ERR_CODE_CODE pciePg) = 0x13) ∧
      (t.fld (R.PG_IRQ_RAW pciePg)).testBit 0 = true ∧ (t.fld (R.PG_IRQ_RAW pciePg)).testBit 1 = true ∧
      (∀ n < 32, (t.dmaCh n).move = (s.dmaCh n).move.map Move.hostLost ∧ (t.dmaCh n).flush = if (s.dmaCh n).flush = 0 then 0 else 2) ∧
      Frame s t (InPages [pciePg, mxPg, evtPg]) PbaWords ∧ t.units = { s.units with pcie := t.pcie, dma := t.dma }) ∧
    exec .d3hotEntry s = .next { s with pcie := { s.pcie with d3hot := true } } ∧
    exec .d0Return s = .next { s with pcie := { s.pcie with d3hot := false } }

/-- BAR2_READ and BAR2_WRITE (R352, R353, R360 to R363). During PERST# neither does anything; in D3hot a read is answered
with UR while the link is up, and a write does nothing. Else a read is answered, while the link is up, with SC, in
completions that together carry its bytes in order, none longer than Max Payload Size, one alone where they fit (where
else they are cut is the model's choice, log entry 155): the bytes that the model's read of stacked memory at WIN_BASE
gives, with EP where a word that the completion carries is poisoned, each such counted in EP_TX, or zeros where an
address decodes to nothing. A write of one whole word that lies in an enabled region other than 7, of a channel in
service, stores its bytes and makes the word normal, or stored poison where it comes with EP; a write that ends in an
error response is counted in WIN_DROP. With the fabric off a read is answered with zeros (the model's choice, log
entry 105) and a write is received and does nothing more. A write that comes with EP is counted in EP_RX. Every byte
outside the words touched, registers below the memory controllers' pages, window words but the pending bits, and the
units' state but memory's and the function's error registers are unchanged. (What an access counts at the bus matrix
is the model's choice, log entry 92.) -/
def Obligations.BarTwoWindow : Prop :=
  ∀ (s : State) (mps : Nat) (cpl : Bool × List Byte → Out) (zeros : Nat → Nat → List (Bool × List Byte)),
    mps = max 1 s.pcie.maxPayload → cpl = (fun x => .bar2 0 x.1 x.2) →
    zeros = (fun off len => s.bar2Cpls (s.fld R.PCIE_WIN_BASE_BASE * 2 ^ 30 + off) (List.replicate len 0) (fun _ => false)) →
    (s.pcie.perst = true → ∀ off len data ep, exec (.bar2Read off len) s = .next s ∧ exec (.bar2Write off data ep) s = .next s) ∧
    (s.pcie.perst = false → s.pcie.d3hot = true → ∀ off len data ep, exec (.bar2Write off data ep) s = .next s ∧
      (s.pcie.up = false → exec (.bar2Read off len) s = .next s) ∧
      (s.pcie.up = true → exec (.bar2Read off len) s = .next { s with out := .bar2 1 false [] :: s.out })) ∧
    (s.pcie.perst = false → s.pcie.d3hot = false → s.domOn 19 = false → ∀ off len data, exec (.bar2Write off data false) s = .next s ∧
      (∃ t, exec (.bar2Write off data true) s = .next t ∧ t.fld R.PCIE_EP_RX = (s.fld R.PCIE_EP_RX + 1) % 2 ^ 48 ∧
        Frame s t (InPages [pciePg, evtPg]) PbaWords ∧ t.units = { s.units with pcie := t.pcie }) ∧
      (s.pcie.up = true → exec (.bar2Read off len) s = .next { s with
        out := ((zeros off len).map cpl).reverse ++ s.out })) ∧
    (∀ a bs marks, (s.bar2Cpls a bs marks).flatMap (·.2) = bs ∧
      (∀ x ∈ s.bar2Cpls a bs marks, x.2.length ≤ max 1 s.pcie.maxPayload) ∧
      (bs.length ≤ mps - a % mps → s.bar2Cpls a bs marks = [((List.range bs.length).any (fun i => marks (a + i)), bs)])) ∧
    (s.pcie.perst = false → s.pcie.d3hot = false → s.domOn 19 = true → ∀ off len b, b = s.fld R.PCIE_WIN_BASE_BASE * 2 ^ 30 + off →
      ∃ t, exec (.bar2Read off len) s = .next t ∧
        (∀ r u, (s.mxMem .host b len).readDram .host b len = (r, u) → s.pcie.up = true → r.decode = true → t = { u with out := ((zeros off len).map cpl).reverse ++ u.out }) ∧
        (∀ r u cs, (s.mxMem .host b len).readDram .host b len = (r, u) → s.pcie.up = true → r.decode = false →
          cs = s.bar2Cpls b r.bytes (fun x => r.marks.getD (x / 32 - b / 32) false) →
          t.out = (cs.map cpl).reverse ++ u.out ∧ t.dram = u.dram ∧
          t.fld R.PCIE_EP_TX = (s.fld R.PCIE_EP_TX + (cs.filter (·.1)).length) % 2 ^ 48) ∧
        (∀ a, (∀ x ∈ wordSpan b len, ∀ p, s.placeOf .host x.1 = some p → a / 32 ≠ p / 32) → t.dram.byteAt a = s.dram.byteAt a) ∧
        RegFrame s t MemoryUp PbaWords ∧ t.units = { s.units with dram := t.dram }) ∧
    (s.pcie.perst = false → s.pcie.d3hot = false → s.domOn 19 = true → ∀ off data ep b, b = s.fld R.PCIE_WIN_BASE_BASE * 2 ^ 30 + off →
      ∃ t, exec (.bar2Write off data ep) s = .next t ∧
        (∀ p, b % 32 = 0 → data.length = 32 → s.placeOf .host b = some p → (∀ x, s.rgnOf b ≠ some (7, x)) → s.chanRetired (placeChan p) = false →
          (∀ i < 32, t.dram.byteAt (p / 32 * 32 + i) = data[i]?) ∧ (t.dram.words.get cleanWord (p / 32)).poison = ep) ∧
        (ep = false → ((s.mxMem .host b data.length).writeDram .host b data).1.refused = true → t.fld R.PCIE_WIN_DROP = (s.fld R.PCIE_WIN_DROP + 1) % 2 ^ 48 ∧
          t.fld R.PCIE_EVT_WIN_DROP = 1) ∧
        (ep = true → t.fld R.PCIE_EP_RX = (s.fld R.PCIE_EP_RX + 1) % 2 ^ 48 ∧ t.fld R.PCIE_EVT_EP_RX = 1) ∧
        (s.bit R.MAP_STAT_FILL_BUSY = false → ∀ a, (∀ x ∈ wordSpan b data.length, ∀ p, s.placeOf .host x.1 = some p → a / 32 ≠ p / 32) → t.dram.byteAt a = s.dram.byteAt a) ∧
        RegFrame s t MemoryUp PbaWords ∧ t.units = { s.units with dram := t.dram, pcie := t.pcie })

/-- QL_SAMPLE, REF_MEASUREMENT, REF_ACTIVITY_LOSS, SWITCH_BUILDOUT, SWITCH_DONE, OSC_LOST, OSC_RETURN and OSC_PULL_DONE
(R380 to R387). A level sampled twice in succession is in force where no override stands; an override always is. A
measurement shows each reference's activity, the nominal frequency that lies within 1000 ppm, and its offset from the
one found or expected; a reference without activity is neither eligible nor qualifying, with QUAL_SEC 0; one of REFA
and REFB without a loss condition advances QUAL_SEC up to 255 and is eligible once that reaches QUAL_TIME; a second of
HOLDOVER is counted. A loss of activity takes eligibility away, and abandons a switch to that reference with the
build-out from before it; a fourth reference changes nothing. A build-out of a switch stores its phase within half a
microsecond, from where the phase error reads zero, and makes the new reference active, or stores it in ACQUIRE; else
it changes nothing. A switch that is built out ends: SWITCHES counts one and its interrupt is pending; else it changes
nothing. OSC_LOST of a running oscillator sets its bit, puts the Tarn into FREERUN and, where that fault is new, the
DAC to zero scale; a return is remembered, and once pulled in the bit clears; without a loss both change nothing.
Registers outside the TRN0, TRN1, TUNE and EVT pages, window words but the pending bits, memory, and the units' state
but the Tarn's and the DAC's are unchanged. -/
def Obligations.TarnReferences : Prop :=
  ∀ (s : State),
    (∀ a b, ∃ t, exec (.qlSample a b) s = .next t ∧
      (∀ r v, (r = 0 ∧ v = a % 8) ∨ (r = 1 ∧ v = b % 8) →
        (s.bit (R.TRN1_REF_CFG_QL_OVR r) = true → t.fld (R.TRN1_REF_STAT_QL r) = s.fld (R.TRN1_REF_CFG_QL_VAL r) % 2 ^ 3) ∧
        (s.bit (R.TRN1_REF_CFG_QL_OVR r) = false → s.tarn.qlLast.get 0 r = v → t.fld (R.TRN1_REF_STAT_QL r) = v) ∧
        (s.bit (R.TRN1_REF_CFG_QL_OVR r) = false → s.tarn.qlLast.get 0 r ≠ v → t.fld (R.TRN1_REF_STAT_QL r) = s.tarn.qlLast.get 0 (2 + r) % 2 ^ 3)) ∧
      Frame s t (Keys [R.TRN1_REF_STAT_QL 0, R.TRN1_REF_STAT_QL 1, R.TRN1_REF_STAT_QL 2]) NoWord ∧ t.units = { s.units with tarn := t.tarn }) ∧
    (∀ ms, ∃ t, exec (.refMeasurement ms) s = .next t ∧
      (∀ r m, r < 3 → ms[r]? = some m →
        (s.refNominal r m.freq ≠ 0 → t.fld (R.TRN1_REF_FOFS_PPT r) = satFld (pptOf (s.refNominal r m.freq) m.freq) % 2 ^ 32) ∧
        t.fld (R.TRN1_REF_STAT_FREQ_DET r) = (if (m.act && (decide (r ≠ 2) || s.refcLive)) = true then s.detect r m.freq else 0) ∧
        (m.act = true → r ≠ 2 → t.fld (R.TRN1_REF_STAT_ACT r) = 1) ∧
        (m.act = false → t.fld (R.TRN1_REF_STAT_ACT r) = 0 ∧ t.fld (R.TRN1_REF_STAT_ELIGIBLE r) = 0 ∧
          t.fld (R.TRN1_REF_STAT_QUALIFYING r) = 0 ∧ t.fld (R.TRN1_REF_STAT_QUAL_SEC r) = 0) ∧
        (r < 2 → m.act = true → s.detect r m.freq ≠ 0 → (pptOf (s.detect r m.freq) m.freq).natAbs ≤ 1000 * s.qualWin →
          s.bit (R.TRN1_REF_CFG_DISABLE r) = false → s.bit (R.TRN1_REF_CFG_PPS_REQ r) = false → s.bit (R.TRN1_REF_CFG_QL_OVR r) = true →
          s.fld (R.TRN1_REF_CFG_QL_VAL r) ≠ 0 → s.fld R.TRN0_STAT_ACTIVE ≠ r →
          t.fld (R.TRN1_REF_STAT_QUAL_SEC r) = min 255 (s.fld (R.TRN1_REF_STAT_QUAL_SEC r) + 1) ∧
          (s.qualTime ≤ min 255 (s.fld (R.TRN1_REF_STAT_QUAL_SEC r) + 1) → t.bit (R.TRN1_REF_STAT_ELIGIBLE r) = true))) ∧
      (s.fld R.TRN0_STAT_STATE = tsHoldover → t.fld R.TRN0_HOLD_SEC = (s.fld R.TRN0_HOLD_SEC + 1) % 2 ^ 48) ∧
      Frame s t (InPages [trn0Pg, trn1Pg, tunePg, evtPg]) PbaWords ∧ t.units = { s.units with tarn := t.tarn, tune := t.tune }) ∧
    (∀ r, 3 ≤ r → exec (.refActivityLoss r) s = .next s) ∧
    (∀ r, r < 3 → ∃ t, exec (.refActivityLoss r) s = .next t ∧ t.fld (R.TRN1_REF_STAT_ACT r) = 0 ∧ t.fld (R.TRN1_REF_STAT_ELIGIBLE r) = 0 ∧
      t.fld (R.TRN1_REF_STAT_QUAL_SEC r) = 0 ∧
      (∀ o, s.tarn.switch = some (o, r) → t.fld R.TRN0_BUILDOUT_PS = s.tarn.before.1 % 2 ^ 32 ∧ t.fld R.TRN0_STAT_SWITCH_ABORT = 1) ∧
      Frame s t (InPages [trn0Pg, trn1Pg, tunePg, evtPg]) PbaWords ∧ t.units = { s.units with tarn := t.tarn, tune := t.tune }) ∧
    (∀ o : Int, s.tarn.built = true ∨ (s.tarn.switch = none ∧ s.fld R.TRN0_STAT_STATE ≠ tsAcquire) → exec (.switchBuildout o) s = .next s) ∧
    (∀ (o : Int) p r, s.tarn.built = false → s.tarn.switch = some (p, r) → r < 3 → ∃ t, exec (.switchBuildout o) s = .next t ∧
      t.fld R.TRN0_BUILDOUT_PS = unsgn 32 ((o + 500000) % 1000000 - 500000) ∧ t.fld R.TRN0_STAT_ACTIVE = r ∧
      (∀ k < 3, t.bit (R.TRN1_REF_STAT_ACTIVE k) = decide (k = r)) ∧ t.tarn = { s.tarn with built := true, setpoint := 0 } ∧ t.fld R.TRN0_PHASE_ERR_PS = 0 ∧
      Frame s t (Keys [R.TRN0_BUILDOUT_PS, R.TRN0_PHASE_ERR_PS, R.TRN0_STAT_ACTIVE, R.TRN1_REF_STAT_ACTIVE 0, R.TRN1_REF_STAT_ACTIVE 1, R.TRN1_REF_STAT_ACTIVE 2]) NoWord ∧
      t.units = { s.units with tarn := t.tarn }) ∧
    (∀ o : Int, s.tarn.built = false → s.tarn.switch = none → s.fld R.TRN0_STAT_STATE = tsAcquire → ∃ t, exec (.switchBuildout o) s = .next t ∧
      t.fld R.TRN0_BUILDOUT_PS = unsgn 32 ((o + 500000) % 1000000 - 500000) ∧ t.tarn = { s.tarn with built := true, setpoint := 0 } ∧ t.fld R.TRN0_PHASE_ERR_PS = 0 ∧
      Frame s t (Keys [R.TRN0_BUILDOUT_PS, R.TRN0_PHASE_ERR_PS]) NoWord ∧ t.units = { s.units with tarn := t.tarn }) ∧
    (s.tarn.switch = none ∨ s.tarn.built = false → exec .switchDone s = .next s) ∧
    (∀ q, s.tarn.switch = some q → s.tarn.built = true → ∃ t, exec .switchDone s = .next t ∧
      t.fld R.TRN0_SWITCHES = (s.fld R.TRN0_SWITCHES + 1) % 2 ^ 48 ∧ (t.fld (R.PG_IRQ_RAW trn0Pg)).testBit 1 = true ∧
      Frame s t (InPages [trn0Pg, trn1Pg, tunePg, evtPg]) PbaWords ∧ t.units = { s.units with tarn := t.tarn, tune := t.tune }) ∧
    (s.bit R.TRN0_STAT_OSC_LOST = true → exec .oscLost s = .next { s with tarn := { s.tarn with oscBack := false } } ∧
      exec .oscReturn s = .next { s with tarn := { s.tarn with oscBack := true } }) ∧
    (s.bit R.TRN0_STAT_OSC_LOST = false → exec .oscReturn s = .next s ∧ exec .oscPullDone s = .next s ∧ ∃ t, exec .oscLost s = .next t ∧
      t.fld R.TRN0_STAT_OSC_LOST = 1 ∧ t.fld R.TRN0_STAT_STATE = tsFreerun ∧ (t.fld (R.PG_IRQ_RAW trn0Pg)).testBit 4 = true ∧
      (5 ∉ s.tune.faults → t.fld R.TUNE_STAT_FAULT = 1 ∧ t.fld R.TUNE_STAT_CAUSE = 5 ∧ t.fld R.TUNE_OUT_CODE = 0 ∧ t.fld R.TUNE_STAT_ZERO = 1) ∧
      Frame s t (InPages [trn0Pg, trn1Pg, tunePg, evtPg]) PbaWords ∧ t.units = { s.units with tarn := t.tarn, tune := t.tune }) ∧
    (s.tarn.oscBack = false → exec .oscPullDone s = .next s) ∧
    (s.bit R.TRN0_STAT_OSC_LOST = true → s.tarn.oscBack = true → ∃ t, exec .oscPullDone s = .next t ∧ t.fld R.TRN0_STAT_OSC_LOST = 0 ∧
      Frame s t (InPages [trn0Pg, trn1Pg, tunePg, evtPg]) PbaWords ∧ t.units = { s.units with tarn := t.tarn, tune := t.tune })

/-- LOOP_UPDATE, HIST_SAVE_TIMER, HIST_SAVE, PSTEP_WRITE, PSTEP_CANCEL, TUNE_FAULT, TUNE_FAULT_CLEAR, TUNE_CODE_WRITE,
RANGE_CHANGE and RANGE_DONE (R388 to R391, R395 to R398); the host's ones served. In FREERUN, in HOLDOVER with nothing
to work off, or before the build-out, an update changes nothing, but that a millisecond of LOCKED with a learned code
counts toward the hour. In HOLDOVER a phase step offsets the held code, and the held code comes back after it. In
ACQUIRE and LOCKED an update shows the phase error modulo 1 µs net of BUILDOUT and of the phase setpoint (log entry
164: the sign of the phase measured is the model's choice); in LOCKED a phase step moves that setpoint by what a
millisecond of the slew limit works off of it. The first code written in ACQUIRE is the learned one, else 0x80_0000;
enough errors within 2 ns lead to LOCKED, one above 20 ns back to ACQUIRE. A held code becomes HIST with a save
requested, by the hour or by command where one is held. A phase step adds to the remainder, saturated, in LOCKED and
HOLDOVER, and else sets PSTEP_IGN; a cancel clears it, and puts the held code back where an offset was in force. A new
fault puts the output to zero scale, is counted, and the Tarn goes to FREERUN; the last one that ends clears FAULT. A
code written by the driver comes out where SRC is 1 and no fault or range change stands. A change of RANGE puts the
output to zero scale; its end raises interrupt 1 and puts the code out unless a fault was there. Registers outside the
TRN0, TRN1, TUNE, TOD, NVR and EVT pages, window words but the pending bits, memory, and the units' state but the
Tarn's, the DAC's and the time of day's are unchanged. -/
def Obligations.TarnLoopAndTune : Prop :=
  ∀ (s : State) (wide : Nat → Prop), wide = InPages [trn0Pg, trn1Pg, tunePg, evtPg] →
    (∀ p : Int, s.fld R.TRN0_STAT_STATE = tsFreerun ∨ (s.fld R.TRN0_STAT_STATE ≠ tsHoldover ∧ s.tarn.built = false) →
      exec (.loopUpdate p) s = .next (if s.fld R.TRN0_STAT_STATE = tsLocked ∧ s.bit R.TRN0_STAT_HOLD_VALID = true then
        { s with tarn := { s.tarn with saveMs := s.tarn.saveMs + 1 } } else s)) ∧
    (∀ p : Int, s.fld R.TRN0_STAT_STATE = tsHoldover → s.sfld R.TRN0_PSTEP_REM_PS = 0 → s.tarn.slewing = false → exec (.loopUpdate p) s = .next s) ∧
    (∀ p : Int, s.fld R.TRN0_STAT_STATE = tsHoldover → s.sfld R.TRN0_PSTEP_REM_PS = 0 → s.tarn.slewing = true → ∃ t, exec (.loopUpdate p) s = .next t ∧
      t.tarn = { s.tarn with slewing := false, slew := 0 } ∧ t.tune.code = s.heldCode % 2 ^ 24 ∧
      Frame s t (Keys [R.TUNE_OUT_CODE, R.TUNE_STAT_ZERO, R.TUNE_STAT_WRITTEN]) NoWord) ∧
    (∀ p : Int, s.fld R.TRN0_STAT_STATE = tsHoldover → s.sfld R.TRN0_PSTEP_REM_PS ≠ 0 → s.tarn.slewing = false → ∃ t, exec (.loopUpdate p) s = .next t ∧
      t.tarn = { s.tarn with slewing := true } ∧ t.tune.code = (max 0 (min 16777215 ((s.heldCode : Int) + s.slewCode))).toNat % 2 ^ 24 ∧
      Frame s t (Keys [R.TUNE_OUT_CODE, R.TUNE_STAT_ZERO, R.TUNE_STAT_WRITTEN]) NoWord) ∧
    (∀ p : Int, ∃ t, exec (.loopUpdate p) s = .next t ∧ Frame s t (InPages [trn0Pg, tunePg, todPg, evtPg]) PbaWords ∧
      t.units = { s.units with tarn := t.tarn, tune := t.tune, tod := t.tod }) ∧
    (∀ p e : Int, s.fld R.TRN0_STAT_STATE = tsAcquire ∨ s.fld R.TRN0_STAT_STATE = tsLocked → s.tarn.built = true →
      e = (p - s.sfld R.TRN0_BUILDOUT_PS - s.tarn.setpoint + 500000) % 1000000 - 500000 → ∃ t, exec (.loopUpdate p) s = .next t ∧
      t.fld R.TRN0_PHASE_ERR_PS = unsgn 32 e ∧
      (s.tarn.acquiring = true → t.tune.code = s.learnedCode.getD 0x800000 % 2 ^ 24 ∧
        (s.bit R.TUNE_STAT_FAULT = false → s.bit R.TUNE_STAT_RANGING = false → t.fld R.TUNE_OUT_CODE = s.learnedCode.getD 0x800000 % 2 ^ 24)) ∧
      (s.fld R.TRN0_STAT_STATE = tsAcquire → s.bit R.TRN0_STAT_SWITCHING = false → e.natAbs ≤ 2000 → s.settleMs ≤ s.tarn.inBounds + 1 →
        t.fld R.TRN0_STAT_STATE = tsLocked ∧ (s.bit R.TOD_CFG_AUTO_ALIGN = true → t.tod.align = true ∧ t.fld R.TOD_STAT_PEND = 1)) ∧
      (s.fld R.TRN0_STAT_STATE = tsAcquire → 2000 < e.natAbs ∨ s.tarn.inBounds + 1 < s.settleMs → t.fld R.TRN0_STAT_STATE = tsAcquire) ∧
      (s.fld R.TRN0_STAT_STATE = tsLocked → s.bit R.TRN0_STAT_SWITCHING = false → 20000 < e.natAbs → t.fld R.TRN0_STAT_STATE = tsAcquire) ∧
      (s.fld R.TRN0_STAT_STATE = tsLocked → e.natAbs ≤ 20000 → t.fld R.TRN0_STAT_STATE = tsLocked ∧
        (t.sfld R.TRN0_PSTEP_REM_PS).natAbs = (s.sfld R.TRN0_PSTEP_REM_PS).natAbs - min ((s.tarn.slew + s.pslew) / 1000) (s.sfld R.TRN0_PSTEP_REM_PS).natAbs ∧
        t.tarn.setpoint = s.tarn.setpoint + (s.sfld R.TRN0_PSTEP_REM_PS - t.sfld R.TRN0_PSTEP_REM_PS)) ∧
      (s.fld R.TRN0_STAT_STATE = tsLocked → s.bit R.TRN0_STAT_HOLD_VALID = true → t.tarn.saveMs = s.tarn.saveMs + 1)) ∧
    (s.tarn.saveMs < 3600000 → exec .histSaveTimer s = .next s) ∧
    (3600000 ≤ s.tarn.saveMs → ∃ t, exec .histSaveTimer s = .next t ∧ t.fld R.TRN0_HIST_CODE = s.fld R.TRN0_HOLD_CODE_CODE % 2 ^ 24 ∧
      t.fld R.TRN0_HIST_VALID = 1 ∧ t.fld R.NVR_STAT_DIRTY = 1 ∧ t.tarn = { s.tarn with saveMs := s.tarn.saveMs - 3600000 } ∧
      Frame s t (Keys [R.TRN0_HIST_CODE, R.TRN0_HIST_VALID, R.NVR_STAT_DIRTY]) NoWord ∧ t.units = { s.units with tarn := t.tarn }) ∧
    (∀ π, s.Serves π 0x10040 →
      (s.bit R.TRN0_STAT_HOLD_VALID = false → ∃ o, exec (.histSave π) s = .next { s with opened := o }) ∧
      (s.bit R.TRN0_STAT_HOLD_VALID = true → ∃ t, exec (.histSave π) s = .next t ∧ t.fld R.TRN0_HIST_CODE = s.fld R.TRN0_HOLD_CODE_CODE % 2 ^ 24 ∧
        t.fld R.TRN0_HIST_VALID = 1 ∧ t.fld R.NVR_STAT_DIRTY = 1 ∧
        Frame s t (Keys [R.TRN0_HIST_CODE, R.TRN0_HIST_VALID, R.NVR_STAT_DIRTY]) NoWord ∧ t.units = s.units) ∧
      (∃ t, exec (.pstepCancel π) s = .next t ∧ t.fld R.TRN0_PSTEP_REM_PS = 0 ∧ t.fld R.TRN0_STAT_PSTEP_BUSY = 0 ∧
        (s.tarn.slewing = false → t.tarn = s.tarn ∧ t.tune = s.tune ∧ Frame s t (Keys [R.TRN0_PSTEP_REM_PS, R.TRN0_STAT_PSTEP_BUSY]) NoWord) ∧
        (s.tarn.slewing = true → t.tarn = { s.tarn with slewing := false } ∧ t.tune.code = s.heldCode % 2 ^ 24) ∧
        Frame s t (Keys [R.TRN0_PSTEP_REM_PS, R.TRN0_STAT_PSTEP_BUSY, R.TUNE_OUT_CODE, R.TUNE_STAT_ZERO, R.TUNE_STAT_WRITTEN]) NoWord ∧
        t.units = { s.units with tarn := t.tarn, tune := t.tune })) ∧
    (∀ π v (x : Int), s.Serves π 0x10054 → x = max (-2147483647) (min 2147483647 (s.sfld R.TRN0_PSTEP_REM_PS + sgn 32 (v % 2 ^ 32))) →
      (s.fld R.TRN0_STAT_STATE = tsLocked ∨ s.fld R.TRN0_STAT_STATE = tsHoldover → ∃ t, exec (.pstepWrite π v) s = .next t ∧
        t.sfld R.TRN0_PSTEP_REM_PS = x ∧ t.bit R.TRN0_STAT_PSTEP_BUSY = decide (x ≠ 0) ∧
        (s.sfld R.TRN0_PSTEP_REM_PS ≠ 0 → x = 0 → (t.fld (R.PG_IRQ_RAW trn0Pg)).testBit 3 = true) ∧
        Frame s t (Keys [R.TRN0_PSTEP_REM_PS, R.TRN0_STAT_PSTEP_BUSY, R.PG_IRQ_RAW trn0Pg]) PbaWords ∧ t.units = s.units) ∧
      (s.fld R.TRN0_STAT_STATE ≠ tsLocked → s.fld R.TRN0_STAT_STATE ≠ tsHoldover → ∃ t, exec (.pstepWrite π v) s = .next t ∧
        t.fld R.TRN0_STAT_PSTEP_IGN = 1 ∧ Frame s t (Keys [R.TRN0_STAT_PSTEP_IGN]) NoWord ∧ t.units = s.units)) ∧
    (∀ c, c = 0 ∨ 4 < c → exec (.tuneFault c) s = .next s) ∧
    (∀ c, 0 < c → c ≤ 4 → c ∉ s.tune.faults → ∃ t, exec (.tuneFault c) s = .next t ∧ t.fld R.TUNE_STAT_FAULT = 1 ∧ t.fld R.TUNE_STAT_FAULT_SEEN = 1 ∧
      t.fld R.TUNE_STAT_CAUSE = c ∧ t.fld R.TUNE_OUT_CODE = 0 ∧ t.fld R.TUNE_STAT_ZERO = 1 ∧ t.fld R.TRN0_STAT_STATE = tsFreerun ∧
      t.fld R.TUNE_FAULTS_COUNT = (s.fld R.TUNE_FAULTS_COUNT + 1) % 2 ^ 32 ∧ c ∈ t.tune.faults ∧ t.tune.waits = true ∧
      Frame s t wide PbaWords ∧ t.units = { s.units with tarn := t.tarn, tune := t.tune }) ∧
    (∀ c, c ∈ s.tune.faults → ∃ t, exec (.tuneFault c) s = .next t ∧ Frame s t wide PbaWords ∧ t.units = { s.units with tarn := t.tarn, tune := t.tune }) ∧
    (∀ c, c ∉ s.tune.faults ∨ (c = 5 ∧ s.bit R.TRN0_STAT_OSC_LOST = true) → exec (.tuneFaultClear c) s = .next s) ∧
    (∀ c, c ∈ s.tune.faults → c ≠ 5 ∨ s.bit R.TRN0_STAT_OSC_LOST = false → ∃ t, exec (.tuneFaultClear c) s = .next t ∧ t.tune.faults = s.tune.faults.filter (· != c) ∧
      (s.tune.faults.filter (· != c) = [] → t.fld R.TUNE_STAT_FAULT = 0) ∧
      (s.tune.faults.filter (· != c) ≠ [] → t.fld R.TUNE_STAT_FAULT = s.fld R.TUNE_STAT_FAULT) ∧
      Frame s t wide PbaWords ∧ t.units = { s.units with tarn := t.tarn, tune := t.tune }) ∧
    (∀ π v, s.Serves π 0x15048 → ∃ t, exec (.tuneCodeWrite π v) s = .next t ∧ t.fld R.TUNE_CODE = v % 2 ^ 24 ∧
      (s.bit R.TUNE_CFG_SRC = false → t.tune = s.tune ∧ t.fld R.TUNE_OUT_CODE = s.fld R.TUNE_OUT_CODE) ∧
      (s.bit R.TUNE_CFG_SRC = true → t.tune.code = v % 2 ^ 24) ∧
      (s.bit R.TUNE_CFG_SRC = true → s.bit R.TUNE_STAT_FAULT = false → s.bit R.TUNE_STAT_RANGING = false →
        t.fld R.TUNE_OUT_CODE = v % 2 ^ 24 ∧ t.fld R.TUNE_STAT_ZERO = 0) ∧
      (s.bit R.TUNE_CFG_SRC = true → s.bit R.TUNE_STAT_FAULT = true ∨ s.bit R.TUNE_STAT_RANGING = true →
        t.fld R.TUNE_OUT_CODE = s.fld R.TUNE_OUT_CODE) ∧
      Frame s t (Keys [R.TUNE_CODE, R.TUNE_OUT_CODE, R.TUNE_STAT_ZERO, R.TUNE_STAT_WRITTEN]) NoWord ∧ t.units = { s.units with tune := t.tune }) ∧
    (∀ π v, s.Serves π 0x15040 → ∃ t, exec (.rangeChange π v) s = .next t ∧ t.fld R.TUNE_CFG_RANGE = v % 2 ^ 2 ∧ t.fld R.TUNE_CFG_SRC = v / 16 % 2 ∧
      t.fld R.TUNE_CFG_SLOPE_NEG = v / 32 % 2 ∧
      (s.fld R.TUNE_CFG_RANGE ≠ v % 2 ^ 2 → t.fld R.TUNE_STAT_RANGING = 1 ∧ t.fld R.TUNE_OUT_CODE = 0 ∧ t.fld R.TUNE_STAT_ZERO = 1) ∧
      Frame s t wide PbaWords ∧ t.units = { s.units with tarn := t.tarn, tune := t.tune }) ∧
    (s.bit R.TUNE_STAT_RANGING = false → exec .rangeDone s = .next s) ∧
    (s.bit R.TUNE_STAT_RANGING = true → ∃ t, exec .rangeDone s = .next t ∧ t.fld R.TUNE_STAT_RANGING = 0 ∧
      (t.fld (R.PG_IRQ_RAW tunePg)).testBit 1 = true ∧
      (s.tune.waits = false → s.bit R.TUNE_STAT_FAULT = false → t.fld R.TUNE_OUT_CODE = s.tune.code % 2 ^ 24 ∧ t.fld R.TUNE_STAT_ZERO = 0) ∧
      (s.tune.waits = true ∨ s.bit R.TUNE_STAT_FAULT = true → t.fld R.TUNE_OUT_CODE = s.fld R.TUNE_OUT_CODE) ∧
      Frame s t (InPages [tunePg]) PbaWords ∧ t.units = s.units)

/-- TOD_SECOND_WRAP, TOD_NOW_READ, REALIGN, REALIGN_CANCEL, REALIGN_EDGE, LOAD_PPS, ALIGN, TOD_CANCEL, REF_PPS, NO_PPS and
CMP_FIRE (R392 to R394, R399 to R402); the host's ones served. A wrap that falls within the frame period advances the
seconds, puts the nanoseconds to 0 and raises PPS_OUT where that is enabled; any other changes nothing. A read of
NOW_NS latches seconds and nanoseconds for its path and returns the latter. REALIGN with a run active is refused with
CFG_BLOCKED, else it pends; a cancel ends that. At a realign edge that is due the realign ends and is counted, one
tick passes, SYNC_OUT rises and every enabled CLKOUT restarts with a rising edge, where SYNC_OUT is enabled and
SYNC_PERIOD is not 0, and its interrupt is pending; else nothing changes. A PPS edge of REFA or REFB, delayed by
PPS_DELAY, shows the offset of the time of day from it while that is valid (log entry 165: where the edge lies is the
command's operand); at the CTL_CLK edge nearest it a load that waits sets the seconds from SEC_LD, an alignment rounds
to the nearest second, and the nanoseconds are counted from there; each counts one step, raises PPS_OUT and the step's
interrupt; with another reference active nothing changes. A command that waits 2 s for an edge sets NO_PPS. An armed
compare whose time has come fires once. Registers outside the TRN2, TOD and EVT pages (a realign edge: ARR and CHN
too), window words but the pending bits, memory, and the units' state but the time of day's and the Tarn's (a realign
edge: the arrival area's, the channeliser's and the tick count too) are unchanged. -/
def Obligations.TimeOfDay : Prop :=
  ∀ (s : State),
    (s.gridOn = false ∨ frameHalf < s.tod.ahead + (secHalf - s.tod.half) → exec .todSecondWrap s = .next s) ∧
    (s.gridOn = true → s.tod.half < secHalf → s.tod.ahead + (secHalf - s.tod.half) ≤ frameHalf → ∃ t, exec .todSecondWrap s = .next t ∧
      t.tod.sec = (s.tod.sec + 1) % 2 ^ 48 ∧ t.tod.half = 0 ∧
      (s.bit R.TRN2_PULSE_CFG_PPS_EN = true → t.out = .pulse 1 (max 1 (min 999999 (s.fld R.TRN2_PPS_W_USEC))) :: s.out) ∧ (s.bit R.TRN2_PULSE_CFG_PPS_EN = false → t.out = s.out) ∧
      Frame s t (Keys []) NoWord ∧ t.units = { s.units with tod := t.tod }) ∧
    (∀ π k, s.reaches π = false → exec (.todNowRead π k) s = .next s) ∧
    (∀ π k, s.Serves π 0x1404C → ∃ t, exec (.todNowRead π k) s = .next t ∧
      t.tod.capNs.get 0 (pathCode π) = t.tod.half / 2 ∧ t.tod.capSec.get 0 (pathCode π) = t.tod.sec ∧
      (π ≠ .pcie ∨ s.pcie.up = true → t.out.head? = some (.rd π (t.tod.half / 2))) ∧
      (s.gridOn = false ∨ k = 0 → s.tod.half < secHalf → t.tod.half = s.tod.half ∧ t.tod.sec = s.tod.sec) ∧
      (s.gridOn = true → s.tod.half + 5 * k < secHalf → s.tod.ahead + 5 * k ≤ frameHalf → t.tod.half = s.tod.half + 5 * k ∧ t.tod.sec = s.tod.sec) ∧
      Frame s t (Keys []) NoWord ∧ t.units = { s.units with tod := t.tod }) ∧
    (∀ π, s.Serves π 0x12040 →
      (s.running = true → ∃ t, exec (.realign π) s = .next t ∧ t.fld R.TRN2_STAT_CFG_BLOCKED = 1 ∧
        t.fld (R.PG_ERR_CNT_COUNT trn2Pg) = (s.fld (R.PG_ERR_CNT_COUNT trn2Pg) + 1) % 2 ^ 32 ∧ Frame s t (InPages [trn2Pg, evtPg]) PbaWords ∧ t.units = s.units) ∧
      (s.running = false → ∃ t, exec (.realign π) s = .next t ∧ t.fld R.TRN2_STAT_REALIGN_PEND = 1 ∧ t.tarn = { s.tarn with realign := true } ∧
        Frame s t (Keys [R.TRN2_STAT_REALIGN_PEND]) NoWord ∧ t.units = { s.units with tarn := t.tarn }) ∧
      (∃ t, exec (.realignCancel π) s = .next t ∧ t.fld R.TRN2_STAT_REALIGN_PEND = 0 ∧ t.tarn = { s.tarn with realign := false } ∧
        Frame s t (Keys [R.TRN2_STAT_REALIGN_PEND]) NoWord ∧ t.units = { s.units with tarn := t.tarn })) ∧
    (s.tarn.realign = false ∨ s.gridOn = false ∨ s.tod.half ≠ 0 ∨ s.tod.sec % max 1 (s.fld R.TRN2_ALIGN_MOD_SECONDS) ≠ 0 →
      exec .realignEdge s = .next s) ∧
    (s.tarn.realign = true → s.gridOn = true → s.tod.half = 0 → s.tod.sec % max 1 (s.fld R.TRN2_ALIGN_MOD_SECONDS) = 0 →
      ∃ t, exec .realignEdge s = .next t ∧ t.fld R.TRN2_STAT_REALIGN_PEND = 0 ∧ t.tarn = { s.tarn with realign := false, syncBase := s.ticks + 1, clkBase := [] } ∧
        (s.fld R.TRN2_SYNC_PERIOD_FRAMES ≠ 0 → t.fld R.TRN2_FT_PHASE_TICKS = 0 ∧ (t.fld (R.PG_IRQ_RAW trn2Pg)).testBit 1 = true ∧
          (s.bit R.TRN2_PULSE_CFG_SYNC_EN = true → Out.pulse 0 (max 1 (s.fld R.TRN2_PULSE_CFG_SYNC_W)) ∈ t.out)) ∧
        (∀ k < 4, s.bit (R.TRN2_CLKOUT_EN k) = true → Out.clkOut k (s.fld (R.TRN2_CLKOUT_DIV k)) 0 ∈ t.out) ∧
        t.fld R.TRN2_REALIGNS_COUNT = (s.fld R.TRN2_REALIGNS_COUNT + 1) % 2 ^ 32 ∧ t.ticks = s.ticks + 1 ∧ t.tod.ahead = 0 ∧
        (s.domOn 7 = true → s.arr.load ≠ .sync → t.fld R.ARR_NOW = (s.fld R.ARR_NOW + 1) % 2 ^ 48) ∧
        (s.arr.load = .sync → s.arr.loadTick ≤ s.ticks → t.fld R.ARR_NOW = s.fld R.ARR_NOW_LD % 2 ^ 48 ∧ t.arr.load = .none) ∧
        (t.fld (R.PG_IRQ_RAW trn2Pg)).testBit 0 = true ∧ Frame s t (InPages [trn2Pg, pg .arr, pg .chn0, pg .chn1, evtPg]) PbaWords ∧
        t.units = { s.units with tarn := t.tarn, tod := t.tod, ticks := t.ticks, arr := t.arr, chn := t.chn, dly := t.dly }) ∧
    (∀ π, s.Serves π 0x14040 →
      (∃ t, exec (.loadPps π) s = .next t ∧ t.tod = { s.tod with load := true } ∧ t.fld R.TOD_STAT_PEND = 1 ∧
        Frame s t (Keys [R.TOD_STAT_PEND]) NoWord ∧ t.units = { s.units with tod := t.tod }) ∧
      (∃ t, exec (.align π) s = .next t ∧ t.tod = { s.tod with align := true } ∧ t.fld R.TOD_STAT_PEND = 1 ∧
        Frame s t (Keys [R.TOD_STAT_PEND]) NoWord ∧ t.units = { s.units with tod := t.tod }) ∧
      (∃ t, exec (.todCancel π) s = .next t ∧ t.tod = { s.tod with load := false, align := false } ∧ t.fld R.TOD_STAT_PEND = 0 ∧
        Frame s t (Keys [R.TOD_STAT_PEND]) NoWord ∧ t.units = { s.units with tod := t.tod })) ∧
    (∀ o : Int, 2 ≤ s.fld R.TRN0_STAT_ACTIVE → exec (.refPps o) s = .next s) ∧
    (∀ o : Int, s.fld R.TRN0_STAT_ACTIVE < 2 → ∃ t, exec (.refPps o) s = .next t ∧
      t.fld R.TOD_PPS_OFS_PS = (if s.bit R.TOD_STAT_VALID then satFld (s.ppsOfs o) % 2 ^ 32 else 0) ∧ Raised t todPg 3 ∧
      (s.tod.load = true ∨ s.tod.align = true → t.fld R.TOD_STAT_STEPPED = 1 ∧ t.fld R.TOD_STAT_PEND = 0 ∧
        t.fld R.TOD_STEPS_COUNT = (s.fld R.TOD_STEPS_COUNT + 1) % 2 ^ 32 ∧ Raised t todPg 2 ∧
        (s.bit R.TRN2_PULSE_CFG_PPS_EN = true → Out.pulse 1 (max 1 (min 999999 (s.fld R.TRN2_PPS_W_USEC))) ∈ t.out) ∧
        ∀ sec : Nat, sec = (if s.tod.load then s.fld R.TOD_SEC_LD_SEC
            else ((s.tod.sec * secHalf + s.tod.half + s.ppsEdge o) / secHalf : Int).toNat +
              (if (secHalf / 2 : Int) ≤ (s.tod.sec * secHalf + s.tod.half + s.ppsEdge o : Int) % secHalf then 1 else 0)) →
          (s.ppsEdge o ≤ 0 → (-s.ppsEdge o).toNat < secHalf →
            t.tod = { s.tod with sec := sec % 2 ^ 48, half := (-s.ppsEdge o).toNat, load := false, align := false }) ∧
          (0 < s.ppsEdge o → t.tod = { s.tod with
            sec := sec % 2 ^ 48, half := 0, load := false, align := false
            ahead := s.tod.ahead + min (s.ppsEdge o).toNat (frameHalf - s.tod.ahead) })) ∧
      (s.tod.load = true → t.fld R.TOD_STAT_VALID = 1) ∧
      (s.tod.load = false → s.tod.align = false → t.tod = s.tod) ∧
      Frame s t (InPages [todPg, evtPg]) PbaWords ∧ t.units = { s.units with tod := t.tod }) ∧
    (s.bit R.TOD_STAT_PEND = false → exec .noPps s = .next s) ∧
    (s.bit R.TOD_STAT_PEND = true → ∃ t, exec .noPps s = .next t ∧ t.fld R.TOD_STAT_NO_PPS = 1 ∧
      (s.bit (R.PG_ERR_CODE_VALID todPg) = false → t.fld (R.PG_ERR_CODE_CODE todPg) = 0x10) ∧
      Frame s t (InPages [todPg, evtPg]) PbaWords ∧ t.units = s.units) ∧
    (∀ n, 2 ≤ n ∨ s.bit (R.TOD_CMP_CTL_ARM n) = false ∨ seqDiff 64 s.todComposite (s.fld (R.TOD_CMP_TGT_C n)) < 0 → exec (.cmpFire n) s = .next s) ∧
    (∀ n, n < 2 → s.bit (R.TOD_CMP_CTL_ARM n) = true → 0 ≤ seqDiff 64 s.todComposite (s.fld (R.TOD_CMP_TGT_C n)) → ∃ t, exec (.cmpFire n) s = .next t ∧
      t.fld (R.TOD_CMP_CTL_ARM n) = 0 ∧ t.fld (R.TOD_CMP_CTL_FIRED n) = 1 ∧ (t.fld (R.PG_IRQ_RAW todPg)).testBit n = true ∧
      Frame s t (Keys [R.TOD_CMP_CTL_ARM n, R.TOD_CMP_CTL_FIRED n, R.PG_IRQ_RAW todPg]) PbaWords ∧ t.units = s.units)

/-- DOM_EN_WRITE, DOMAIN_DONE, GO_ACTIVE, GO_IDLE, GO_STANDBY and STATE_DONE (R403 to R412); the host's ones served. A
write of DOM_EN with a bit that the ordering code lacks sets ABSENT_REQ; one that changes no domain changes nothing
else; one that switches off a domain in use sets DOM_REFUSED and leaves DOM_EN; else DOM_EN takes it, and in ACTIVE
the domains cleared are off at once and SWITCHING reads 1. When the switches are done the named domains are on that
the device state lets come on (in IDLE neither CHAN nor ENG, in STANDBY none), SWITCHING reads 0 and interrupt 1 is
pending; with none in progress nothing changes. A state command that may not run sets REFUSED; else the transition to
its state begins; the exit from IDLE begins with the domains as DOM_EN names them. A transition whose work is done
ends in its state with TRANSITION 0, counted, interrupt 0 pending: IDLE with domains 7 to 15 off, STANDBY with all off
but AON, PCIE and, where MEM_RET holds them, the MEM domains, READY 0 and STEP 4; memory keeps its bytes but in a
STANDBY without MEM_RET, where it holds none. With no transition, or before its work is done, nothing changes. The
registers of the clock and time pages, window words but the pending bits and those of a domain that comes on, the
Tarn, the TUNE DAC, the time of day and the function's state are unchanged. -/
def Obligations.DomainsAndStates : Prop :=
  ∀ (s : State) (out : Nat → Prop) (keeps : (Nat → Prop) → State → Prop), out = (fun k => ¬ InPages [trn0Pg, trn1Pg, trn2Pg, todPg, tunePg] k) →
    keeps = (fun w t => RegFrame s t out (fun o => PbaWords o ∨ w o) ∧ t.tarn = s.tarn ∧ t.tune = s.tune ∧ t.tod = s.tod ∧ t.pcie = s.pcie ∧ t.dev = s.dev) →
    (∀ π v new, s.Serves π 0x2048 →
      new = domMask (fun d => if domSwitched d && s.domPresent.testBit d then v.testBit d else (s.fld R.PWR_DOM_EN_EN).testBit d) →
      ∃ t, exec (.domEnWrite π v) s = .next t ∧ keeps NoWord t ∧ t.dram = s.dram ∧ t.flash = s.flash ∧
        ((∃ d < 20, v.testBit d = true ∧ s.domPresent.testBit d = false) → t.fld R.PWR_STAT_ABSENT_REQ = 1) ∧
        (new = s.fld R.PWR_DOM_EN_EN → Frame s t (InPages [pwrPg, evtPg]) PbaWords ∧ t.units = s.units) ∧
        (new ≠ s.fld R.PWR_DOM_EN_EN → s.fld R.ST_STATE_DEV_STATE ≠ 0 → t.fld R.PWR_DOM_EN_EN = new ∧
          Frame s t (InPages [pwrPg, evtPg]) PbaWords ∧ t.units = s.units) ∧
        (s.fld R.ST_STATE_DEV_STATE = 0 → (∃ d < 20, (s.fld R.PWR_DOM_EN_EN).testBit d = true ∧ new.testBit d = false ∧ s.domRefused d = true) →
          t.fld R.PWR_STAT_DOM_REFUSED = 1 ∧ t.fld R.PWR_DOM_EN_EN = s.fld R.PWR_DOM_EN_EN ∧ Frame s t (InPages [pwrPg, evtPg]) PbaWords ∧ t.units = s.units) ∧
        (s.fld R.ST_STATE_DEV_STATE = 0 → new ≠ s.fld R.PWR_DOM_EN_EN →
          (∀ d < 20, (s.fld R.PWR_DOM_EN_EN).testBit d = true → new.testBit d = false → s.domRefused d = false) →
          t.fld R.PWR_DOM_EN_EN = new ∧ t.fld R.PWR_DOM_STAT_SWITCHING = 1 ∧ t.pwr.target = some new ∧
          ∀ d < 20, ((s.fld R.PWR_DOM_EN_EN).testBit d = true → new.testBit d = false → t.domOn d = false) ∧
            ((s.fld R.PWR_DOM_EN_EN).testBit d = false ∨ new.testBit d = true → t.domOn d = s.domOn d))) ∧
    (s.pwr.target = none → exec .domainDone s = .next s) ∧
    (∀ m, s.pwr.target = some m → ∃ t, exec .domainDone s = .next t ∧ keeps DomainWords t ∧ t.dram = s.dram ∧ t.flash = s.flash ∧ t.pwr.target = none ∧
      t.fld R.PWR_DOM_STAT_SWITCHING = 0 ∧ (t.fld (R.PG_IRQ_RAW pwrPg)).testBit 1 = true ∧
      ∀ d < 20, (domSwitched d = true → (s.domAllowed m).testBit d = true → t.domOn d = true) ∧ (domSwitched d = false ∨ (s.domAllowed m).testBit d = false → t.domOn d = s.domOn d)) ∧
    (∀ π, s.Serves π 0x2040 → ∀ c ∈ [Instr.goActive π, .goIdle π, .goStandby π],
      (s.pwr.trans.isSome = true ∨ (c = .goActive π ∧ s.fld R.ST_STATE_DEV_STATE = 0) ∨ (c ≠ .goActive π ∧ s.quiet = false) →
        ∃ t, exec c s = .next t ∧ t.fld R.PWR_STAT_REFUSED = 1 ∧ t.fld (R.PG_ERR_CNT_COUNT pwrPg) = (s.fld (R.PG_ERR_CNT_COUNT pwrPg) + 1) % 2 ^ 32 ∧
          Frame s t (InPages [pwrPg, evtPg]) PbaWords ∧ t.units = s.units) ∧
      (s.pwr.trans = none → (c = .goActive π ∧ s.fld R.ST_STATE_DEV_STATE ≠ 0) ∨ (c ≠ .goActive π ∧ s.quiet = true) →
        ∃ t, exec c s = .next t ∧ t.fld R.PWR_STAT_TRANSITION = 1 ∧ t.fld R.ST_STATE_DEV_STATE = s.fld R.ST_STATE_DEV_STATE ∧
          t.pwr.trans = some (if c = .goActive π then 0 else if c = .goIdle π then 1 else 2) ∧ t.pwr.target = s.pwr.target ∧ t.flash = s.flash ∧
          (c ≠ .goActive π ∨ s.fld R.ST_STATE_DEV_STATE ≠ 1 → t.pwr.woken = s.pwr.woken ∧ keeps NoWord t ∧ t.dram = s.dram) ∧
          (c = .goActive π → s.fld R.ST_STATE_DEV_STATE = 1 → keeps DomainWords t ∧ t.dram.selfRefresh = false ∧
            (∀ j ∈ t.pwr.woken, s.lkstate j = lkDormant) ∧ ∀ d < 20, t.domOn d = if domSwitched d then (s.fld R.PWR_DOM_EN_EN).testBit d else s.domOn d))) ∧
    (s.pwr.trans = none → exec .stateDone s = .next s) ∧
    (∀ n, s.pwr.trans = some n → s.transReady n = false → exec .stateDone s = .next s) ∧
    (∀ n, n < 3 → s.pwr.trans = some n → s.transReady n = true → ∃ t, exec .stateDone s = .next t ∧ t.pwr.trans = none ∧
      t.fld R.ST_STATE_DEV_STATE = n ∧ t.fld R.PWR_STAT_STATE = n ∧ t.fld R.PWR_STAT_TRANSITION = 0 ∧
      t.fld R.PWR_TRANSITIONS_COUNT = (s.fld R.PWR_TRANSITIONS_COUNT + 1) % 2 ^ 32 ∧ (t.fld (R.PG_IRQ_RAW pwrPg)).testBit 0 = true ∧
      (n = 1 → ∀ d, 7 ≤ d → d ≤ 15 → t.domOn d = false) ∧
      (n = 2 → t.fld R.ST_STATE_READY = 0 ∧ t.fld R.ST_STATE_STEP = 4 ∧ (∀ d < 20, d ≠ 0 → d ≠ 2 → d ≠ 17 → d ≠ 18 → t.domOn d = false) ∧
        (s.bit R.PWR_CFG_MEM_RET = false → t.domOn 17 = false ∧ t.domOn 18 = false ∧ ∀ p, t.dram.byteAt p = none)) ∧
      (n ≠ 2 ∨ s.bit R.PWR_CFG_MEM_RET = true → ∀ p, t.dram.byteAt p = s.dram.byteAt p) ∧ (n = 0 → keeps DomainWords t) ∧ (n ≠ 0 → keeps NoWord t))

/-- POR, PERST_ASSERT, PERST_RELEASE, HOT_RESET, FLR and BRINGUP_STEP (R11, R12, R351, R354, R413 to R418). POR puts every
register field, window word and unit to its reset value and holds the pins at their levels (R454); the device's
identity, its boot flash and the level of PERST# stay. During PERST# a further assertion, a hot reset and an FLR
change nothing. Each of these three else ends the run, puts the class H and B fields of the LNK, SLK, ARR, DMA and
DMACH pages (PERST#: class F too) to their reset values, sets its cause, and keeps the fields of the clock and time
pages of other classes, the Tarn, the TUNE DAC, the time of day and every byte of memory (PERST#: where no channel
retrains, whose held writes it performs, and no remap runs); READY and STEP stay, but PERST# takes READY to 0, STEP to
at most 4, the device to ACTIVE and the link down. PERST_RELEASE changes its level alone. A bring-up step that waits
changes nothing; one that succeeds advances STEP by one, one that fails shows its number and its code with interrupt 1
pending. The second turns the MEM domains on; the fourth starts the grids with a frame tick, which stands as the
realign edge; the eighth leaves the switched domains as DOM_EN names them; the ninth sets READY. -/
def Obligations.ResetsAndBringup : Prop :=
  ∀ (s : State),
    (∃ t, exec .por s = .next t ∧ t.regs = State.reset.regs ∧ t.tables = State.reset.tables ∧ (∀ p, t.dram.byteAt p = none) ∧
      t.dev = s.dev ∧ t.pending = s.pending ∧ t.flash.slot0 = s.flash.slot0 ∧ t.flash.slot1 = s.flash.slot1 ∧ t.flash.bank0 = s.flash.bank0 ∧
      t.flash.bank1 = s.flash.bank1 ∧ t.pcie = { perst := s.pcie.perst } ∧ t.evq = [] ∧ t.opened = [] ∧ t.links = [] ∧ t.sward = {} ∧ t.tarn = {} ∧ t.tod = {} ∧
      (∀ x ∈ heldPins, Out.held x.1 x.2 ∈ t.out)) ∧
    (s.pcie.perst = true → exec .perstAssert s = .next s ∧ exec .hotReset s = .next s ∧ exec .flr s = .next s) ∧
    exec .perstRelease s = .next { s with pcie := { s.pcie with perst := false } } ∧
    (s.pcie.perst = false → ∀ c ∈ [Instr.perstAssert, .hotReset, .flr], ∃ t, exec c s = .next t ∧
      t.running = false ∧ (c = .perstAssert → t.fld R.ST_RST_CAUSE_PERST = 1) ∧ (c = .hotReset → t.fld R.ST_RST_CAUSE_HOT = 1) ∧
      (c = .flr → t.fld R.ST_RST_CAUSE_FLR = 1) ∧
      (∀ f : Fld, InPages (pg .arr :: pg .dma :: ((List.range 64).map lnkPg ++ (List.range 64).map slkPg ++ (List.range 32).map dmachPg)) f.key →
        (keyClass f.key = .H ∨ keyClass f.key = .B ∨ (c = .perstAssert ∧ keyClass f.key = .F)) → t.fld f = resetOf s.dev f) ∧
      (∀ f : Fld, InPages [trn0Pg, trn1Pg, trn2Pg, todPg, tunePg] f.key → keyClass f.key ∉ [RCls.H, .B, .F] → t.fld f = s.fld f) ∧
      t.tarn = s.tarn ∧ t.tune = s.tune ∧ t.tod = s.tod ∧ t.dev = s.dev ∧
      (c ≠ .perstAssert ∨ (s.dram.retraining = [] ∧ s.bit R.MAP_STAT_REMAP_BUSY = false) → ∀ p, t.dram.byteAt p = s.dram.byteAt p) ∧
      (c ≠ .perstAssert → t.pcie.up = s.pcie.up ∧ t.pcie.perst = false ∧ t.fld R.ST_STATE_READY = s.fld R.ST_STATE_READY ∧
        t.fld R.ST_STATE_STEP = s.fld R.ST_STATE_STEP ∧ ∀ d, t.domOn d = s.domOn d) ∧
      (c = .perstAssert → t.pcie.up = false ∧ t.pcie.perst = true ∧ t.fld R.ST_STATE_READY = 0 ∧ t.fld R.ST_STATE_DEV_STATE = 0 ∧
        t.fld R.ST_STATE_STEP = min 4 (s.fld R.ST_STATE_STEP))) ∧
    (∀ env, s.bringupWaits = true → exec (.bringupStep env) s = .next s) ∧
    (∀ env n, s.bringupWaits = false → n = s.fld R.ST_STATE_STEP + 1 → n ≤ 9 → ∃ t, exec (.bringupStep env) s = .next t ∧
      ((s.bringStep env n).1 = none → t.fld R.ST_STATE_STEP = n ∧ t.fld R.ST_STATE_FAIL_STEP = 0) ∧
      (∀ code, (s.bringStep env n).1 = some code → t.fld R.ST_STATE_STEP = s.fld R.ST_STATE_STEP ∧ t.fld R.ST_STATE_FAIL_STEP = n ∧
        t.fld R.ST_STATE_FAIL_CODE = code % 2 ^ 8 ∧ (t.fld (R.PG_IRQ_RAW stPg)).testBit 1 = true) ∧
      (n = 4 → (env.fail = 2 ∨ env.fail = 3 → t.fld R.ST_STATE_FAIL_CODE = env.fail) ∧ (env.fail ≠ 2 → env.fail ≠ 3 → t.domOn 2 = true ∧ t.domOn 19 = true ∧
        t.ticks = s.ticks + 1 ∧ t.tarn.syncBase = t.ticks)) ∧
      (n = 2 → s.dev.fuseCrcOk = true → t.domOn 17 = true ∧ (s.dev.code = .f → t.domOn 18 = true)) ∧
      (n = 8 → ∀ d < 20, domSwitched d = true → t.domOn d = (s.fld R.PWR_DOM_EN_EN).testBit d) ∧
      (n = 9 → t.fld R.ST_STATE_READY = 1 ∧ (t.fld (R.PG_IRQ_RAW stPg)).testBit 0 = true))

/-- SAVE (served), NVR_SAVE, NVR_SAVE_DONE, AVS_RETRY, AGING_MONITOR and BOUNDARY_SCAN (R419, R422, R423, R427, R455,
R456). SAVE sets DIRTY, and changes nothing while a save is requested or runs (R8). A save that is asked for begins
while a Well is in control and none runs: the bank that is not the newer one is erased and takes the body with the
next sequence number when the save ends, the flash's commands sent for both (log entry 166: one program command
carries all the bytes); the other bank stays. A save that ends well is counted with interrupt 0 pending, one that
fails sets WRITE_FAIL, is counted with interrupt 1 pending and leaves the banks as they are; without a save nothing
changes. A setpoint not acknowledged is sent again. With a Well in control, a need above the acknowledged level is
sent at once, up to 800 mV in steps of 5 mV; one below lowers it by 5 mV, not within 60 s of the last lowering;
without a Well nothing changes. Boundary scan disables every link, and with no run active leaves the engines and the
Basin as they are. Registers outside the NVR and EVT pages (a scan: SLK, LNK and EVT), window words but the pending
bits, memory, and the units' state but boot flash's, the Wells' and the voltage's (a scan: the links' and, in a run,
the partial sums') are unchanged. -/
def Obligations.RecordAndVoltage : Prop :=
  ∀ (s : State),
    (∀ π, s.Serves π 0x380040 → s.savePending = false → ∃ t, exec (.save π) s = .next t ∧ t.fld R.NVR_STAT_DIRTY = 1 ∧
      Frame s t (Keys [R.NVR_STAT_DIRTY]) NoWord ∧ t.units = s.units) ∧
    (∀ π, s.Serves π 0x380040 → s.savePending = true → ∃ o, exec (.save π) s = .next { s with opened := o }) ∧
    (s.bit R.NVR_STAT_DIRTY = false ∨ s.bit R.NVR_STAT_BUSY = true ∨ s.wellIn = none → exec .nvrSave s = .next s) ∧
    (s.bit R.NVR_STAT_DIRTY = true → s.bit R.NVR_STAT_BUSY = false → s.wellIn ≠ none → ∃ t, exec .nvrSave s = .next t ∧
      t.fld R.NVR_STAT_BUSY = 1 ∧ t.fld R.NVR_STAT_DIRTY = 0 ∧
      (∀ b, s.newerBank = some b → b < 2 → t.bank (1 - b) = [] ∧ t.bank b = s.bank b ∧
        t.flash.saving = some (1 - b, bankBytes ((s.bankSeq b + 1) % 2 ^ 32) s.recordBody) ∧
        t.out = .flash 0x05 0 [] :: .flash 0xD8 (bankAt (1 - b)) [] :: .flash 0x06 0 [] :: s.out) ∧
      (s.newerBank = none → t.bank 0 = [] ∧ t.bank 1 = s.bank 1 ∧ ∃ q, t.flash.saving = some (0, bankBytes q s.recordBody)) ∧
      Frame s t (InPages [nvrPg]) NoWord ∧ t.units = { s.units with flash := t.flash }) ∧
    (∀ ok, s.flash.saving = none → exec (.nvrSaveDone ok) s = .next s) ∧
    (∀ b bs, b < 2 → s.flash.saving = some (b, bs) →
      (∃ t, exec (.nvrSaveDone true) s = .next t ∧ t.bank b = bs ∧ t.bank (1 - b) = s.bank (1 - b) ∧ t.flash.saving = none ∧
        Out.flash 0x02 (bankAt b + 64) (bs.drop 64) ∈ t.out ∧ Out.flash 0x02 (bankAt b) (bs.take 64) ∈ t.out ∧
        t.fld R.NVR_STAT_BUSY = 0 ∧ t.fld R.NVR_WRITES = (s.fld R.NVR_WRITES + 1) % 2 ^ 32 ∧ (t.fld (R.PG_IRQ_RAW nvrPg)).testBit 0 = true ∧
        Frame s t (InPages [nvrPg, evtPg]) PbaWords ∧ t.units = { s.units with flash := t.flash, well := t.well }) ∧
      (∃ t, exec (.nvrSaveDone false) s = .next t ∧ t.bank 0 = s.bank 0 ∧ t.bank 1 = s.bank 1 ∧ t.flash.saving = none ∧
        t.fld R.NVR_STAT_WRITE_FAIL = 1 ∧ t.fld R.NVR_STAT_BUSY = 0 ∧ t.fld R.NVR_FAILS = (s.fld R.NVR_FAILS + 1) % 2 ^ 32 ∧
        (t.fld (R.PG_IRQ_RAW nvrPg)).testBit 1 = true ∧ Frame s t (InPages [nvrPg, evtPg]) PbaWords ∧
        t.units = { s.units with flash := t.flash, well := t.well })) ∧
    (∀ a, s.pwr.avsOpen = false → exec (.avsRetry a) s = .next s) ∧
    (∀ a, s.pwr.avsOpen = true → ∃ t, exec (.avsRetry a) s = .next t ∧ t.out = .avs s.pwr.avsSent :: s.out ∧
      t.pwr = (if a then { s.pwr with avsAcked := s.pwr.avsSent, avsOpen := false } else s.pwr) ∧
      Frame s t (Keys []) NoWord ∧ t.units = { s.units with pwr := t.pwr }) ∧
    (∀ v a, s.wellIn = none → exec (.agingMonitor v a) s = .next s) ∧
    (∀ v a, s.wellIn ≠ none → ∃ t, exec (.agingMonitor v a) s = .next t ∧ Frame s t (Keys []) NoWord ∧ t.units = { s.units with pwr := t.pwr } ∧
      (s.pwr.avsAcked ≤ max 700 (min 800 ((v + 4) / 5 * 5)) → t.pwr.avsSent = max 700 (min 800 ((v + 4) / 5 * 5)) ∧
        t.pwr.avsLowered = s.pwr.avsLowered ∧ (t.pwr.avsSent ≠ s.pwr.avsSent → t.out = .avs t.pwr.avsSent :: s.out ∧
          t.pwr.avsAcked = if a then t.pwr.avsSent else s.pwr.avsAcked)) ∧
      (max 700 (min 800 ((v + 4) / 5 * 5)) < s.pwr.avsAcked → s.pwr.avsSent = s.pwr.avsAcked →
        (s.mayLower = true → t.pwr.avsSent = s.pwr.avsAcked - 5 ∧ t.pwr.avsLowered = some s.ticks ∧ t.out = .avs (s.pwr.avsAcked - 5) :: s.out) ∧
        (s.mayLower = false → t = s))) ∧
    (∃ t, exec .boundaryScan s = .next t ∧ (∀ j < s.nLanes, t.lkstate j = lkDisabled) ∧
      (s.running = false → t.sward = s.sward ∧ t.bas = s.bas) ∧
      Frame s t (InPages (evtPg :: ((List.range 64).map lnkPg ++ (List.range 64).map slkPg))) PbaWords ∧
      t.units = { s.units with lanes := t.lanes, links := t.links, sward := t.sward, bas := t.bas })

/-- FREEZE_ALL, THAW_ALL, CHECK, CHECK_DONE, EVENT_RECORD, SPILL_COPY and EVT_RPTR_WRITE (R428 to R433, R437 to R442); the
host's ones served. FREEZE_ALL freezes every page whose domain is on, with NOW in its PG_SNAP_SEQ, and counts the
snapshot; a thaw ends every freeze. During a check a thaw, and without a whole snapshot or during another a check, is
ignored with CMD_IGN; else the check begins. It ends, where the snapshot has broken meanwhile, with CMD_IGN and no
result; else with one bit of RESULT for each identity that fails on the snapshot, interrupt 0 pending, and where one
fails with the lowest in DETAIL, a count and interrupt 1. The oldest event takes the next slot of the ring, its words
there and WPTR one on, where the slot is free; else it is dropped and counted. A spill that is due moves SPILL_HEAD
on, at most to WPTR. A write of RPTR within the unread entries takes effect and counts them consumed; any other sets
RPTR_BAD. Registers outside the pages named by the effect, window words but the pending bits and the ring slot
written, and the units' state but the snapshot's and memory's (FREEZE_ALL: what the tiles accepted before it touch
too) are unchanged. -/
def Obligations.AccountsAndEvents : Prop :=
  ∀ (s : State),
    (∀ π, s.Serves π 0x2C0040 →
      (∃ t, exec (.freezeAll π) s = .next t ∧ t.fld R.ACC_STAT_FROZEN = 1 ∧ t.fld R.ACC_SNAPS_COUNT = (s.fld R.ACC_SNAPS_COUNT + 1) % 2 ^ 32 ∧
        t.fld R.ACC_SNAP_FRAME_FRAME = s.now % 2 ^ 48 ∧ t.snap.broken = false ∧
        (∀ p ∈ s.allPages, s.domOn p.domain = true → t.fld (R.PG_CTL_FREEZE p) = 1 ∧ t.fld (R.PG_SNAP_SEQ_FRAME p) = s.now % 2 ^ 48) ∧
        (∀ j < s.nLanes, s.domOn (lnkPg j).domain = true → t.frozen (R.LNK_RX_TILES j) = s.fld (R.LNK_RX_TILES j)) ∧
        RegFrame s t (fun k => k / 64 % 4096 < 0x40 ∨ InPages [pg .arr] k ∨ MemoryUp k) PbaWords) ∧
      (s.bit R.ACC_STAT_CHECK_BUSY = true → ∃ t, exec (.thawAll π) s = .next t ∧ t.fld R.ACC_STAT_CMD_IGN = 1 ∧
        Frame s t (Keys [R.ACC_STAT_CMD_IGN]) NoWord ∧ t.units = s.units) ∧
      (s.bit R.ACC_STAT_CHECK_BUSY = false → ∃ t, exec (.thawAll π) s = .next t ∧ t.fld R.ACC_STAT_FROZEN = 0 ∧ t.snap = {} ∧
        (∀ p ∈ s.allPages, t.fld (R.PG_CTL_FREEZE p) = 0) ∧
        Frame s t (Keys (R.ACC_STAT_FROZEN :: s.allPages.map R.PG_CTL_FREEZE)) NoWord ∧ t.units = { s.units with snap := t.snap }) ∧
      (s.bit R.ACC_STAT_FROZEN = false ∨ s.bit R.ACC_STAT_CHECK_BUSY = true ∨ s.snap.broken = true → ∃ t, exec (.check π) s = .next t ∧
        t.fld R.ACC_STAT_CMD_IGN = 1 ∧ Frame s t (Keys [R.ACC_STAT_CMD_IGN]) NoWord ∧ t.units = s.units) ∧
      (s.bit R.ACC_STAT_FROZEN = true → s.bit R.ACC_STAT_CHECK_BUSY = false → s.snap.broken = false → ∃ t, exec (.check π) s = .next t ∧
        t.fld R.ACC_STAT_CHECK_BUSY = 1 ∧ Frame s t (Keys [R.ACC_STAT_CHECK_BUSY, R.ACC_CTL_CHECK]) NoWord ∧ t.units = s.units)) ∧
    (s.bit R.ACC_STAT_CHECK_BUSY = false → exec .checkDone s = .next s) ∧
    (s.bit R.ACC_STAT_CHECK_BUSY = true → s.snap.broken = true → ∃ t, exec .checkDone s = .next t ∧ t.fld R.ACC_STAT_CHECK_BUSY = 0 ∧
      t.fld R.ACC_STAT_CMD_IGN = 1 ∧ Frame s t (Keys [R.ACC_STAT_CHECK_BUSY, R.ACC_CTL_CHECK, R.ACC_STAT_CMD_IGN]) NoWord ∧ t.units = s.units) ∧
    (s.bit R.ACC_STAT_CHECK_BUSY = true → s.snap.broken = false → ∃ t, exec .checkDone s = .next t ∧ t.fld R.ACC_STAT_CHECK_BUSY = 0 ∧ t.fld R.ACC_STAT_CHECK_DONE = 1 ∧
      (t.fld (R.PG_IRQ_RAW accPg)).testBit 0 = true ∧
      (∀ k < 12, (t.fld R.ACC_RESULT_FAILED).testBit k = true ↔ ∃ i < s.identCount k, s.identHolds k i = false) ∧
      (∀ k i, k < 12 → i < s.identCount k → s.identHolds k i = false → (∀ j < i, s.identHolds k j = true) →
        (∀ l < k, ∀ j < s.identCount l, s.identHolds l j = true) → t.fld R.ACC_DETAIL_IDENT = k ∧
        t.fld R.ACC_DETAIL_INSTANCE = (if k = 11 then 0 else i) % 2 ^ 13 ∧ (t.fld (R.PG_IRQ_RAW accPg)).testBit 1 = true ∧
        t.fld R.ACC_CHECK_FAILS_COUNT = (s.fld R.ACC_CHECK_FAILS_COUNT + 1) % 2 ^ 32) ∧
      ((∀ k < 12, ∀ i < s.identCount k, s.identHolds k i = true) → t.fld R.ACC_CHECK_FAILS_COUNT = s.fld R.ACC_CHECK_FAILS_COUNT) ∧
      Frame s t (InPages [accPg, evtPg]) PbaWords ∧ t.units = s.units) ∧
    (s.evq = [] → exec .eventRecord s = .next s) ∧
    (∀ e rest, s.evq = e :: rest → s.slotFree = true → ∃ t, exec .eventRecord s = .next t ∧ t.evq = rest ∧ t.evLoss = 0 ∧
      t.fld R.EVT_GEN = (s.fld R.EVT_GEN + 1) % 2 ^ 48 ∧ t.fld R.EVT_RECORDED = (s.fld R.EVT_RECORDED + 1) % 2 ^ 48 ∧
      t.fld R.EVT_WPTR_SEQ = (s.fld R.EVT_WPTR_SEQ + 1) % 2 ^ 32 ∧
      (∀ i w, (s.entryWords e (s.fld R.EVT_WPTR_SEQ))[i]? = some w → t.tab (ringSlot (s.fld R.EVT_WPTR_SEQ) + 4 * i) = w % 2 ^ 32) ∧
      Frame s t (InPages [evtPg]) (fun o => PbaWords o ∨ ringSlot (s.fld R.EVT_WPTR_SEQ) ≤ o ∧ o < ringSlot (s.fld R.EVT_WPTR_SEQ) + 32) ∧
      t.units = s.units) ∧
    (∀ e rest, s.evq = e :: rest → s.slotFree = false → ∃ t, exec .eventRecord s = .next t ∧ t.evq = rest ∧ t.fld R.EVT_STAT_DROPPED = 1 ∧
      t.fld R.EVT_DROPPED = (s.fld R.EVT_DROPPED + 1) % 2 ^ 48 ∧ t.evLoss = min 255 (s.evLoss + 1) ∧
      Frame s t (InPages [evtPg]) PbaWords ∧ t.units = s.units) ∧
    (∀ n, n = (s.fld R.EVT_WPTR_SEQ + 2 ^ 32 - s.fld R.EVT_SPILL_HEAD_SEQ) % 2 ^ 32 →
      (s.wellIn = none ∨ s.bit R.EVT_CFG_SPILL_EN = false ∨ n < max 256 (s.fld R.EVT_SPILL_THR_ENTRIES) → exec .spillCopy s = .next s) ∧
      (s.wellIn ≠ none → s.bit R.EVT_CFG_SPILL_EN = true → max 256 (s.fld R.EVT_SPILL_THR_ENTRIES) ≤ n → s.fld R.EVT_SPILL_HEAD_SEQ < 2 ^ 32 →
        s.fld R.EVT_WPTR_SEQ < 2 ^ 32 → ∃ t, exec .spillCopy s = .next t ∧
        (∃ k ≤ n, t.fld R.EVT_SPILL_HEAD_SEQ = (s.fld R.EVT_SPILL_HEAD_SEQ + k) % 2 ^ 32) ∧
        RegFrame s t MemoryUp PbaWords ∧ t.units = { s.units with dram := t.dram })) ∧
    (∀ π v r k, s.Serves π 0x300050 → r = s.fld R.EVT_RPTR_SEQ → k = (v % 2 ^ 32 + 2 ^ 32 - r) % 2 ^ 32 →
      (k ≤ (s.fld R.EVT_WPTR_SEQ + 2 ^ 32 - r) % 2 ^ 32 → ∃ t, exec (.evtRptrWrite π v) s = .next t ∧ t.fld R.EVT_RPTR_SEQ = v % 2 ^ 32 ∧
        t.fld R.EVT_CONSUMED = (s.fld R.EVT_CONSUMED + k) % 2 ^ 48 ∧ Frame s t (InPages [evtPg]) PbaWords ∧ t.units = s.units) ∧
      ((s.fld R.EVT_WPTR_SEQ + 2 ^ 32 - r) % 2 ^ 32 < k → ∃ t, exec (.evtRptrWrite π v) s = .next t ∧ t.fld R.EVT_STAT_RPTR_BAD = 1 ∧
        Frame s t (Keys [R.EVT_STAT_RPTR_BAD]) NoWord ∧ t.units = s.units))

/-- The check code of a word (R291, R292). For every word of 32 bytes, the polynomial of its 36 symbols is 0 at the four
roots of the generator: the syndromes of the word with its check bytes are 0. A word stored without damage and without
poison is read clean, and delivers what was written; with any damage to one symbol, a check byte included, it is read
as corrected at that symbol and delivers what was written. That symbol 0 is the highest coefficient is the model's
choice (log entry 13). -/
def Obligations.CheckBytesGiveCodeWord : Prop :=
  ∀ w : List Byte, w.length = 32 →
    syndromes (w ++ checkBytes w) = [0, 0, 0, 0] ∧
    WordSt.outcome ⟨false, []⟩ w = .clean ∧ WordSt.delivered ⟨false, []⟩ w = w ∧
    ∀ i p : Nat, i < 36 → 0 < p → p < 256 →
      WordSt.outcome ⟨false, [⟨i, p⟩]⟩ w = .corrected i ∧ WordSt.delivered ⟨false, [⟨i, p⟩]⟩ w = w

/-- The PAM4 symbols of a lane (R48, R49). The pairs 00, 01, 11 and 10 are the levels 0 to 3, that is −3, −1, +1 and +3.
Without precoding a transmitter sends the level numbers; with it, each symbol is the level number less the symbol
before, modulo 4. A receiver whose PRECODE_ON says what its far transmitter does, and that starts from the same
symbol, recovers the bits. -/
def Obligations.PamSymbols : Prop :=
  levelOf (grayLevel false false) = -3 ∧ levelOf (grayLevel false true) = -1 ∧ levelOf (grayLevel true true) = 1 ∧
  levelOf (grayLevel true false) = 3 ∧
  (∀ (s : State) (n y : Nat) (bits : List (Bool × Bool)), (s.lane n).txPrecode = false →
    s.txSymbols n y bits = bits.map (fun b => grayLevel b.1 b.2)) ∧
  (∀ (s : State) (n y : Nat) (bits : List (Bool × Bool)), (s.lane n).txPrecode = true →
    (s.txSymbols n y bits).length = bits.length ∧
    ∀ i < bits.length, (s.txSymbols n y bits).getD i 0 =
      (grayLevel (bits.getD i (false, false)).1 (bits.getD i (false, false)).2 + 4
        - (if i = 0 then y else (s.txSymbols n y bits).getD (i - 1) 0) % 4) % 4) ∧
  (∀ (s t : State) (n m y : Nat) (bits : List (Bool × Bool)), (s.lane n).txPrecode = t.bit (R.SLK_STAT_PRECODE_ON m) →
    t.rxBits m y (s.txSymbols n y bits) = bits)

/-- REGISTER_WRITE, HI_WRITE_COMMIT and BLOCK_SOFT_RESET where another statement leaves them to this one (R8, R14, R222,
R284, R382, R388), served. A write of a command register acts as the command, after which the page closes; one at a
region register is REGION_WRITE of its value; the _LO write of BAS.RPTR is staged, and the _HI write is RPTR_WRITE of
both halves, which empties the staging register. A write of a plain register of TRN0 or TRN1 gives each field its
access code's value, then the references are judged anew (the model's afterWrite). A soft reset of an ENG page is
ENGINE_RESET; one of BAS, DMA or DMACH stops that block and returns the class B fields of the page to their reset
values, and so does one of a Well or of the mailbox but for WELL.STAT.STATE, MBX.STAT.WELL and NO_WELL; the mailbox
command in progress is gone. -/
def Obligations.CommandWrites : Prop :=
  (∀ (π : Path) (p : Page) (off v be : Nat) (ep : Bool) (b : Nat) (r : RegDesc) (k : State → State) (s : State),
    s.Serves π off → off % 4 = 0 → off < 2 ^ 26 → pageAt off = some p → be % 16 = 15 → (ep = false ∨ π ≠ .pcie) →
    headerEnd ≤ off - p.base → ¬ (p.kind = .map ∧ 0x80 ≤ off - p.base ∧ off - p.base < 0x100) →
    regRow p.kind (off - p.base) = some (b, r) → r.pair = false → s.shadowHeld p (b + r.off) = false →
    s.cfgHeld p (b + r.off) = false → command π p (b + r.off) (v % m32) = some k →
    exec (.registerWrite π off v be ep) s = .next ((k s).closeKey π p)) ∧
  (∀ (π : Path) (off v be : Nat) (ep : Bool) (s : State),
    s.Serves π off → off % 4 = 0 → 0x1C8080 ≤ off → off < 0x1C8100 → be % 16 = 15 → (ep = false ∨ π ≠ .pcie) →
    exec (.registerWrite π off v be ep) s = exec (.regionWrite π off (v % m32)) s) ∧
  (∀ (π : Path) (v : Nat) (s : State), s.Serves π 0x180090 → ∃ t, exec (.loWriteStage π 0x180090 v) s = .next t ∧
    t.stagedLo π 0x180090 = some (v % m32) ∧ t = { s with staged := t.staged, opened := t.opened }) ∧
  (∀ (π : Path) (v lo : Nat) (s : State), s.Serves π 0x180094 → s.stagedLo π 0x180090 = some lo →
    exec (.hiWriteCommit π 0x180094 v) s = exec (.rptrWrite π (lo + m32 * (v % m32))) (s.unstage π 0x180090)) ∧
  (∀ (π : Path) (p : Page) (off v be : Nat) (ep : Bool) (b : Nat) (r : RegDesc) (s : State),
    s.Serves π off → off % 4 = 0 → off < 2 ^ 26 → pageAt off = some p → be % 16 = 15 → (ep = false ∨ π ≠ .pcie) →
    p.kind = .trn0 ∨ p.kind = .trn1 → headerEnd ≤ off - p.base → regRow p.kind (off - p.base) = some (b, r) → r.pair = false →
    b + r.off = off - p.base → command π p (off - p.base) (v % m32) = none → (r.fields.map (·.lo)).Nodup →
    (∀ x ∈ r.fields, x.lo < 64) →
    ∃ u, exec (.registerWrite π off v be ep) s = .next ((afterWrite p (off - p.base) s u).closeKey π p) ∧
      (∀ x ∈ r.fields, ∀ i < x.w, (u.fld ⟨off, x.lo, x.w⟩).testBit i =
        (let old := (s.fld ⟨off, x.lo, x.w⟩).testBit i
         let new := (v % m32).testBit (x.lo + i)
         match x.acc with
         | .rw => new
         | .rwl => if s.rwlOpen π p then new else old
         | .w1c => old && !new
         | .w1s => old || new
         | .ro | .wo | .sc | .rc => old)) ∧
      Frame s u (fun k => ∃ x ∈ r.fields, k = (⟨off, x.lo, x.w⟩ : Fld).key) NoWord ∧ u = { s with regs := u.regs }) ∧
  (∀ (π : Path) (n : Nat) (s : State), n < PageKind.eng.countF →
    exec (.blockSoftReset π ⟨.eng, n⟩) s = exec (.engineReset π n) s) ∧
  (∀ (π : Path) (p : Page) (s : State), p.inst < p.kind.countF → s.Serves π (p.base + 0x08) →
    (p.kind ∈ [PageKind.bas, .dma, .dmach, .well, .mbx] → ∃ t, exec (.blockSoftReset π p) s = .next t ∧
      (∀ f : Fld, keyPage f.key = some p → keyClass f.key = .B → f.key ≠ (R.WELL_STAT_STATE p.inst).key →
        f.key ≠ R.MBX_STAT_WELL.key → f.key ≠ R.MBX_STAT_NO_WELL.key → t.fld f = resetOf s.dev f) ∧
      (p.kind = .mbx → t.well = { s.well with op := none, saved := none, tested := none } ∧
        t.fld R.MBX_STAT_WELL = s.fld R.MBX_STAT_WELL % 2 ^ R.MBX_STAT_WELL.w ∧
        t.fld R.MBX_STAT_NO_WELL = s.fld R.MBX_STAT_NO_WELL % 2 ^ R.MBX_STAT_NO_WELL.w) ∧
      (p.kind = .well → t.fld (R.WELL_STAT_STATE p.inst) =
        s.fld (R.WELL_STAT_STATE p.inst) % 2 ^ (R.WELL_STAT_STATE p.inst).w)))
end

