-- ==== Sys2Proof/Laws/SMap.lean ====
section
/-! SUPPORT. Sparse maps: reading after writing, and the canonical form. -/

namespace Sys2Proof.Machine

variable {α : Type}

/-- Reading from two maps joined: the second is read where the first has no entry. -/
theorem SMap.get_append (d : α) (m n : SMap α) (k : Nat) :
    SMap.get d (m ++ n) k = SMap.get (SMap.get d n k) m k := by
  induction m with
  | nil => rfl
  | cons e t ih =>
    obtain ⟨i, v⟩ := e
    simp only [List.cons_append, SMap.get]
    split
    · rfl
    · exact ih

/-- Reading from the entries that a test keeps, at a key whose entries it keeps. -/
theorem SMap.get_filter_of (d : α) (m : SMap α) (k : Nat) (f : Nat × α → Bool) (h : ∀ v, f (k, v) = true) :
    SMap.get d (m.filter f) k = SMap.get d m k := by
  induction m with
  | nil => rfl
  | cons e t ih =>
    obtain ⟨i, v⟩ := e
    rw [List.filter_cons]
    by_cases hi : i = k
    · subst hi; simp [h v, SMap.get]
    · split <;> simp [SMap.get, hi, ih]

/-- Reading from the entries that a test keeps, at a key whose entries it drops. -/
theorem SMap.get_filter_not (d : α) (m : SMap α) (k : Nat) (f : Nat × α → Bool) (h : ∀ v, f (k, v) = false) :
    SMap.get d (m.filter f) k = d := by
  induction m with
  | nil => rfl
  | cons e t ih =>
    obtain ⟨i, v⟩ := e
    rw [List.filter_cons]
    by_cases hi : i = k
    · subst hi; simp [h v, ih]
    · split <;> simp [SMap.get, hi, ih]

/-- A read of the key just written. -/
theorem SMap.get_put_same [DecidableEq α] (d : α) (m : SMap α) (k : Nat) (v : α) : SMap.get d (m.put d k v) k = v := by
  unfold SMap.put
  rw [SMap.get_append, SMap.get_append, SMap.get_filter_not _ _ _ _ (by simp), SMap.get_filter_not _ _ _ _ (by simp)]
  by_cases h : v = d <;> simp [h, SMap.get]

/-- A read of another key, whatever value unlisted keys are read as. -/
theorem SMap.get_put_ne [DecidableEq α] (d d' : α) (m : SMap α) {j k : Nat} (v : α) (h : j ≠ k) :
    SMap.get d' (m.put d k v) j = SMap.get d' m j := by
  unfold SMap.put
  have hm : SMap.get (SMap.get d' (m.filter (fun e => decide (k < e.1))) j) (if v = d then ([] : SMap α) else [(k, v)]) j
      = SMap.get d' (m.filter (fun e => decide (k < e.1))) j := by
    by_cases hv : v = d
    · simp [hv, SMap.get]
    · simp [hv, SMap.get, Ne.symm h]
  rw [SMap.get_append, SMap.get_append, hm]
  rcases Nat.lt_or_gt_of_ne h with hlt | hgt
  · rw [SMap.get_filter_of _ _ _ _ (by simp; omega), SMap.get_filter_not _ _ _ _ (by simp; omega)]
  · rw [SMap.get_filter_not _ _ _ _ (by simp; omega), SMap.get_filter_of _ _ _ _ (by simp; omega)]

/-- The tail of a map in canonical form. -/
theorem SMap.sorted_tail {e : Nat × α} {t : SMap α} (h : SMap.sorted (e :: t) = true) : SMap.sorted t = true := by
  cases t with
  | nil => rfl
  | cons b t => simp only [SMap.sorted, Bool.and_eq_true] at h; exact h.2

/-- The first key of a map in canonical form lies below the others. -/
theorem SMap.sorted_head {e x : Nat × α} {t : SMap α} (h : SMap.sorted (e :: t) = true) (hx : x ∈ t) : e.1 < x.1 := by
  induction t generalizing e with
  | nil => cases hx
  | cons c t ih =>
    simp only [SMap.sorted, Bool.and_eq_true, decide_eq_true_eq] at h
    cases hx with
    | head => exact h.1
    | tail _ hx => exact Nat.lt_trans h.1 (ih h.2 hx)

/-- An entry put before a map whose keys lie above it. -/
theorem SMap.sorted_cons {e : Nat × α} {t : SMap α} (h : SMap.sorted t = true) (he : ∀ x ∈ t, e.1 < x.1) :
    SMap.sorted (e :: t) = true := by
  cases t with
  | nil => rfl
  | cons b t => simp only [SMap.sorted, Bool.and_eq_true, decide_eq_true_eq]; exact ⟨he b (by simp), h⟩

/-- Dropping entries keeps the canonical form. -/
theorem SMap.sorted_filter {m : SMap α} (f : Nat × α → Bool) (h : SMap.sorted m = true) : SMap.sorted (m.filter f) = true := by
  induction m with
  | nil => rfl
  | cons e t ih =>
    have ht := ih (SMap.sorted_tail h)
    rw [List.filter_cons]
    split
    · exact SMap.sorted_cons ht (fun x hx => SMap.sorted_head h (List.mem_filter.mp hx).1)
    · exact ht

/-- Two maps in canonical form joined, the first below the second. -/
theorem SMap.sorted_append {m n : SMap α} (hm : SMap.sorted m = true) (hn : SMap.sorted n = true)
    (h : ∀ a ∈ m, ∀ b ∈ n, a.1 < b.1) : SMap.sorted (m ++ n) = true := by
  induction m with
  | nil => exact hn
  | cons a t ih =>
    refine SMap.sorted_cons (ih (SMap.sorted_tail hm) (fun x hx => h x (by simp [hx]))) (fun b hb => ?_)
    rcases List.mem_append.mp hb with hb | hb
    · exact SMap.sorted_head hm hb
    · exact h a (by simp) b hb

/-- A write keeps the canonical form. -/
theorem SMap.sorted_put [DecidableEq α] (d : α) {m : SMap α} (k : Nat) (v : α) (h : SMap.sorted m = true) :
    SMap.sorted (m.put d k v) = true := by
  unfold SMap.put
  have hmid : SMap.sorted (if v = d then ([] : SMap α) else [(k, v)]) = true := by split <;> rfl
  have hk : ∀ x ∈ (if v = d then ([] : SMap α) else [(k, v)]), x.1 = k := by
    intro x hx; split at hx
    · cases hx
    · simp only [List.mem_singleton] at hx; rw [hx]
  refine SMap.sorted_append (SMap.sorted_append (SMap.sorted_filter _ h) hmid ?_) (SMap.sorted_filter _ h) ?_
  · intro a ha b hb
    have h1 := (List.mem_filter.mp ha).2
    simp only [decide_eq_true_eq] at h1
    rw [hk b hb]; exact h1
  · intro a ha b hb
    have h1 := (List.mem_filter.mp hb).2
    simp only [decide_eq_true_eq] at h1
    rcases List.mem_append.mp ha with ha | ha
    · have h2 := (List.mem_filter.mp ha).2
      simp only [decide_eq_true_eq] at h2
      omega
    · rw [hk a ha]; exact h1

end Sys2Proof.Machine
end

