-- ==== Sys2Proof/Laws/State.lean ====
section
/-! SUPPORT. One lemma per field of State and update: what an update leaves as it was. -/

namespace Sys2Proof.Machine

/-! ### State.setFld -/

@[simp] theorem State.setFld_dev (s : State) (f : Fld) (v : Nat) : (s.setFld f v).dev = s.dev := rfl
@[simp] theorem State.setFld_pending (s : State) (f : Fld) (v : Nat) : (s.setFld f v).pending = s.pending := rfl
@[simp] theorem State.setFld_latch (s : State) (f : Fld) (v : Nat) : (s.setFld f v).latch = s.latch := rfl
@[simp] theorem State.setFld_staged (s : State) (f : Fld) (v : Nat) : (s.setFld f v).staged = s.staged := rfl
@[simp] theorem State.setFld_opened (s : State) (f : Fld) (v : Nat) : (s.setFld f v).opened = s.opened := rfl
@[simp] theorem State.setFld_exts (s : State) (f : Fld) (v : Nat) : (s.setFld f v).exts = s.exts := rfl
@[simp] theorem State.setFld_snap (s : State) (f : Fld) (v : Nat) : (s.setFld f v).snap = s.snap := rfl
@[simp] theorem State.setFld_tables (s : State) (f : Fld) (v : Nat) : (s.setFld f v).tables = s.tables := rfl
@[simp] theorem State.setFld_tabPoison (s : State) (f : Fld) (v : Nat) : (s.setFld f v).tabPoison = s.tabPoison := rfl
@[simp] theorem State.setFld_actives (s : State) (f : Fld) (v : Nat) : (s.setFld f v).actives = s.actives := rfl
@[simp] theorem State.setFld_cfgs (s : State) (f : Fld) (v : Nat) : (s.setFld f v).cfgs = s.cfgs := rfl
@[simp] theorem State.setFld_evq (s : State) (f : Fld) (v : Nat) : (s.setFld f v).evq = s.evq := rfl
@[simp] theorem State.setFld_evLoss (s : State) (f : Fld) (v : Nat) : (s.setFld f v).evLoss = s.evLoss := rfl
@[simp] theorem State.setFld_out (s : State) (f : Fld) (v : Nat) : (s.setFld f v).out = s.out := rfl
@[simp] theorem State.setFld_freeCtr (s : State) (f : Fld) (v : Nat) : (s.setFld f v).freeCtr = s.freeCtr := rfl
@[simp] theorem State.setFld_ticks (s : State) (f : Fld) (v : Nat) : (s.setFld f v).ticks = s.ticks := rfl
@[simp] theorem State.setFld_lanes (s : State) (f : Fld) (v : Nat) : (s.setFld f v).lanes = s.lanes := rfl
@[simp] theorem State.setFld_links (s : State) (f : Fld) (v : Nat) : (s.setFld f v).links = s.links := rfl
@[simp] theorem State.setFld_arr (s : State) (f : Fld) (v : Nat) : (s.setFld f v).arr = s.arr := rfl
@[simp] theorem State.setFld_dly (s : State) (f : Fld) (v : Nat) : (s.setFld f v).dly = s.dly := rfl
@[simp] theorem State.setFld_chn (s : State) (f : Fld) (v : Nat) : (s.setFld f v).chn = s.chn := rfl
@[simp] theorem State.setFld_dram (s : State) (f : Fld) (v : Nat) : (s.setFld f v).dram = s.dram := rfl
@[simp] theorem State.setFld_mere (s : State) (f : Fld) (v : Nat) : (s.setFld f v).mere = s.mere := rfl
@[simp] theorem State.setFld_sward (s : State) (f : Fld) (v : Nat) : (s.setFld f v).sward = s.sward := rfl
@[simp] theorem State.setFld_bas (s : State) (f : Fld) (v : Nat) : (s.setFld f v).bas = s.bas := rfl
@[simp] theorem State.setFld_beam (s : State) (f : Fld) (v : Nat) : (s.setFld f v).beam = s.beam := rfl
@[simp] theorem State.setFld_gsvs (s : State) (f : Fld) (v : Nat) : (s.setFld f v).gsvs = s.gsvs := rfl
@[simp] theorem State.setFld_arms (s : State) (f : Fld) (v : Nat) : (s.setFld f v).arms = s.arms := rfl
@[simp] theorem State.setFld_pcie (s : State) (f : Fld) (v : Nat) : (s.setFld f v).pcie = s.pcie := rfl
@[simp] theorem State.setFld_tarn (s : State) (f : Fld) (v : Nat) : (s.setFld f v).tarn = s.tarn := rfl
@[simp] theorem State.setFld_tod (s : State) (f : Fld) (v : Nat) : (s.setFld f v).tod = s.tod := rfl
@[simp] theorem State.setFld_tune (s : State) (f : Fld) (v : Nat) : (s.setFld f v).tune = s.tune := rfl
@[simp] theorem State.setFld_well (s : State) (f : Fld) (v : Nat) : (s.setFld f v).well = s.well := rfl
@[simp] theorem State.setFld_flash (s : State) (f : Fld) (v : Nat) : (s.setFld f v).flash = s.flash := rfl
@[simp] theorem State.setFld_pwr (s : State) (f : Fld) (v : Nat) : (s.setFld f v).pwr = s.pwr := rfl
@[simp] theorem State.setFld_dma (s : State) (f : Fld) (v : Nat) : (s.setFld f v).dma = s.dma := rfl
@[simp] theorem State.setFld_mx (s : State) (f : Fld) (v : Nat) : (s.setFld f v).mx = s.mx := rfl
@[simp] theorem State.setFld_thermtrip (s : State) (f : Fld) (v : Nat) : (s.setFld f v).thermtrip = s.thermtrip := rfl
@[simp] theorem State.setFld_tab (s : State) (f : Fld) (v : Nat) (o : Nat) : (s.setFld f v).tab o = s.tab o := rfl

/-! ### State.setBit -/

@[simp] theorem State.setBit_dev (s : State) (f : Fld) (b : Bool) : (s.setBit f b).dev = s.dev := rfl
@[simp] theorem State.setBit_pending (s : State) (f : Fld) (b : Bool) : (s.setBit f b).pending = s.pending := rfl
@[simp] theorem State.setBit_latch (s : State) (f : Fld) (b : Bool) : (s.setBit f b).latch = s.latch := rfl
@[simp] theorem State.setBit_staged (s : State) (f : Fld) (b : Bool) : (s.setBit f b).staged = s.staged := rfl
@[simp] theorem State.setBit_opened (s : State) (f : Fld) (b : Bool) : (s.setBit f b).opened = s.opened := rfl
@[simp] theorem State.setBit_exts (s : State) (f : Fld) (b : Bool) : (s.setBit f b).exts = s.exts := rfl
@[simp] theorem State.setBit_snap (s : State) (f : Fld) (b : Bool) : (s.setBit f b).snap = s.snap := rfl
@[simp] theorem State.setBit_tables (s : State) (f : Fld) (b : Bool) : (s.setBit f b).tables = s.tables := rfl
@[simp] theorem State.setBit_tabPoison (s : State) (f : Fld) (b : Bool) : (s.setBit f b).tabPoison = s.tabPoison := rfl
@[simp] theorem State.setBit_actives (s : State) (f : Fld) (b : Bool) : (s.setBit f b).actives = s.actives := rfl
@[simp] theorem State.setBit_cfgs (s : State) (f : Fld) (b : Bool) : (s.setBit f b).cfgs = s.cfgs := rfl
@[simp] theorem State.setBit_evq (s : State) (f : Fld) (b : Bool) : (s.setBit f b).evq = s.evq := rfl
@[simp] theorem State.setBit_evLoss (s : State) (f : Fld) (b : Bool) : (s.setBit f b).evLoss = s.evLoss := rfl
@[simp] theorem State.setBit_out (s : State) (f : Fld) (b : Bool) : (s.setBit f b).out = s.out := rfl
@[simp] theorem State.setBit_freeCtr (s : State) (f : Fld) (b : Bool) : (s.setBit f b).freeCtr = s.freeCtr := rfl
@[simp] theorem State.setBit_ticks (s : State) (f : Fld) (b : Bool) : (s.setBit f b).ticks = s.ticks := rfl
@[simp] theorem State.setBit_lanes (s : State) (f : Fld) (b : Bool) : (s.setBit f b).lanes = s.lanes := rfl
@[simp] theorem State.setBit_links (s : State) (f : Fld) (b : Bool) : (s.setBit f b).links = s.links := rfl
@[simp] theorem State.setBit_arr (s : State) (f : Fld) (b : Bool) : (s.setBit f b).arr = s.arr := rfl
@[simp] theorem State.setBit_dly (s : State) (f : Fld) (b : Bool) : (s.setBit f b).dly = s.dly := rfl
@[simp] theorem State.setBit_chn (s : State) (f : Fld) (b : Bool) : (s.setBit f b).chn = s.chn := rfl
@[simp] theorem State.setBit_dram (s : State) (f : Fld) (b : Bool) : (s.setBit f b).dram = s.dram := rfl
@[simp] theorem State.setBit_mere (s : State) (f : Fld) (b : Bool) : (s.setBit f b).mere = s.mere := rfl
@[simp] theorem State.setBit_sward (s : State) (f : Fld) (b : Bool) : (s.setBit f b).sward = s.sward := rfl
@[simp] theorem State.setBit_bas (s : State) (f : Fld) (b : Bool) : (s.setBit f b).bas = s.bas := rfl
@[simp] theorem State.setBit_beam (s : State) (f : Fld) (b : Bool) : (s.setBit f b).beam = s.beam := rfl
@[simp] theorem State.setBit_gsvs (s : State) (f : Fld) (b : Bool) : (s.setBit f b).gsvs = s.gsvs := rfl
@[simp] theorem State.setBit_arms (s : State) (f : Fld) (b : Bool) : (s.setBit f b).arms = s.arms := rfl
@[simp] theorem State.setBit_pcie (s : State) (f : Fld) (b : Bool) : (s.setBit f b).pcie = s.pcie := rfl
@[simp] theorem State.setBit_tarn (s : State) (f : Fld) (b : Bool) : (s.setBit f b).tarn = s.tarn := rfl
@[simp] theorem State.setBit_tod (s : State) (f : Fld) (b : Bool) : (s.setBit f b).tod = s.tod := rfl
@[simp] theorem State.setBit_tune (s : State) (f : Fld) (b : Bool) : (s.setBit f b).tune = s.tune := rfl
@[simp] theorem State.setBit_well (s : State) (f : Fld) (b : Bool) : (s.setBit f b).well = s.well := rfl
@[simp] theorem State.setBit_flash (s : State) (f : Fld) (b : Bool) : (s.setBit f b).flash = s.flash := rfl
@[simp] theorem State.setBit_pwr (s : State) (f : Fld) (b : Bool) : (s.setBit f b).pwr = s.pwr := rfl
@[simp] theorem State.setBit_dma (s : State) (f : Fld) (b : Bool) : (s.setBit f b).dma = s.dma := rfl
@[simp] theorem State.setBit_mx (s : State) (f : Fld) (b : Bool) : (s.setBit f b).mx = s.mx := rfl
@[simp] theorem State.setBit_thermtrip (s : State) (f : Fld) (b : Bool) : (s.setBit f b).thermtrip = s.thermtrip := rfl
@[simp] theorem State.setBit_tab (s : State) (f : Fld) (b : Bool) (o : Nat) : (s.setBit f b).tab o = s.tab o := rfl

/-! ### State.addFld -/

@[simp] theorem State.addFld_dev (s : State) (f : Fld) (n : Nat) : (s.addFld f n).dev = s.dev := rfl
@[simp] theorem State.addFld_pending (s : State) (f : Fld) (n : Nat) : (s.addFld f n).pending = s.pending := rfl
@[simp] theorem State.addFld_latch (s : State) (f : Fld) (n : Nat) : (s.addFld f n).latch = s.latch := rfl
@[simp] theorem State.addFld_staged (s : State) (f : Fld) (n : Nat) : (s.addFld f n).staged = s.staged := rfl
@[simp] theorem State.addFld_opened (s : State) (f : Fld) (n : Nat) : (s.addFld f n).opened = s.opened := rfl
@[simp] theorem State.addFld_exts (s : State) (f : Fld) (n : Nat) : (s.addFld f n).exts = s.exts := rfl
@[simp] theorem State.addFld_snap (s : State) (f : Fld) (n : Nat) : (s.addFld f n).snap = s.snap := rfl
@[simp] theorem State.addFld_tables (s : State) (f : Fld) (n : Nat) : (s.addFld f n).tables = s.tables := rfl
@[simp] theorem State.addFld_tabPoison (s : State) (f : Fld) (n : Nat) : (s.addFld f n).tabPoison = s.tabPoison := rfl
@[simp] theorem State.addFld_actives (s : State) (f : Fld) (n : Nat) : (s.addFld f n).actives = s.actives := rfl
@[simp] theorem State.addFld_cfgs (s : State) (f : Fld) (n : Nat) : (s.addFld f n).cfgs = s.cfgs := rfl
@[simp] theorem State.addFld_evq (s : State) (f : Fld) (n : Nat) : (s.addFld f n).evq = s.evq := rfl
@[simp] theorem State.addFld_evLoss (s : State) (f : Fld) (n : Nat) : (s.addFld f n).evLoss = s.evLoss := rfl
@[simp] theorem State.addFld_out (s : State) (f : Fld) (n : Nat) : (s.addFld f n).out = s.out := rfl
@[simp] theorem State.addFld_freeCtr (s : State) (f : Fld) (n : Nat) : (s.addFld f n).freeCtr = s.freeCtr := rfl
@[simp] theorem State.addFld_ticks (s : State) (f : Fld) (n : Nat) : (s.addFld f n).ticks = s.ticks := rfl
@[simp] theorem State.addFld_lanes (s : State) (f : Fld) (n : Nat) : (s.addFld f n).lanes = s.lanes := rfl
@[simp] theorem State.addFld_links (s : State) (f : Fld) (n : Nat) : (s.addFld f n).links = s.links := rfl
@[simp] theorem State.addFld_arr (s : State) (f : Fld) (n : Nat) : (s.addFld f n).arr = s.arr := rfl
@[simp] theorem State.addFld_dly (s : State) (f : Fld) (n : Nat) : (s.addFld f n).dly = s.dly := rfl
@[simp] theorem State.addFld_chn (s : State) (f : Fld) (n : Nat) : (s.addFld f n).chn = s.chn := rfl
@[simp] theorem State.addFld_dram (s : State) (f : Fld) (n : Nat) : (s.addFld f n).dram = s.dram := rfl
@[simp] theorem State.addFld_mere (s : State) (f : Fld) (n : Nat) : (s.addFld f n).mere = s.mere := rfl
@[simp] theorem State.addFld_sward (s : State) (f : Fld) (n : Nat) : (s.addFld f n).sward = s.sward := rfl
@[simp] theorem State.addFld_bas (s : State) (f : Fld) (n : Nat) : (s.addFld f n).bas = s.bas := rfl
@[simp] theorem State.addFld_beam (s : State) (f : Fld) (n : Nat) : (s.addFld f n).beam = s.beam := rfl
@[simp] theorem State.addFld_gsvs (s : State) (f : Fld) (n : Nat) : (s.addFld f n).gsvs = s.gsvs := rfl
@[simp] theorem State.addFld_arms (s : State) (f : Fld) (n : Nat) : (s.addFld f n).arms = s.arms := rfl
@[simp] theorem State.addFld_pcie (s : State) (f : Fld) (n : Nat) : (s.addFld f n).pcie = s.pcie := rfl
@[simp] theorem State.addFld_tarn (s : State) (f : Fld) (n : Nat) : (s.addFld f n).tarn = s.tarn := rfl
@[simp] theorem State.addFld_tod (s : State) (f : Fld) (n : Nat) : (s.addFld f n).tod = s.tod := rfl
@[simp] theorem State.addFld_tune (s : State) (f : Fld) (n : Nat) : (s.addFld f n).tune = s.tune := rfl
@[simp] theorem State.addFld_well (s : State) (f : Fld) (n : Nat) : (s.addFld f n).well = s.well := rfl
@[simp] theorem State.addFld_flash (s : State) (f : Fld) (n : Nat) : (s.addFld f n).flash = s.flash := rfl
@[simp] theorem State.addFld_pwr (s : State) (f : Fld) (n : Nat) : (s.addFld f n).pwr = s.pwr := rfl
@[simp] theorem State.addFld_dma (s : State) (f : Fld) (n : Nat) : (s.addFld f n).dma = s.dma := rfl
@[simp] theorem State.addFld_mx (s : State) (f : Fld) (n : Nat) : (s.addFld f n).mx = s.mx := rfl
@[simp] theorem State.addFld_thermtrip (s : State) (f : Fld) (n : Nat) : (s.addFld f n).thermtrip = s.thermtrip := rfl
@[simp] theorem State.addFld_tab (s : State) (f : Fld) (n : Nat) (o : Nat) : (s.addFld f n).tab o = s.tab o := rfl

/-! ### State.subFld -/

@[simp] theorem State.subFld_dev (s : State) (f : Fld) (n : Nat) : (s.subFld f n).dev = s.dev := rfl
@[simp] theorem State.subFld_pending (s : State) (f : Fld) (n : Nat) : (s.subFld f n).pending = s.pending := rfl
@[simp] theorem State.subFld_latch (s : State) (f : Fld) (n : Nat) : (s.subFld f n).latch = s.latch := rfl
@[simp] theorem State.subFld_staged (s : State) (f : Fld) (n : Nat) : (s.subFld f n).staged = s.staged := rfl
@[simp] theorem State.subFld_opened (s : State) (f : Fld) (n : Nat) : (s.subFld f n).opened = s.opened := rfl
@[simp] theorem State.subFld_exts (s : State) (f : Fld) (n : Nat) : (s.subFld f n).exts = s.exts := rfl
@[simp] theorem State.subFld_snap (s : State) (f : Fld) (n : Nat) : (s.subFld f n).snap = s.snap := rfl
@[simp] theorem State.subFld_tables (s : State) (f : Fld) (n : Nat) : (s.subFld f n).tables = s.tables := rfl
@[simp] theorem State.subFld_tabPoison (s : State) (f : Fld) (n : Nat) : (s.subFld f n).tabPoison = s.tabPoison := rfl
@[simp] theorem State.subFld_actives (s : State) (f : Fld) (n : Nat) : (s.subFld f n).actives = s.actives := rfl
@[simp] theorem State.subFld_cfgs (s : State) (f : Fld) (n : Nat) : (s.subFld f n).cfgs = s.cfgs := rfl
@[simp] theorem State.subFld_evq (s : State) (f : Fld) (n : Nat) : (s.subFld f n).evq = s.evq := rfl
@[simp] theorem State.subFld_evLoss (s : State) (f : Fld) (n : Nat) : (s.subFld f n).evLoss = s.evLoss := rfl
@[simp] theorem State.subFld_out (s : State) (f : Fld) (n : Nat) : (s.subFld f n).out = s.out := rfl
@[simp] theorem State.subFld_freeCtr (s : State) (f : Fld) (n : Nat) : (s.subFld f n).freeCtr = s.freeCtr := rfl
@[simp] theorem State.subFld_ticks (s : State) (f : Fld) (n : Nat) : (s.subFld f n).ticks = s.ticks := rfl
@[simp] theorem State.subFld_lanes (s : State) (f : Fld) (n : Nat) : (s.subFld f n).lanes = s.lanes := rfl
@[simp] theorem State.subFld_links (s : State) (f : Fld) (n : Nat) : (s.subFld f n).links = s.links := rfl
@[simp] theorem State.subFld_arr (s : State) (f : Fld) (n : Nat) : (s.subFld f n).arr = s.arr := rfl
@[simp] theorem State.subFld_dly (s : State) (f : Fld) (n : Nat) : (s.subFld f n).dly = s.dly := rfl
@[simp] theorem State.subFld_chn (s : State) (f : Fld) (n : Nat) : (s.subFld f n).chn = s.chn := rfl
@[simp] theorem State.subFld_dram (s : State) (f : Fld) (n : Nat) : (s.subFld f n).dram = s.dram := rfl
@[simp] theorem State.subFld_mere (s : State) (f : Fld) (n : Nat) : (s.subFld f n).mere = s.mere := rfl
@[simp] theorem State.subFld_sward (s : State) (f : Fld) (n : Nat) : (s.subFld f n).sward = s.sward := rfl
@[simp] theorem State.subFld_bas (s : State) (f : Fld) (n : Nat) : (s.subFld f n).bas = s.bas := rfl
@[simp] theorem State.subFld_beam (s : State) (f : Fld) (n : Nat) : (s.subFld f n).beam = s.beam := rfl
@[simp] theorem State.subFld_gsvs (s : State) (f : Fld) (n : Nat) : (s.subFld f n).gsvs = s.gsvs := rfl
@[simp] theorem State.subFld_arms (s : State) (f : Fld) (n : Nat) : (s.subFld f n).arms = s.arms := rfl
@[simp] theorem State.subFld_pcie (s : State) (f : Fld) (n : Nat) : (s.subFld f n).pcie = s.pcie := rfl
@[simp] theorem State.subFld_tarn (s : State) (f : Fld) (n : Nat) : (s.subFld f n).tarn = s.tarn := rfl
@[simp] theorem State.subFld_tod (s : State) (f : Fld) (n : Nat) : (s.subFld f n).tod = s.tod := rfl
@[simp] theorem State.subFld_tune (s : State) (f : Fld) (n : Nat) : (s.subFld f n).tune = s.tune := rfl
@[simp] theorem State.subFld_well (s : State) (f : Fld) (n : Nat) : (s.subFld f n).well = s.well := rfl
@[simp] theorem State.subFld_flash (s : State) (f : Fld) (n : Nat) : (s.subFld f n).flash = s.flash := rfl
@[simp] theorem State.subFld_pwr (s : State) (f : Fld) (n : Nat) : (s.subFld f n).pwr = s.pwr := rfl
@[simp] theorem State.subFld_dma (s : State) (f : Fld) (n : Nat) : (s.subFld f n).dma = s.dma := rfl
@[simp] theorem State.subFld_mx (s : State) (f : Fld) (n : Nat) : (s.subFld f n).mx = s.mx := rfl
@[simp] theorem State.subFld_thermtrip (s : State) (f : Fld) (n : Nat) : (s.subFld f n).thermtrip = s.thermtrip := rfl
@[simp] theorem State.subFld_tab (s : State) (f : Fld) (n : Nat) (o : Nat) : (s.subFld f n).tab o = s.tab o := rfl

/-! ### State.setTab -/

@[simp] theorem State.setTab_dev (s : State) (off v : Nat) : (s.setTab off v).dev = s.dev := rfl
@[simp] theorem State.setTab_pending (s : State) (off v : Nat) : (s.setTab off v).pending = s.pending := rfl
@[simp] theorem State.setTab_regs (s : State) (off v : Nat) : (s.setTab off v).regs = s.regs := rfl
@[simp] theorem State.setTab_latch (s : State) (off v : Nat) : (s.setTab off v).latch = s.latch := rfl
@[simp] theorem State.setTab_staged (s : State) (off v : Nat) : (s.setTab off v).staged = s.staged := rfl
@[simp] theorem State.setTab_opened (s : State) (off v : Nat) : (s.setTab off v).opened = s.opened := rfl
@[simp] theorem State.setTab_exts (s : State) (off v : Nat) : (s.setTab off v).exts = s.exts := rfl
@[simp] theorem State.setTab_snap (s : State) (off v : Nat) : (s.setTab off v).snap = s.snap := rfl
@[simp] theorem State.setTab_tabPoison (s : State) (off v : Nat) : (s.setTab off v).tabPoison = s.tabPoison := rfl
@[simp] theorem State.setTab_actives (s : State) (off v : Nat) : (s.setTab off v).actives = s.actives := rfl
@[simp] theorem State.setTab_cfgs (s : State) (off v : Nat) : (s.setTab off v).cfgs = s.cfgs := rfl
@[simp] theorem State.setTab_evq (s : State) (off v : Nat) : (s.setTab off v).evq = s.evq := rfl
@[simp] theorem State.setTab_evLoss (s : State) (off v : Nat) : (s.setTab off v).evLoss = s.evLoss := rfl
@[simp] theorem State.setTab_out (s : State) (off v : Nat) : (s.setTab off v).out = s.out := rfl
@[simp] theorem State.setTab_freeCtr (s : State) (off v : Nat) : (s.setTab off v).freeCtr = s.freeCtr := rfl
@[simp] theorem State.setTab_ticks (s : State) (off v : Nat) : (s.setTab off v).ticks = s.ticks := rfl
@[simp] theorem State.setTab_lanes (s : State) (off v : Nat) : (s.setTab off v).lanes = s.lanes := rfl
@[simp] theorem State.setTab_links (s : State) (off v : Nat) : (s.setTab off v).links = s.links := rfl
@[simp] theorem State.setTab_arr (s : State) (off v : Nat) : (s.setTab off v).arr = s.arr := rfl
@[simp] theorem State.setTab_dly (s : State) (off v : Nat) : (s.setTab off v).dly = s.dly := rfl
@[simp] theorem State.setTab_chn (s : State) (off v : Nat) : (s.setTab off v).chn = s.chn := rfl
@[simp] theorem State.setTab_dram (s : State) (off v : Nat) : (s.setTab off v).dram = s.dram := rfl
@[simp] theorem State.setTab_mere (s : State) (off v : Nat) : (s.setTab off v).mere = s.mere := rfl
@[simp] theorem State.setTab_sward (s : State) (off v : Nat) : (s.setTab off v).sward = s.sward := rfl
@[simp] theorem State.setTab_bas (s : State) (off v : Nat) : (s.setTab off v).bas = s.bas := rfl
@[simp] theorem State.setTab_beam (s : State) (off v : Nat) : (s.setTab off v).beam = s.beam := rfl
@[simp] theorem State.setTab_gsvs (s : State) (off v : Nat) : (s.setTab off v).gsvs = s.gsvs := rfl
@[simp] theorem State.setTab_arms (s : State) (off v : Nat) : (s.setTab off v).arms = s.arms := rfl
@[simp] theorem State.setTab_pcie (s : State) (off v : Nat) : (s.setTab off v).pcie = s.pcie := rfl
@[simp] theorem State.setTab_tarn (s : State) (off v : Nat) : (s.setTab off v).tarn = s.tarn := rfl
@[simp] theorem State.setTab_tod (s : State) (off v : Nat) : (s.setTab off v).tod = s.tod := rfl
@[simp] theorem State.setTab_tune (s : State) (off v : Nat) : (s.setTab off v).tune = s.tune := rfl
@[simp] theorem State.setTab_well (s : State) (off v : Nat) : (s.setTab off v).well = s.well := rfl
@[simp] theorem State.setTab_flash (s : State) (off v : Nat) : (s.setTab off v).flash = s.flash := rfl
@[simp] theorem State.setTab_pwr (s : State) (off v : Nat) : (s.setTab off v).pwr = s.pwr := rfl
@[simp] theorem State.setTab_dma (s : State) (off v : Nat) : (s.setTab off v).dma = s.dma := rfl
@[simp] theorem State.setTab_mx (s : State) (off v : Nat) : (s.setTab off v).mx = s.mx := rfl
@[simp] theorem State.setTab_thermtrip (s : State) (off v : Nat) : (s.setTab off v).thermtrip = s.thermtrip := rfl
@[simp] theorem State.setTab_fld (s : State) (off v : Nat) (f : Fld) : (s.setTab off v).fld f = s.fld f := rfl

/-! ### State.emit -/

@[simp] theorem State.emit_dev (s : State) (o : Out) : (s.emit o).dev = s.dev := rfl
@[simp] theorem State.emit_pending (s : State) (o : Out) : (s.emit o).pending = s.pending := rfl
@[simp] theorem State.emit_regs (s : State) (o : Out) : (s.emit o).regs = s.regs := rfl
@[simp] theorem State.emit_latch (s : State) (o : Out) : (s.emit o).latch = s.latch := rfl
@[simp] theorem State.emit_staged (s : State) (o : Out) : (s.emit o).staged = s.staged := rfl
@[simp] theorem State.emit_opened (s : State) (o : Out) : (s.emit o).opened = s.opened := rfl
@[simp] theorem State.emit_exts (s : State) (o : Out) : (s.emit o).exts = s.exts := rfl
@[simp] theorem State.emit_snap (s : State) (o : Out) : (s.emit o).snap = s.snap := rfl
@[simp] theorem State.emit_tables (s : State) (o : Out) : (s.emit o).tables = s.tables := rfl
@[simp] theorem State.emit_tabPoison (s : State) (o : Out) : (s.emit o).tabPoison = s.tabPoison := rfl
@[simp] theorem State.emit_actives (s : State) (o : Out) : (s.emit o).actives = s.actives := rfl
@[simp] theorem State.emit_cfgs (s : State) (o : Out) : (s.emit o).cfgs = s.cfgs := rfl
@[simp] theorem State.emit_evq (s : State) (o : Out) : (s.emit o).evq = s.evq := rfl
@[simp] theorem State.emit_evLoss (s : State) (o : Out) : (s.emit o).evLoss = s.evLoss := rfl
@[simp] theorem State.emit_freeCtr (s : State) (o : Out) : (s.emit o).freeCtr = s.freeCtr := rfl
@[simp] theorem State.emit_ticks (s : State) (o : Out) : (s.emit o).ticks = s.ticks := rfl
@[simp] theorem State.emit_lanes (s : State) (o : Out) : (s.emit o).lanes = s.lanes := rfl
@[simp] theorem State.emit_links (s : State) (o : Out) : (s.emit o).links = s.links := rfl
@[simp] theorem State.emit_arr (s : State) (o : Out) : (s.emit o).arr = s.arr := rfl
@[simp] theorem State.emit_dly (s : State) (o : Out) : (s.emit o).dly = s.dly := rfl
@[simp] theorem State.emit_chn (s : State) (o : Out) : (s.emit o).chn = s.chn := rfl
@[simp] theorem State.emit_dram (s : State) (o : Out) : (s.emit o).dram = s.dram := rfl
@[simp] theorem State.emit_mere (s : State) (o : Out) : (s.emit o).mere = s.mere := rfl
@[simp] theorem State.emit_sward (s : State) (o : Out) : (s.emit o).sward = s.sward := rfl
@[simp] theorem State.emit_bas (s : State) (o : Out) : (s.emit o).bas = s.bas := rfl
@[simp] theorem State.emit_beam (s : State) (o : Out) : (s.emit o).beam = s.beam := rfl
@[simp] theorem State.emit_gsvs (s : State) (o : Out) : (s.emit o).gsvs = s.gsvs := rfl
@[simp] theorem State.emit_arms (s : State) (o : Out) : (s.emit o).arms = s.arms := rfl
@[simp] theorem State.emit_pcie (s : State) (o : Out) : (s.emit o).pcie = s.pcie := rfl
@[simp] theorem State.emit_tarn (s : State) (o : Out) : (s.emit o).tarn = s.tarn := rfl
@[simp] theorem State.emit_tod (s : State) (o : Out) : (s.emit o).tod = s.tod := rfl
@[simp] theorem State.emit_tune (s : State) (o : Out) : (s.emit o).tune = s.tune := rfl
@[simp] theorem State.emit_well (s : State) (o : Out) : (s.emit o).well = s.well := rfl
@[simp] theorem State.emit_flash (s : State) (o : Out) : (s.emit o).flash = s.flash := rfl
@[simp] theorem State.emit_pwr (s : State) (o : Out) : (s.emit o).pwr = s.pwr := rfl
@[simp] theorem State.emit_dma (s : State) (o : Out) : (s.emit o).dma = s.dma := rfl
@[simp] theorem State.emit_mx (s : State) (o : Out) : (s.emit o).mx = s.mx := rfl
@[simp] theorem State.emit_thermtrip (s : State) (o : Out) : (s.emit o).thermtrip = s.thermtrip := rfl
@[simp] theorem State.emit_fld (s : State) (o : Out) (f : Fld) : (s.emit o).fld f = s.fld f := rfl
@[simp] theorem State.emit_tab (s : State) (x : Out) (o : Nat) : (s.emit x).tab o = s.tab o := rfl

/-! ### State.setArm -/

@[simp] theorem State.setArm_dev (s : State) (p : Page) (a : ArmSt) : (s.setArm p a).dev = s.dev := rfl
@[simp] theorem State.setArm_pending (s : State) (p : Page) (a : ArmSt) : (s.setArm p a).pending = s.pending := rfl
@[simp] theorem State.setArm_regs (s : State) (p : Page) (a : ArmSt) : (s.setArm p a).regs = s.regs := rfl
@[simp] theorem State.setArm_latch (s : State) (p : Page) (a : ArmSt) : (s.setArm p a).latch = s.latch := rfl
@[simp] theorem State.setArm_staged (s : State) (p : Page) (a : ArmSt) : (s.setArm p a).staged = s.staged := rfl
@[simp] theorem State.setArm_opened (s : State) (p : Page) (a : ArmSt) : (s.setArm p a).opened = s.opened := rfl
@[simp] theorem State.setArm_exts (s : State) (p : Page) (a : ArmSt) : (s.setArm p a).exts = s.exts := rfl
@[simp] theorem State.setArm_snap (s : State) (p : Page) (a : ArmSt) : (s.setArm p a).snap = s.snap := rfl
@[simp] theorem State.setArm_tables (s : State) (p : Page) (a : ArmSt) : (s.setArm p a).tables = s.tables := rfl
@[simp] theorem State.setArm_tabPoison (s : State) (p : Page) (a : ArmSt) : (s.setArm p a).tabPoison = s.tabPoison := rfl
@[simp] theorem State.setArm_actives (s : State) (p : Page) (a : ArmSt) : (s.setArm p a).actives = s.actives := rfl
@[simp] theorem State.setArm_cfgs (s : State) (p : Page) (a : ArmSt) : (s.setArm p a).cfgs = s.cfgs := rfl
@[simp] theorem State.setArm_evq (s : State) (p : Page) (a : ArmSt) : (s.setArm p a).evq = s.evq := rfl
@[simp] theorem State.setArm_evLoss (s : State) (p : Page) (a : ArmSt) : (s.setArm p a).evLoss = s.evLoss := rfl
@[simp] theorem State.setArm_out (s : State) (p : Page) (a : ArmSt) : (s.setArm p a).out = s.out := rfl
@[simp] theorem State.setArm_freeCtr (s : State) (p : Page) (a : ArmSt) : (s.setArm p a).freeCtr = s.freeCtr := rfl
@[simp] theorem State.setArm_ticks (s : State) (p : Page) (a : ArmSt) : (s.setArm p a).ticks = s.ticks := rfl
@[simp] theorem State.setArm_lanes (s : State) (p : Page) (a : ArmSt) : (s.setArm p a).lanes = s.lanes := rfl
@[simp] theorem State.setArm_links (s : State) (p : Page) (a : ArmSt) : (s.setArm p a).links = s.links := rfl
@[simp] theorem State.setArm_arr (s : State) (p : Page) (a : ArmSt) : (s.setArm p a).arr = s.arr := rfl
@[simp] theorem State.setArm_dly (s : State) (p : Page) (a : ArmSt) : (s.setArm p a).dly = s.dly := rfl
@[simp] theorem State.setArm_chn (s : State) (p : Page) (a : ArmSt) : (s.setArm p a).chn = s.chn := rfl
@[simp] theorem State.setArm_dram (s : State) (p : Page) (a : ArmSt) : (s.setArm p a).dram = s.dram := rfl
@[simp] theorem State.setArm_mere (s : State) (p : Page) (a : ArmSt) : (s.setArm p a).mere = s.mere := rfl
@[simp] theorem State.setArm_sward (s : State) (p : Page) (a : ArmSt) : (s.setArm p a).sward = s.sward := rfl
@[simp] theorem State.setArm_bas (s : State) (p : Page) (a : ArmSt) : (s.setArm p a).bas = s.bas := rfl
@[simp] theorem State.setArm_beam (s : State) (p : Page) (a : ArmSt) : (s.setArm p a).beam = s.beam := rfl
@[simp] theorem State.setArm_gsvs (s : State) (p : Page) (a : ArmSt) : (s.setArm p a).gsvs = s.gsvs := rfl
@[simp] theorem State.setArm_pcie (s : State) (p : Page) (a : ArmSt) : (s.setArm p a).pcie = s.pcie := rfl
@[simp] theorem State.setArm_tarn (s : State) (p : Page) (a : ArmSt) : (s.setArm p a).tarn = s.tarn := rfl
@[simp] theorem State.setArm_tod (s : State) (p : Page) (a : ArmSt) : (s.setArm p a).tod = s.tod := rfl
@[simp] theorem State.setArm_tune (s : State) (p : Page) (a : ArmSt) : (s.setArm p a).tune = s.tune := rfl
@[simp] theorem State.setArm_well (s : State) (p : Page) (a : ArmSt) : (s.setArm p a).well = s.well := rfl
@[simp] theorem State.setArm_flash (s : State) (p : Page) (a : ArmSt) : (s.setArm p a).flash = s.flash := rfl
@[simp] theorem State.setArm_pwr (s : State) (p : Page) (a : ArmSt) : (s.setArm p a).pwr = s.pwr := rfl
@[simp] theorem State.setArm_dma (s : State) (p : Page) (a : ArmSt) : (s.setArm p a).dma = s.dma := rfl
@[simp] theorem State.setArm_mx (s : State) (p : Page) (a : ArmSt) : (s.setArm p a).mx = s.mx := rfl
@[simp] theorem State.setArm_thermtrip (s : State) (p : Page) (a : ArmSt) : (s.setArm p a).thermtrip = s.thermtrip := rfl
@[simp] theorem State.setArm_fld (s : State) (p : Page) (a : ArmSt) (f : Fld) : (s.setArm p a).fld f = s.fld f := rfl
@[simp] theorem State.setArm_tab (s : State) (p : Page) (a : ArmSt) (o : Nat) : (s.setArm p a).tab o = s.tab o := rfl

/-! ### State.setEng -/

@[simp] theorem State.setEng_dev (s : State) (n : Nat) (e : EngSt) : (s.setEng n e).dev = s.dev := rfl
@[simp] theorem State.setEng_pending (s : State) (n : Nat) (e : EngSt) : (s.setEng n e).pending = s.pending := rfl
@[simp] theorem State.setEng_regs (s : State) (n : Nat) (e : EngSt) : (s.setEng n e).regs = s.regs := rfl
@[simp] theorem State.setEng_latch (s : State) (n : Nat) (e : EngSt) : (s.setEng n e).latch = s.latch := rfl
@[simp] theorem State.setEng_staged (s : State) (n : Nat) (e : EngSt) : (s.setEng n e).staged = s.staged := rfl
@[simp] theorem State.setEng_opened (s : State) (n : Nat) (e : EngSt) : (s.setEng n e).opened = s.opened := rfl
@[simp] theorem State.setEng_exts (s : State) (n : Nat) (e : EngSt) : (s.setEng n e).exts = s.exts := rfl
@[simp] theorem State.setEng_snap (s : State) (n : Nat) (e : EngSt) : (s.setEng n e).snap = s.snap := rfl
@[simp] theorem State.setEng_tables (s : State) (n : Nat) (e : EngSt) : (s.setEng n e).tables = s.tables := rfl
@[simp] theorem State.setEng_tabPoison (s : State) (n : Nat) (e : EngSt) : (s.setEng n e).tabPoison = s.tabPoison := rfl
@[simp] theorem State.setEng_actives (s : State) (n : Nat) (e : EngSt) : (s.setEng n e).actives = s.actives := rfl
@[simp] theorem State.setEng_cfgs (s : State) (n : Nat) (e : EngSt) : (s.setEng n e).cfgs = s.cfgs := rfl
@[simp] theorem State.setEng_evq (s : State) (n : Nat) (e : EngSt) : (s.setEng n e).evq = s.evq := rfl
@[simp] theorem State.setEng_evLoss (s : State) (n : Nat) (e : EngSt) : (s.setEng n e).evLoss = s.evLoss := rfl
@[simp] theorem State.setEng_out (s : State) (n : Nat) (e : EngSt) : (s.setEng n e).out = s.out := rfl
@[simp] theorem State.setEng_freeCtr (s : State) (n : Nat) (e : EngSt) : (s.setEng n e).freeCtr = s.freeCtr := rfl
@[simp] theorem State.setEng_ticks (s : State) (n : Nat) (e : EngSt) : (s.setEng n e).ticks = s.ticks := rfl
@[simp] theorem State.setEng_lanes (s : State) (n : Nat) (e : EngSt) : (s.setEng n e).lanes = s.lanes := rfl
@[simp] theorem State.setEng_links (s : State) (n : Nat) (e : EngSt) : (s.setEng n e).links = s.links := rfl
@[simp] theorem State.setEng_arr (s : State) (n : Nat) (e : EngSt) : (s.setEng n e).arr = s.arr := rfl
@[simp] theorem State.setEng_dly (s : State) (n : Nat) (e : EngSt) : (s.setEng n e).dly = s.dly := rfl
@[simp] theorem State.setEng_chn (s : State) (n : Nat) (e : EngSt) : (s.setEng n e).chn = s.chn := rfl
@[simp] theorem State.setEng_dram (s : State) (n : Nat) (e : EngSt) : (s.setEng n e).dram = s.dram := rfl
@[simp] theorem State.setEng_mere (s : State) (n : Nat) (e : EngSt) : (s.setEng n e).mere = s.mere := rfl
@[simp] theorem State.setEng_bas (s : State) (n : Nat) (e : EngSt) : (s.setEng n e).bas = s.bas := rfl
@[simp] theorem State.setEng_beam (s : State) (n : Nat) (e : EngSt) : (s.setEng n e).beam = s.beam := rfl
@[simp] theorem State.setEng_gsvs (s : State) (n : Nat) (e : EngSt) : (s.setEng n e).gsvs = s.gsvs := rfl
@[simp] theorem State.setEng_arms (s : State) (n : Nat) (e : EngSt) : (s.setEng n e).arms = s.arms := rfl
@[simp] theorem State.setEng_pcie (s : State) (n : Nat) (e : EngSt) : (s.setEng n e).pcie = s.pcie := rfl
@[simp] theorem State.setEng_tarn (s : State) (n : Nat) (e : EngSt) : (s.setEng n e).tarn = s.tarn := rfl
@[simp] theorem State.setEng_tod (s : State) (n : Nat) (e : EngSt) : (s.setEng n e).tod = s.tod := rfl
@[simp] theorem State.setEng_tune (s : State) (n : Nat) (e : EngSt) : (s.setEng n e).tune = s.tune := rfl
@[simp] theorem State.setEng_well (s : State) (n : Nat) (e : EngSt) : (s.setEng n e).well = s.well := rfl
@[simp] theorem State.setEng_flash (s : State) (n : Nat) (e : EngSt) : (s.setEng n e).flash = s.flash := rfl
@[simp] theorem State.setEng_pwr (s : State) (n : Nat) (e : EngSt) : (s.setEng n e).pwr = s.pwr := rfl
@[simp] theorem State.setEng_dma (s : State) (n : Nat) (e : EngSt) : (s.setEng n e).dma = s.dma := rfl
@[simp] theorem State.setEng_mx (s : State) (n : Nat) (e : EngSt) : (s.setEng n e).mx = s.mx := rfl
@[simp] theorem State.setEng_thermtrip (s : State) (n : Nat) (e : EngSt) : (s.setEng n e).thermtrip = s.thermtrip := rfl
@[simp] theorem State.setEng_fld (s : State) (n : Nat) (e : EngSt) (f : Fld) : (s.setEng n e).fld f = s.fld f := rfl
@[simp] theorem State.setEng_tab (s : State) (n : Nat) (e : EngSt) (o : Nat) : (s.setEng n e).tab o = s.tab o := rfl

/-! ### State.setGsv -/

@[simp] theorem State.setGsv_dev (s : State) (g : Nat) (x : GsvSt) : (s.setGsv g x).dev = s.dev := rfl
@[simp] theorem State.setGsv_pending (s : State) (g : Nat) (x : GsvSt) : (s.setGsv g x).pending = s.pending := rfl
@[simp] theorem State.setGsv_regs (s : State) (g : Nat) (x : GsvSt) : (s.setGsv g x).regs = s.regs := rfl
@[simp] theorem State.setGsv_latch (s : State) (g : Nat) (x : GsvSt) : (s.setGsv g x).latch = s.latch := rfl
@[simp] theorem State.setGsv_staged (s : State) (g : Nat) (x : GsvSt) : (s.setGsv g x).staged = s.staged := rfl
@[simp] theorem State.setGsv_opened (s : State) (g : Nat) (x : GsvSt) : (s.setGsv g x).opened = s.opened := rfl
@[simp] theorem State.setGsv_exts (s : State) (g : Nat) (x : GsvSt) : (s.setGsv g x).exts = s.exts := rfl
@[simp] theorem State.setGsv_snap (s : State) (g : Nat) (x : GsvSt) : (s.setGsv g x).snap = s.snap := rfl
@[simp] theorem State.setGsv_tables (s : State) (g : Nat) (x : GsvSt) : (s.setGsv g x).tables = s.tables := rfl
@[simp] theorem State.setGsv_tabPoison (s : State) (g : Nat) (x : GsvSt) : (s.setGsv g x).tabPoison = s.tabPoison := rfl
@[simp] theorem State.setGsv_actives (s : State) (g : Nat) (x : GsvSt) : (s.setGsv g x).actives = s.actives := rfl
@[simp] theorem State.setGsv_cfgs (s : State) (g : Nat) (x : GsvSt) : (s.setGsv g x).cfgs = s.cfgs := rfl
@[simp] theorem State.setGsv_evq (s : State) (g : Nat) (x : GsvSt) : (s.setGsv g x).evq = s.evq := rfl
@[simp] theorem State.setGsv_evLoss (s : State) (g : Nat) (x : GsvSt) : (s.setGsv g x).evLoss = s.evLoss := rfl
@[simp] theorem State.setGsv_out (s : State) (g : Nat) (x : GsvSt) : (s.setGsv g x).out = s.out := rfl
@[simp] theorem State.setGsv_freeCtr (s : State) (g : Nat) (x : GsvSt) : (s.setGsv g x).freeCtr = s.freeCtr := rfl
@[simp] theorem State.setGsv_ticks (s : State) (g : Nat) (x : GsvSt) : (s.setGsv g x).ticks = s.ticks := rfl
@[simp] theorem State.setGsv_lanes (s : State) (g : Nat) (x : GsvSt) : (s.setGsv g x).lanes = s.lanes := rfl
@[simp] theorem State.setGsv_links (s : State) (g : Nat) (x : GsvSt) : (s.setGsv g x).links = s.links := rfl
@[simp] theorem State.setGsv_arr (s : State) (g : Nat) (x : GsvSt) : (s.setGsv g x).arr = s.arr := rfl
@[simp] theorem State.setGsv_dly (s : State) (g : Nat) (x : GsvSt) : (s.setGsv g x).dly = s.dly := rfl
@[simp] theorem State.setGsv_chn (s : State) (g : Nat) (x : GsvSt) : (s.setGsv g x).chn = s.chn := rfl
@[simp] theorem State.setGsv_dram (s : State) (g : Nat) (x : GsvSt) : (s.setGsv g x).dram = s.dram := rfl
@[simp] theorem State.setGsv_mere (s : State) (g : Nat) (x : GsvSt) : (s.setGsv g x).mere = s.mere := rfl
@[simp] theorem State.setGsv_sward (s : State) (g : Nat) (x : GsvSt) : (s.setGsv g x).sward = s.sward := rfl
@[simp] theorem State.setGsv_bas (s : State) (g : Nat) (x : GsvSt) : (s.setGsv g x).bas = s.bas := rfl
@[simp] theorem State.setGsv_beam (s : State) (g : Nat) (x : GsvSt) : (s.setGsv g x).beam = s.beam := rfl
@[simp] theorem State.setGsv_arms (s : State) (g : Nat) (x : GsvSt) : (s.setGsv g x).arms = s.arms := rfl
@[simp] theorem State.setGsv_pcie (s : State) (g : Nat) (x : GsvSt) : (s.setGsv g x).pcie = s.pcie := rfl
@[simp] theorem State.setGsv_tarn (s : State) (g : Nat) (x : GsvSt) : (s.setGsv g x).tarn = s.tarn := rfl
@[simp] theorem State.setGsv_tod (s : State) (g : Nat) (x : GsvSt) : (s.setGsv g x).tod = s.tod := rfl
@[simp] theorem State.setGsv_tune (s : State) (g : Nat) (x : GsvSt) : (s.setGsv g x).tune = s.tune := rfl
@[simp] theorem State.setGsv_well (s : State) (g : Nat) (x : GsvSt) : (s.setGsv g x).well = s.well := rfl
@[simp] theorem State.setGsv_flash (s : State) (g : Nat) (x : GsvSt) : (s.setGsv g x).flash = s.flash := rfl
@[simp] theorem State.setGsv_pwr (s : State) (g : Nat) (x : GsvSt) : (s.setGsv g x).pwr = s.pwr := rfl
@[simp] theorem State.setGsv_dma (s : State) (g : Nat) (x : GsvSt) : (s.setGsv g x).dma = s.dma := rfl
@[simp] theorem State.setGsv_mx (s : State) (g : Nat) (x : GsvSt) : (s.setGsv g x).mx = s.mx := rfl
@[simp] theorem State.setGsv_thermtrip (s : State) (g : Nat) (x : GsvSt) : (s.setGsv g x).thermtrip = s.thermtrip := rfl
@[simp] theorem State.setGsv_fld (s : State) (g : Nat) (x : GsvSt) (f : Fld) : (s.setGsv g x).fld f = s.fld f := rfl
@[simp] theorem State.setGsv_tab (s : State) (g : Nat) (x : GsvSt) (o : Nat) : (s.setGsv g x).tab o = s.tab o := rfl

/-! ### State.setLane -/

@[simp] theorem State.setLane_dev (s : State) (n : Nat) (l : LaneSt) : (s.setLane n l).dev = s.dev := rfl
@[simp] theorem State.setLane_pending (s : State) (n : Nat) (l : LaneSt) : (s.setLane n l).pending = s.pending := rfl
@[simp] theorem State.setLane_regs (s : State) (n : Nat) (l : LaneSt) : (s.setLane n l).regs = s.regs := rfl
@[simp] theorem State.setLane_latch (s : State) (n : Nat) (l : LaneSt) : (s.setLane n l).latch = s.latch := rfl
@[simp] theorem State.setLane_staged (s : State) (n : Nat) (l : LaneSt) : (s.setLane n l).staged = s.staged := rfl
@[simp] theorem State.setLane_opened (s : State) (n : Nat) (l : LaneSt) : (s.setLane n l).opened = s.opened := rfl
@[simp] theorem State.setLane_exts (s : State) (n : Nat) (l : LaneSt) : (s.setLane n l).exts = s.exts := rfl
@[simp] theorem State.setLane_snap (s : State) (n : Nat) (l : LaneSt) : (s.setLane n l).snap = s.snap := rfl
@[simp] theorem State.setLane_tables (s : State) (n : Nat) (l : LaneSt) : (s.setLane n l).tables = s.tables := rfl
@[simp] theorem State.setLane_tabPoison (s : State) (n : Nat) (l : LaneSt) : (s.setLane n l).tabPoison = s.tabPoison := rfl
@[simp] theorem State.setLane_actives (s : State) (n : Nat) (l : LaneSt) : (s.setLane n l).actives = s.actives := rfl
@[simp] theorem State.setLane_cfgs (s : State) (n : Nat) (l : LaneSt) : (s.setLane n l).cfgs = s.cfgs := rfl
@[simp] theorem State.setLane_evq (s : State) (n : Nat) (l : LaneSt) : (s.setLane n l).evq = s.evq := rfl
@[simp] theorem State.setLane_evLoss (s : State) (n : Nat) (l : LaneSt) : (s.setLane n l).evLoss = s.evLoss := rfl
@[simp] theorem State.setLane_out (s : State) (n : Nat) (l : LaneSt) : (s.setLane n l).out = s.out := rfl
@[simp] theorem State.setLane_freeCtr (s : State) (n : Nat) (l : LaneSt) : (s.setLane n l).freeCtr = s.freeCtr := rfl
@[simp] theorem State.setLane_ticks (s : State) (n : Nat) (l : LaneSt) : (s.setLane n l).ticks = s.ticks := rfl
@[simp] theorem State.setLane_links (s : State) (n : Nat) (l : LaneSt) : (s.setLane n l).links = s.links := rfl
@[simp] theorem State.setLane_arr (s : State) (n : Nat) (l : LaneSt) : (s.setLane n l).arr = s.arr := rfl
@[simp] theorem State.setLane_dly (s : State) (n : Nat) (l : LaneSt) : (s.setLane n l).dly = s.dly := rfl
@[simp] theorem State.setLane_chn (s : State) (n : Nat) (l : LaneSt) : (s.setLane n l).chn = s.chn := rfl
@[simp] theorem State.setLane_dram (s : State) (n : Nat) (l : LaneSt) : (s.setLane n l).dram = s.dram := rfl
@[simp] theorem State.setLane_mere (s : State) (n : Nat) (l : LaneSt) : (s.setLane n l).mere = s.mere := rfl
@[simp] theorem State.setLane_sward (s : State) (n : Nat) (l : LaneSt) : (s.setLane n l).sward = s.sward := rfl
@[simp] theorem State.setLane_bas (s : State) (n : Nat) (l : LaneSt) : (s.setLane n l).bas = s.bas := rfl
@[simp] theorem State.setLane_beam (s : State) (n : Nat) (l : LaneSt) : (s.setLane n l).beam = s.beam := rfl
@[simp] theorem State.setLane_gsvs (s : State) (n : Nat) (l : LaneSt) : (s.setLane n l).gsvs = s.gsvs := rfl
@[simp] theorem State.setLane_arms (s : State) (n : Nat) (l : LaneSt) : (s.setLane n l).arms = s.arms := rfl
@[simp] theorem State.setLane_pcie (s : State) (n : Nat) (l : LaneSt) : (s.setLane n l).pcie = s.pcie := rfl
@[simp] theorem State.setLane_tarn (s : State) (n : Nat) (l : LaneSt) : (s.setLane n l).tarn = s.tarn := rfl
@[simp] theorem State.setLane_tod (s : State) (n : Nat) (l : LaneSt) : (s.setLane n l).tod = s.tod := rfl
@[simp] theorem State.setLane_tune (s : State) (n : Nat) (l : LaneSt) : (s.setLane n l).tune = s.tune := rfl
@[simp] theorem State.setLane_well (s : State) (n : Nat) (l : LaneSt) : (s.setLane n l).well = s.well := rfl
@[simp] theorem State.setLane_flash (s : State) (n : Nat) (l : LaneSt) : (s.setLane n l).flash = s.flash := rfl
@[simp] theorem State.setLane_pwr (s : State) (n : Nat) (l : LaneSt) : (s.setLane n l).pwr = s.pwr := rfl
@[simp] theorem State.setLane_dma (s : State) (n : Nat) (l : LaneSt) : (s.setLane n l).dma = s.dma := rfl
@[simp] theorem State.setLane_mx (s : State) (n : Nat) (l : LaneSt) : (s.setLane n l).mx = s.mx := rfl
@[simp] theorem State.setLane_thermtrip (s : State) (n : Nat) (l : LaneSt) : (s.setLane n l).thermtrip = s.thermtrip := rfl
@[simp] theorem State.setLane_fld (s : State) (n : Nat) (l : LaneSt) (f : Fld) : (s.setLane n l).fld f = s.fld f := rfl
@[simp] theorem State.setLane_tab (s : State) (n : Nat) (l : LaneSt) (o : Nat) : (s.setLane n l).tab o = s.tab o := rfl

/-! ### State.setLink -/

@[simp] theorem State.setLink_dev (s : State) (j : Nat) (l : LinkSt) : (s.setLink j l).dev = s.dev := rfl
@[simp] theorem State.setLink_pending (s : State) (j : Nat) (l : LinkSt) : (s.setLink j l).pending = s.pending := rfl
@[simp] theorem State.setLink_regs (s : State) (j : Nat) (l : LinkSt) : (s.setLink j l).regs = s.regs := rfl
@[simp] theorem State.setLink_latch (s : State) (j : Nat) (l : LinkSt) : (s.setLink j l).latch = s.latch := rfl
@[simp] theorem State.setLink_staged (s : State) (j : Nat) (l : LinkSt) : (s.setLink j l).staged = s.staged := rfl
@[simp] theorem State.setLink_opened (s : State) (j : Nat) (l : LinkSt) : (s.setLink j l).opened = s.opened := rfl
@[simp] theorem State.setLink_exts (s : State) (j : Nat) (l : LinkSt) : (s.setLink j l).exts = s.exts := rfl
@[simp] theorem State.setLink_snap (s : State) (j : Nat) (l : LinkSt) : (s.setLink j l).snap = s.snap := rfl
@[simp] theorem State.setLink_tables (s : State) (j : Nat) (l : LinkSt) : (s.setLink j l).tables = s.tables := rfl
@[simp] theorem State.setLink_tabPoison (s : State) (j : Nat) (l : LinkSt) : (s.setLink j l).tabPoison = s.tabPoison := rfl
@[simp] theorem State.setLink_actives (s : State) (j : Nat) (l : LinkSt) : (s.setLink j l).actives = s.actives := rfl
@[simp] theorem State.setLink_cfgs (s : State) (j : Nat) (l : LinkSt) : (s.setLink j l).cfgs = s.cfgs := rfl
@[simp] theorem State.setLink_evq (s : State) (j : Nat) (l : LinkSt) : (s.setLink j l).evq = s.evq := rfl
@[simp] theorem State.setLink_evLoss (s : State) (j : Nat) (l : LinkSt) : (s.setLink j l).evLoss = s.evLoss := rfl
@[simp] theorem State.setLink_out (s : State) (j : Nat) (l : LinkSt) : (s.setLink j l).out = s.out := rfl
@[simp] theorem State.setLink_freeCtr (s : State) (j : Nat) (l : LinkSt) : (s.setLink j l).freeCtr = s.freeCtr := rfl
@[simp] theorem State.setLink_ticks (s : State) (j : Nat) (l : LinkSt) : (s.setLink j l).ticks = s.ticks := rfl
@[simp] theorem State.setLink_lanes (s : State) (j : Nat) (l : LinkSt) : (s.setLink j l).lanes = s.lanes := rfl
@[simp] theorem State.setLink_arr (s : State) (j : Nat) (l : LinkSt) : (s.setLink j l).arr = s.arr := rfl
@[simp] theorem State.setLink_dly (s : State) (j : Nat) (l : LinkSt) : (s.setLink j l).dly = s.dly := rfl
@[simp] theorem State.setLink_chn (s : State) (j : Nat) (l : LinkSt) : (s.setLink j l).chn = s.chn := rfl
@[simp] theorem State.setLink_dram (s : State) (j : Nat) (l : LinkSt) : (s.setLink j l).dram = s.dram := rfl
@[simp] theorem State.setLink_mere (s : State) (j : Nat) (l : LinkSt) : (s.setLink j l).mere = s.mere := rfl
@[simp] theorem State.setLink_sward (s : State) (j : Nat) (l : LinkSt) : (s.setLink j l).sward = s.sward := rfl
@[simp] theorem State.setLink_bas (s : State) (j : Nat) (l : LinkSt) : (s.setLink j l).bas = s.bas := rfl
@[simp] theorem State.setLink_beam (s : State) (j : Nat) (l : LinkSt) : (s.setLink j l).beam = s.beam := rfl
@[simp] theorem State.setLink_gsvs (s : State) (j : Nat) (l : LinkSt) : (s.setLink j l).gsvs = s.gsvs := rfl
@[simp] theorem State.setLink_arms (s : State) (j : Nat) (l : LinkSt) : (s.setLink j l).arms = s.arms := rfl
@[simp] theorem State.setLink_pcie (s : State) (j : Nat) (l : LinkSt) : (s.setLink j l).pcie = s.pcie := rfl
@[simp] theorem State.setLink_tarn (s : State) (j : Nat) (l : LinkSt) : (s.setLink j l).tarn = s.tarn := rfl
@[simp] theorem State.setLink_tod (s : State) (j : Nat) (l : LinkSt) : (s.setLink j l).tod = s.tod := rfl
@[simp] theorem State.setLink_tune (s : State) (j : Nat) (l : LinkSt) : (s.setLink j l).tune = s.tune := rfl
@[simp] theorem State.setLink_well (s : State) (j : Nat) (l : LinkSt) : (s.setLink j l).well = s.well := rfl
@[simp] theorem State.setLink_flash (s : State) (j : Nat) (l : LinkSt) : (s.setLink j l).flash = s.flash := rfl
@[simp] theorem State.setLink_pwr (s : State) (j : Nat) (l : LinkSt) : (s.setLink j l).pwr = s.pwr := rfl
@[simp] theorem State.setLink_dma (s : State) (j : Nat) (l : LinkSt) : (s.setLink j l).dma = s.dma := rfl
@[simp] theorem State.setLink_mx (s : State) (j : Nat) (l : LinkSt) : (s.setLink j l).mx = s.mx := rfl
@[simp] theorem State.setLink_thermtrip (s : State) (j : Nat) (l : LinkSt) : (s.setLink j l).thermtrip = s.thermtrip := rfl
@[simp] theorem State.setLink_fld (s : State) (j : Nat) (l : LinkSt) (f : Fld) : (s.setLink j l).fld f = s.fld f := rfl
@[simp] theorem State.setLink_tab (s : State) (j : Nat) (l : LinkSt) (o : Nat) : (s.setLink j l).tab o = s.tab o := rfl

/-! ### State.setOpen -/

@[simp] theorem State.setOpen_dev (s : State) (k : Nat) (o : Option OpenTile) : (s.setOpen k o).dev = s.dev := rfl
@[simp] theorem State.setOpen_pending (s : State) (k : Nat) (o : Option OpenTile) : (s.setOpen k o).pending = s.pending := rfl
@[simp] theorem State.setOpen_regs (s : State) (k : Nat) (o : Option OpenTile) : (s.setOpen k o).regs = s.regs := rfl
@[simp] theorem State.setOpen_latch (s : State) (k : Nat) (o : Option OpenTile) : (s.setOpen k o).latch = s.latch := rfl
@[simp] theorem State.setOpen_staged (s : State) (k : Nat) (o : Option OpenTile) : (s.setOpen k o).staged = s.staged := rfl
@[simp] theorem State.setOpen_opened (s : State) (k : Nat) (o : Option OpenTile) : (s.setOpen k o).opened = s.opened := rfl
@[simp] theorem State.setOpen_exts (s : State) (k : Nat) (o : Option OpenTile) : (s.setOpen k o).exts = s.exts := rfl
@[simp] theorem State.setOpen_snap (s : State) (k : Nat) (o : Option OpenTile) : (s.setOpen k o).snap = s.snap := rfl
@[simp] theorem State.setOpen_tables (s : State) (k : Nat) (o : Option OpenTile) : (s.setOpen k o).tables = s.tables := rfl
@[simp] theorem State.setOpen_tabPoison (s : State) (k : Nat) (o : Option OpenTile) : (s.setOpen k o).tabPoison = s.tabPoison := rfl
@[simp] theorem State.setOpen_actives (s : State) (k : Nat) (o : Option OpenTile) : (s.setOpen k o).actives = s.actives := rfl
@[simp] theorem State.setOpen_cfgs (s : State) (k : Nat) (o : Option OpenTile) : (s.setOpen k o).cfgs = s.cfgs := rfl
@[simp] theorem State.setOpen_evq (s : State) (k : Nat) (o : Option OpenTile) : (s.setOpen k o).evq = s.evq := rfl
@[simp] theorem State.setOpen_evLoss (s : State) (k : Nat) (o : Option OpenTile) : (s.setOpen k o).evLoss = s.evLoss := rfl
@[simp] theorem State.setOpen_out (s : State) (k : Nat) (o : Option OpenTile) : (s.setOpen k o).out = s.out := rfl
@[simp] theorem State.setOpen_freeCtr (s : State) (k : Nat) (o : Option OpenTile) : (s.setOpen k o).freeCtr = s.freeCtr := rfl
@[simp] theorem State.setOpen_ticks (s : State) (k : Nat) (o : Option OpenTile) : (s.setOpen k o).ticks = s.ticks := rfl
@[simp] theorem State.setOpen_lanes (s : State) (k : Nat) (o : Option OpenTile) : (s.setOpen k o).lanes = s.lanes := rfl
@[simp] theorem State.setOpen_links (s : State) (k : Nat) (o : Option OpenTile) : (s.setOpen k o).links = s.links := rfl
@[simp] theorem State.setOpen_arr (s : State) (k : Nat) (o : Option OpenTile) : (s.setOpen k o).arr = s.arr := rfl
@[simp] theorem State.setOpen_dly (s : State) (k : Nat) (o : Option OpenTile) : (s.setOpen k o).dly = s.dly := rfl
@[simp] theorem State.setOpen_chn (s : State) (k : Nat) (o : Option OpenTile) : (s.setOpen k o).chn = s.chn := rfl
@[simp] theorem State.setOpen_dram (s : State) (k : Nat) (o : Option OpenTile) : (s.setOpen k o).dram = s.dram := rfl
@[simp] theorem State.setOpen_sward (s : State) (k : Nat) (o : Option OpenTile) : (s.setOpen k o).sward = s.sward := rfl
@[simp] theorem State.setOpen_bas (s : State) (k : Nat) (o : Option OpenTile) : (s.setOpen k o).bas = s.bas := rfl
@[simp] theorem State.setOpen_beam (s : State) (k : Nat) (o : Option OpenTile) : (s.setOpen k o).beam = s.beam := rfl
@[simp] theorem State.setOpen_gsvs (s : State) (k : Nat) (o : Option OpenTile) : (s.setOpen k o).gsvs = s.gsvs := rfl
@[simp] theorem State.setOpen_arms (s : State) (k : Nat) (o : Option OpenTile) : (s.setOpen k o).arms = s.arms := rfl
@[simp] theorem State.setOpen_pcie (s : State) (k : Nat) (o : Option OpenTile) : (s.setOpen k o).pcie = s.pcie := rfl
@[simp] theorem State.setOpen_tarn (s : State) (k : Nat) (o : Option OpenTile) : (s.setOpen k o).tarn = s.tarn := rfl
@[simp] theorem State.setOpen_tod (s : State) (k : Nat) (o : Option OpenTile) : (s.setOpen k o).tod = s.tod := rfl
@[simp] theorem State.setOpen_tune (s : State) (k : Nat) (o : Option OpenTile) : (s.setOpen k o).tune = s.tune := rfl
@[simp] theorem State.setOpen_well (s : State) (k : Nat) (o : Option OpenTile) : (s.setOpen k o).well = s.well := rfl
@[simp] theorem State.setOpen_flash (s : State) (k : Nat) (o : Option OpenTile) : (s.setOpen k o).flash = s.flash := rfl
@[simp] theorem State.setOpen_pwr (s : State) (k : Nat) (o : Option OpenTile) : (s.setOpen k o).pwr = s.pwr := rfl
@[simp] theorem State.setOpen_dma (s : State) (k : Nat) (o : Option OpenTile) : (s.setOpen k o).dma = s.dma := rfl
@[simp] theorem State.setOpen_mx (s : State) (k : Nat) (o : Option OpenTile) : (s.setOpen k o).mx = s.mx := rfl
@[simp] theorem State.setOpen_thermtrip (s : State) (k : Nat) (o : Option OpenTile) : (s.setOpen k o).thermtrip = s.thermtrip := rfl
@[simp] theorem State.setOpen_fld (s : State) (k : Nat) (o : Option OpenTile) (f : Fld) : (s.setOpen k o).fld f = s.fld f := rfl
@[simp] theorem State.setOpen_tab (s : State) (k : Nat) (x : Option OpenTile) (o : Nat) : (s.setOpen k x).tab o = s.tab o := rfl

/-! ### State.holdHalf -/

@[simp] theorem State.holdHalf_dev (s : State) (j : Nat) : (s.holdHalf j).dev = s.dev := by unfold State.holdHalf; split <;> rfl
@[simp] theorem State.holdHalf_pending (s : State) (j : Nat) : (s.holdHalf j).pending = s.pending := by unfold State.holdHalf; split <;> rfl
@[simp] theorem State.holdHalf_regs (s : State) (j : Nat) : (s.holdHalf j).regs = s.regs := by unfold State.holdHalf; split <;> rfl
@[simp] theorem State.holdHalf_latch (s : State) (j : Nat) : (s.holdHalf j).latch = s.latch := by unfold State.holdHalf; split <;> rfl
@[simp] theorem State.holdHalf_staged (s : State) (j : Nat) : (s.holdHalf j).staged = s.staged := by unfold State.holdHalf; split <;> rfl
@[simp] theorem State.holdHalf_opened (s : State) (j : Nat) : (s.holdHalf j).opened = s.opened := by unfold State.holdHalf; split <;> rfl
@[simp] theorem State.holdHalf_exts (s : State) (j : Nat) : (s.holdHalf j).exts = s.exts := by unfold State.holdHalf; split <;> rfl
@[simp] theorem State.holdHalf_snap (s : State) (j : Nat) : (s.holdHalf j).snap = s.snap := by unfold State.holdHalf; split <;> rfl
@[simp] theorem State.holdHalf_tables (s : State) (j : Nat) : (s.holdHalf j).tables = s.tables := by unfold State.holdHalf; split <;> rfl
@[simp] theorem State.holdHalf_tabPoison (s : State) (j : Nat) : (s.holdHalf j).tabPoison = s.tabPoison := by unfold State.holdHalf; split <;> rfl
@[simp] theorem State.holdHalf_actives (s : State) (j : Nat) : (s.holdHalf j).actives = s.actives := by unfold State.holdHalf; split <;> rfl
@[simp] theorem State.holdHalf_cfgs (s : State) (j : Nat) : (s.holdHalf j).cfgs = s.cfgs := by unfold State.holdHalf; split <;> rfl
@[simp] theorem State.holdHalf_evq (s : State) (j : Nat) : (s.holdHalf j).evq = s.evq := by unfold State.holdHalf; split <;> rfl
@[simp] theorem State.holdHalf_evLoss (s : State) (j : Nat) : (s.holdHalf j).evLoss = s.evLoss := by unfold State.holdHalf; split <;> rfl
@[simp] theorem State.holdHalf_out (s : State) (j : Nat) : (s.holdHalf j).out = s.out := by unfold State.holdHalf; split <;> rfl
@[simp] theorem State.holdHalf_freeCtr (s : State) (j : Nat) : (s.holdHalf j).freeCtr = s.freeCtr := by unfold State.holdHalf; split <;> rfl
@[simp] theorem State.holdHalf_ticks (s : State) (j : Nat) : (s.holdHalf j).ticks = s.ticks := by unfold State.holdHalf; split <;> rfl
@[simp] theorem State.holdHalf_lanes (s : State) (j : Nat) : (s.holdHalf j).lanes = s.lanes := by unfold State.holdHalf; split <;> rfl
@[simp] theorem State.holdHalf_links (s : State) (j : Nat) : (s.holdHalf j).links = s.links := by unfold State.holdHalf; split <;> rfl
@[simp] theorem State.holdHalf_arr (s : State) (j : Nat) : (s.holdHalf j).arr = s.arr := by unfold State.holdHalf; split <;> rfl
@[simp] theorem State.holdHalf_dly (s : State) (j : Nat) : (s.holdHalf j).dly = s.dly := by unfold State.holdHalf; split <;> rfl
@[simp] theorem State.holdHalf_chn (s : State) (j : Nat) : (s.holdHalf j).chn = s.chn := by unfold State.holdHalf; split <;> rfl
@[simp] theorem State.holdHalf_dram (s : State) (j : Nat) : (s.holdHalf j).dram = s.dram := by unfold State.holdHalf; split <;> rfl
@[simp] theorem State.holdHalf_sward (s : State) (j : Nat) : (s.holdHalf j).sward = s.sward := by unfold State.holdHalf; split <;> rfl
@[simp] theorem State.holdHalf_bas (s : State) (j : Nat) : (s.holdHalf j).bas = s.bas := by unfold State.holdHalf; split <;> rfl
@[simp] theorem State.holdHalf_beam (s : State) (j : Nat) : (s.holdHalf j).beam = s.beam := by unfold State.holdHalf; split <;> rfl
@[simp] theorem State.holdHalf_gsvs (s : State) (j : Nat) : (s.holdHalf j).gsvs = s.gsvs := by unfold State.holdHalf; split <;> rfl
@[simp] theorem State.holdHalf_arms (s : State) (j : Nat) : (s.holdHalf j).arms = s.arms := by unfold State.holdHalf; split <;> rfl
@[simp] theorem State.holdHalf_pcie (s : State) (j : Nat) : (s.holdHalf j).pcie = s.pcie := by unfold State.holdHalf; split <;> rfl
@[simp] theorem State.holdHalf_tarn (s : State) (j : Nat) : (s.holdHalf j).tarn = s.tarn := by unfold State.holdHalf; split <;> rfl
@[simp] theorem State.holdHalf_tod (s : State) (j : Nat) : (s.holdHalf j).tod = s.tod := by unfold State.holdHalf; split <;> rfl
@[simp] theorem State.holdHalf_tune (s : State) (j : Nat) : (s.holdHalf j).tune = s.tune := by unfold State.holdHalf; split <;> rfl
@[simp] theorem State.holdHalf_well (s : State) (j : Nat) : (s.holdHalf j).well = s.well := by unfold State.holdHalf; split <;> rfl
@[simp] theorem State.holdHalf_flash (s : State) (j : Nat) : (s.holdHalf j).flash = s.flash := by unfold State.holdHalf; split <;> rfl
@[simp] theorem State.holdHalf_pwr (s : State) (j : Nat) : (s.holdHalf j).pwr = s.pwr := by unfold State.holdHalf; split <;> rfl
@[simp] theorem State.holdHalf_dma (s : State) (j : Nat) : (s.holdHalf j).dma = s.dma := by unfold State.holdHalf; split <;> rfl
@[simp] theorem State.holdHalf_mx (s : State) (j : Nat) : (s.holdHalf j).mx = s.mx := by unfold State.holdHalf; split <;> rfl
@[simp] theorem State.holdHalf_thermtrip (s : State) (j : Nat) : (s.holdHalf j).thermtrip = s.thermtrip := by unfold State.holdHalf; split <;> rfl
@[simp] theorem State.holdHalf_fld (s : State) (j : Nat) (f : Fld) : (s.holdHalf j).fld f = s.fld f := by unfold State.holdHalf; split <;> rfl
@[simp] theorem State.holdHalf_tab (s : State) (j : Nat) (o : Nat) : (s.holdHalf j).tab o = s.tab o := by unfold State.holdHalf; split <;> rfl

/-! ### State.freeHalf -/

@[simp] theorem State.freeHalf_dev (s : State) (j : Nat) : (s.freeHalf j).dev = s.dev := rfl
@[simp] theorem State.freeHalf_pending (s : State) (j : Nat) : (s.freeHalf j).pending = s.pending := rfl
@[simp] theorem State.freeHalf_regs (s : State) (j : Nat) : (s.freeHalf j).regs = s.regs := rfl
@[simp] theorem State.freeHalf_latch (s : State) (j : Nat) : (s.freeHalf j).latch = s.latch := rfl
@[simp] theorem State.freeHalf_staged (s : State) (j : Nat) : (s.freeHalf j).staged = s.staged := rfl
@[simp] theorem State.freeHalf_opened (s : State) (j : Nat) : (s.freeHalf j).opened = s.opened := rfl
@[simp] theorem State.freeHalf_exts (s : State) (j : Nat) : (s.freeHalf j).exts = s.exts := rfl
@[simp] theorem State.freeHalf_snap (s : State) (j : Nat) : (s.freeHalf j).snap = s.snap := rfl
@[simp] theorem State.freeHalf_tables (s : State) (j : Nat) : (s.freeHalf j).tables = s.tables := rfl
@[simp] theorem State.freeHalf_tabPoison (s : State) (j : Nat) : (s.freeHalf j).tabPoison = s.tabPoison := rfl
@[simp] theorem State.freeHalf_actives (s : State) (j : Nat) : (s.freeHalf j).actives = s.actives := rfl
@[simp] theorem State.freeHalf_cfgs (s : State) (j : Nat) : (s.freeHalf j).cfgs = s.cfgs := rfl
@[simp] theorem State.freeHalf_evq (s : State) (j : Nat) : (s.freeHalf j).evq = s.evq := rfl
@[simp] theorem State.freeHalf_evLoss (s : State) (j : Nat) : (s.freeHalf j).evLoss = s.evLoss := rfl
@[simp] theorem State.freeHalf_out (s : State) (j : Nat) : (s.freeHalf j).out = s.out := rfl
@[simp] theorem State.freeHalf_freeCtr (s : State) (j : Nat) : (s.freeHalf j).freeCtr = s.freeCtr := rfl
@[simp] theorem State.freeHalf_ticks (s : State) (j : Nat) : (s.freeHalf j).ticks = s.ticks := rfl
@[simp] theorem State.freeHalf_lanes (s : State) (j : Nat) : (s.freeHalf j).lanes = s.lanes := rfl
@[simp] theorem State.freeHalf_links (s : State) (j : Nat) : (s.freeHalf j).links = s.links := rfl
@[simp] theorem State.freeHalf_arr (s : State) (j : Nat) : (s.freeHalf j).arr = s.arr := rfl
@[simp] theorem State.freeHalf_dly (s : State) (j : Nat) : (s.freeHalf j).dly = s.dly := rfl
@[simp] theorem State.freeHalf_chn (s : State) (j : Nat) : (s.freeHalf j).chn = s.chn := rfl
@[simp] theorem State.freeHalf_dram (s : State) (j : Nat) : (s.freeHalf j).dram = s.dram := rfl
@[simp] theorem State.freeHalf_sward (s : State) (j : Nat) : (s.freeHalf j).sward = s.sward := rfl
@[simp] theorem State.freeHalf_bas (s : State) (j : Nat) : (s.freeHalf j).bas = s.bas := rfl
@[simp] theorem State.freeHalf_beam (s : State) (j : Nat) : (s.freeHalf j).beam = s.beam := rfl
@[simp] theorem State.freeHalf_gsvs (s : State) (j : Nat) : (s.freeHalf j).gsvs = s.gsvs := rfl
@[simp] theorem State.freeHalf_arms (s : State) (j : Nat) : (s.freeHalf j).arms = s.arms := rfl
@[simp] theorem State.freeHalf_pcie (s : State) (j : Nat) : (s.freeHalf j).pcie = s.pcie := rfl
@[simp] theorem State.freeHalf_tarn (s : State) (j : Nat) : (s.freeHalf j).tarn = s.tarn := rfl
@[simp] theorem State.freeHalf_tod (s : State) (j : Nat) : (s.freeHalf j).tod = s.tod := rfl
@[simp] theorem State.freeHalf_tune (s : State) (j : Nat) : (s.freeHalf j).tune = s.tune := rfl
@[simp] theorem State.freeHalf_well (s : State) (j : Nat) : (s.freeHalf j).well = s.well := rfl
@[simp] theorem State.freeHalf_flash (s : State) (j : Nat) : (s.freeHalf j).flash = s.flash := rfl
@[simp] theorem State.freeHalf_pwr (s : State) (j : Nat) : (s.freeHalf j).pwr = s.pwr := rfl
@[simp] theorem State.freeHalf_dma (s : State) (j : Nat) : (s.freeHalf j).dma = s.dma := rfl
@[simp] theorem State.freeHalf_mx (s : State) (j : Nat) : (s.freeHalf j).mx = s.mx := rfl
@[simp] theorem State.freeHalf_thermtrip (s : State) (j : Nat) : (s.freeHalf j).thermtrip = s.thermtrip := rfl
@[simp] theorem State.freeHalf_fld (s : State) (j : Nat) (f : Fld) : (s.freeHalf j).fld f = s.fld f := rfl
@[simp] theorem State.freeHalf_tab (s : State) (j : Nat) (o : Nat) : (s.freeHalf j).tab o = s.tab o := rfl

/-! ### State.setTrack -/

@[simp] theorem State.setTrack_dev (s : State) (n : Nat) (t : Option Track) : (s.setTrack n t).dev = s.dev := rfl
@[simp] theorem State.setTrack_pending (s : State) (n : Nat) (t : Option Track) : (s.setTrack n t).pending = s.pending := rfl
@[simp] theorem State.setTrack_regs (s : State) (n : Nat) (t : Option Track) : (s.setTrack n t).regs = s.regs := rfl
@[simp] theorem State.setTrack_latch (s : State) (n : Nat) (t : Option Track) : (s.setTrack n t).latch = s.latch := rfl
@[simp] theorem State.setTrack_staged (s : State) (n : Nat) (t : Option Track) : (s.setTrack n t).staged = s.staged := rfl
@[simp] theorem State.setTrack_opened (s : State) (n : Nat) (t : Option Track) : (s.setTrack n t).opened = s.opened := rfl
@[simp] theorem State.setTrack_exts (s : State) (n : Nat) (t : Option Track) : (s.setTrack n t).exts = s.exts := rfl
@[simp] theorem State.setTrack_snap (s : State) (n : Nat) (t : Option Track) : (s.setTrack n t).snap = s.snap := rfl
@[simp] theorem State.setTrack_tables (s : State) (n : Nat) (t : Option Track) : (s.setTrack n t).tables = s.tables := rfl
@[simp] theorem State.setTrack_tabPoison (s : State) (n : Nat) (t : Option Track) : (s.setTrack n t).tabPoison = s.tabPoison := rfl
@[simp] theorem State.setTrack_actives (s : State) (n : Nat) (t : Option Track) : (s.setTrack n t).actives = s.actives := rfl
@[simp] theorem State.setTrack_cfgs (s : State) (n : Nat) (t : Option Track) : (s.setTrack n t).cfgs = s.cfgs := rfl
@[simp] theorem State.setTrack_evq (s : State) (n : Nat) (t : Option Track) : (s.setTrack n t).evq = s.evq := rfl
@[simp] theorem State.setTrack_evLoss (s : State) (n : Nat) (t : Option Track) : (s.setTrack n t).evLoss = s.evLoss := rfl
@[simp] theorem State.setTrack_out (s : State) (n : Nat) (t : Option Track) : (s.setTrack n t).out = s.out := rfl
@[simp] theorem State.setTrack_freeCtr (s : State) (n : Nat) (t : Option Track) : (s.setTrack n t).freeCtr = s.freeCtr := rfl
@[simp] theorem State.setTrack_ticks (s : State) (n : Nat) (t : Option Track) : (s.setTrack n t).ticks = s.ticks := rfl
@[simp] theorem State.setTrack_lanes (s : State) (n : Nat) (t : Option Track) : (s.setTrack n t).lanes = s.lanes := rfl
@[simp] theorem State.setTrack_links (s : State) (n : Nat) (t : Option Track) : (s.setTrack n t).links = s.links := rfl
@[simp] theorem State.setTrack_arr (s : State) (n : Nat) (t : Option Track) : (s.setTrack n t).arr = s.arr := rfl
@[simp] theorem State.setTrack_dly (s : State) (n : Nat) (t : Option Track) : (s.setTrack n t).dly = s.dly := rfl
@[simp] theorem State.setTrack_chn (s : State) (n : Nat) (t : Option Track) : (s.setTrack n t).chn = s.chn := rfl
@[simp] theorem State.setTrack_mere (s : State) (n : Nat) (t : Option Track) : (s.setTrack n t).mere = s.mere := rfl
@[simp] theorem State.setTrack_sward (s : State) (n : Nat) (t : Option Track) : (s.setTrack n t).sward = s.sward := rfl
@[simp] theorem State.setTrack_bas (s : State) (n : Nat) (t : Option Track) : (s.setTrack n t).bas = s.bas := rfl
@[simp] theorem State.setTrack_beam (s : State) (n : Nat) (t : Option Track) : (s.setTrack n t).beam = s.beam := rfl
@[simp] theorem State.setTrack_gsvs (s : State) (n : Nat) (t : Option Track) : (s.setTrack n t).gsvs = s.gsvs := rfl
@[simp] theorem State.setTrack_arms (s : State) (n : Nat) (t : Option Track) : (s.setTrack n t).arms = s.arms := rfl
@[simp] theorem State.setTrack_pcie (s : State) (n : Nat) (t : Option Track) : (s.setTrack n t).pcie = s.pcie := rfl
@[simp] theorem State.setTrack_tarn (s : State) (n : Nat) (t : Option Track) : (s.setTrack n t).tarn = s.tarn := rfl
@[simp] theorem State.setTrack_tod (s : State) (n : Nat) (t : Option Track) : (s.setTrack n t).tod = s.tod := rfl
@[simp] theorem State.setTrack_tune (s : State) (n : Nat) (t : Option Track) : (s.setTrack n t).tune = s.tune := rfl
@[simp] theorem State.setTrack_well (s : State) (n : Nat) (t : Option Track) : (s.setTrack n t).well = s.well := rfl
@[simp] theorem State.setTrack_flash (s : State) (n : Nat) (t : Option Track) : (s.setTrack n t).flash = s.flash := rfl
@[simp] theorem State.setTrack_pwr (s : State) (n : Nat) (t : Option Track) : (s.setTrack n t).pwr = s.pwr := rfl
@[simp] theorem State.setTrack_dma (s : State) (n : Nat) (t : Option Track) : (s.setTrack n t).dma = s.dma := rfl
@[simp] theorem State.setTrack_mx (s : State) (n : Nat) (t : Option Track) : (s.setTrack n t).mx = s.mx := rfl
@[simp] theorem State.setTrack_thermtrip (s : State) (n : Nat) (t : Option Track) : (s.setTrack n t).thermtrip = s.thermtrip := rfl
@[simp] theorem State.setTrack_fld (s : State) (n : Nat) (t : Option Track) (f : Fld) : (s.setTrack n t).fld f = s.fld f := rfl
@[simp] theorem State.setTrack_tab (s : State) (n : Nat) (t : Option Track) (o : Nat) : (s.setTrack n t).tab o = s.tab o := rfl

/-! ### State.setDmaCh -/

@[simp] theorem State.setDmaCh_dev (s : State) (n : Nat) (c : DmaCh) : (s.setDmaCh n c).dev = s.dev := rfl
@[simp] theorem State.setDmaCh_pending (s : State) (n : Nat) (c : DmaCh) : (s.setDmaCh n c).pending = s.pending := rfl
@[simp] theorem State.setDmaCh_regs (s : State) (n : Nat) (c : DmaCh) : (s.setDmaCh n c).regs = s.regs := rfl
@[simp] theorem State.setDmaCh_latch (s : State) (n : Nat) (c : DmaCh) : (s.setDmaCh n c).latch = s.latch := rfl
@[simp] theorem State.setDmaCh_staged (s : State) (n : Nat) (c : DmaCh) : (s.setDmaCh n c).staged = s.staged := rfl
@[simp] theorem State.setDmaCh_opened (s : State) (n : Nat) (c : DmaCh) : (s.setDmaCh n c).opened = s.opened := rfl
@[simp] theorem State.setDmaCh_exts (s : State) (n : Nat) (c : DmaCh) : (s.setDmaCh n c).exts = s.exts := rfl
@[simp] theorem State.setDmaCh_snap (s : State) (n : Nat) (c : DmaCh) : (s.setDmaCh n c).snap = s.snap := rfl
@[simp] theorem State.setDmaCh_tables (s : State) (n : Nat) (c : DmaCh) : (s.setDmaCh n c).tables = s.tables := rfl
@[simp] theorem State.setDmaCh_tabPoison (s : State) (n : Nat) (c : DmaCh) : (s.setDmaCh n c).tabPoison = s.tabPoison := rfl
@[simp] theorem State.setDmaCh_actives (s : State) (n : Nat) (c : DmaCh) : (s.setDmaCh n c).actives = s.actives := rfl
@[simp] theorem State.setDmaCh_cfgs (s : State) (n : Nat) (c : DmaCh) : (s.setDmaCh n c).cfgs = s.cfgs := rfl
@[simp] theorem State.setDmaCh_evq (s : State) (n : Nat) (c : DmaCh) : (s.setDmaCh n c).evq = s.evq := rfl
@[simp] theorem State.setDmaCh_evLoss (s : State) (n : Nat) (c : DmaCh) : (s.setDmaCh n c).evLoss = s.evLoss := rfl
@[simp] theorem State.setDmaCh_out (s : State) (n : Nat) (c : DmaCh) : (s.setDmaCh n c).out = s.out := rfl
@[simp] theorem State.setDmaCh_freeCtr (s : State) (n : Nat) (c : DmaCh) : (s.setDmaCh n c).freeCtr = s.freeCtr := rfl
@[simp] theorem State.setDmaCh_ticks (s : State) (n : Nat) (c : DmaCh) : (s.setDmaCh n c).ticks = s.ticks := rfl
@[simp] theorem State.setDmaCh_lanes (s : State) (n : Nat) (c : DmaCh) : (s.setDmaCh n c).lanes = s.lanes := rfl
@[simp] theorem State.setDmaCh_links (s : State) (n : Nat) (c : DmaCh) : (s.setDmaCh n c).links = s.links := rfl
@[simp] theorem State.setDmaCh_arr (s : State) (n : Nat) (c : DmaCh) : (s.setDmaCh n c).arr = s.arr := rfl
@[simp] theorem State.setDmaCh_dly (s : State) (n : Nat) (c : DmaCh) : (s.setDmaCh n c).dly = s.dly := rfl
@[simp] theorem State.setDmaCh_chn (s : State) (n : Nat) (c : DmaCh) : (s.setDmaCh n c).chn = s.chn := rfl
@[simp] theorem State.setDmaCh_dram (s : State) (n : Nat) (c : DmaCh) : (s.setDmaCh n c).dram = s.dram := rfl
@[simp] theorem State.setDmaCh_mere (s : State) (n : Nat) (c : DmaCh) : (s.setDmaCh n c).mere = s.mere := rfl
@[simp] theorem State.setDmaCh_sward (s : State) (n : Nat) (c : DmaCh) : (s.setDmaCh n c).sward = s.sward := rfl
@[simp] theorem State.setDmaCh_bas (s : State) (n : Nat) (c : DmaCh) : (s.setDmaCh n c).bas = s.bas := rfl
@[simp] theorem State.setDmaCh_beam (s : State) (n : Nat) (c : DmaCh) : (s.setDmaCh n c).beam = s.beam := rfl
@[simp] theorem State.setDmaCh_gsvs (s : State) (n : Nat) (c : DmaCh) : (s.setDmaCh n c).gsvs = s.gsvs := rfl
@[simp] theorem State.setDmaCh_arms (s : State) (n : Nat) (c : DmaCh) : (s.setDmaCh n c).arms = s.arms := rfl
@[simp] theorem State.setDmaCh_pcie (s : State) (n : Nat) (c : DmaCh) : (s.setDmaCh n c).pcie = s.pcie := rfl
@[simp] theorem State.setDmaCh_tarn (s : State) (n : Nat) (c : DmaCh) : (s.setDmaCh n c).tarn = s.tarn := rfl
@[simp] theorem State.setDmaCh_tod (s : State) (n : Nat) (c : DmaCh) : (s.setDmaCh n c).tod = s.tod := rfl
@[simp] theorem State.setDmaCh_tune (s : State) (n : Nat) (c : DmaCh) : (s.setDmaCh n c).tune = s.tune := rfl
@[simp] theorem State.setDmaCh_well (s : State) (n : Nat) (c : DmaCh) : (s.setDmaCh n c).well = s.well := rfl
@[simp] theorem State.setDmaCh_flash (s : State) (n : Nat) (c : DmaCh) : (s.setDmaCh n c).flash = s.flash := rfl
@[simp] theorem State.setDmaCh_pwr (s : State) (n : Nat) (c : DmaCh) : (s.setDmaCh n c).pwr = s.pwr := rfl
@[simp] theorem State.setDmaCh_mx (s : State) (n : Nat) (c : DmaCh) : (s.setDmaCh n c).mx = s.mx := rfl
@[simp] theorem State.setDmaCh_thermtrip (s : State) (n : Nat) (c : DmaCh) : (s.setDmaCh n c).thermtrip = s.thermtrip := rfl
@[simp] theorem State.setDmaCh_fld (s : State) (n : Nat) (c : DmaCh) (f : Fld) : (s.setDmaCh n c).fld f = s.fld f := rfl
@[simp] theorem State.setDmaCh_tab (s : State) (n : Nat) (c : DmaCh) (o : Nat) : (s.setDmaCh n c).tab o = s.tab o := rfl

/-! ### State.closeKey -/

@[simp] theorem State.closeKey_dev (s : State) (π : Path) (p : Page) : (s.closeKey π p).dev = s.dev := rfl
@[simp] theorem State.closeKey_pending (s : State) (π : Path) (p : Page) : (s.closeKey π p).pending = s.pending := rfl
@[simp] theorem State.closeKey_regs (s : State) (π : Path) (p : Page) : (s.closeKey π p).regs = s.regs := rfl
@[simp] theorem State.closeKey_latch (s : State) (π : Path) (p : Page) : (s.closeKey π p).latch = s.latch := rfl
@[simp] theorem State.closeKey_staged (s : State) (π : Path) (p : Page) : (s.closeKey π p).staged = s.staged := rfl
@[simp] theorem State.closeKey_exts (s : State) (π : Path) (p : Page) : (s.closeKey π p).exts = s.exts := rfl
@[simp] theorem State.closeKey_snap (s : State) (π : Path) (p : Page) : (s.closeKey π p).snap = s.snap := rfl
@[simp] theorem State.closeKey_tables (s : State) (π : Path) (p : Page) : (s.closeKey π p).tables = s.tables := rfl
@[simp] theorem State.closeKey_tabPoison (s : State) (π : Path) (p : Page) : (s.closeKey π p).tabPoison = s.tabPoison := rfl
@[simp] theorem State.closeKey_actives (s : State) (π : Path) (p : Page) : (s.closeKey π p).actives = s.actives := rfl
@[simp] theorem State.closeKey_cfgs (s : State) (π : Path) (p : Page) : (s.closeKey π p).cfgs = s.cfgs := rfl
@[simp] theorem State.closeKey_evq (s : State) (π : Path) (p : Page) : (s.closeKey π p).evq = s.evq := rfl
@[simp] theorem State.closeKey_evLoss (s : State) (π : Path) (p : Page) : (s.closeKey π p).evLoss = s.evLoss := rfl
@[simp] theorem State.closeKey_out (s : State) (π : Path) (p : Page) : (s.closeKey π p).out = s.out := rfl
@[simp] theorem State.closeKey_freeCtr (s : State) (π : Path) (p : Page) : (s.closeKey π p).freeCtr = s.freeCtr := rfl
@[simp] theorem State.closeKey_ticks (s : State) (π : Path) (p : Page) : (s.closeKey π p).ticks = s.ticks := rfl
@[simp] theorem State.closeKey_lanes (s : State) (π : Path) (p : Page) : (s.closeKey π p).lanes = s.lanes := rfl
@[simp] theorem State.closeKey_links (s : State) (π : Path) (p : Page) : (s.closeKey π p).links = s.links := rfl
@[simp] theorem State.closeKey_arr (s : State) (π : Path) (p : Page) : (s.closeKey π p).arr = s.arr := rfl
@[simp] theorem State.closeKey_dly (s : State) (π : Path) (p : Page) : (s.closeKey π p).dly = s.dly := rfl
@[simp] theorem State.closeKey_chn (s : State) (π : Path) (p : Page) : (s.closeKey π p).chn = s.chn := rfl
@[simp] theorem State.closeKey_dram (s : State) (π : Path) (p : Page) : (s.closeKey π p).dram = s.dram := rfl
@[simp] theorem State.closeKey_mere (s : State) (π : Path) (p : Page) : (s.closeKey π p).mere = s.mere := rfl
@[simp] theorem State.closeKey_sward (s : State) (π : Path) (p : Page) : (s.closeKey π p).sward = s.sward := rfl
@[simp] theorem State.closeKey_bas (s : State) (π : Path) (p : Page) : (s.closeKey π p).bas = s.bas := rfl
@[simp] theorem State.closeKey_beam (s : State) (π : Path) (p : Page) : (s.closeKey π p).beam = s.beam := rfl
@[simp] theorem State.closeKey_gsvs (s : State) (π : Path) (p : Page) : (s.closeKey π p).gsvs = s.gsvs := rfl
@[simp] theorem State.closeKey_arms (s : State) (π : Path) (p : Page) : (s.closeKey π p).arms = s.arms := rfl
@[simp] theorem State.closeKey_pcie (s : State) (π : Path) (p : Page) : (s.closeKey π p).pcie = s.pcie := rfl
@[simp] theorem State.closeKey_tarn (s : State) (π : Path) (p : Page) : (s.closeKey π p).tarn = s.tarn := rfl
@[simp] theorem State.closeKey_tod (s : State) (π : Path) (p : Page) : (s.closeKey π p).tod = s.tod := rfl
@[simp] theorem State.closeKey_tune (s : State) (π : Path) (p : Page) : (s.closeKey π p).tune = s.tune := rfl
@[simp] theorem State.closeKey_well (s : State) (π : Path) (p : Page) : (s.closeKey π p).well = s.well := rfl
@[simp] theorem State.closeKey_flash (s : State) (π : Path) (p : Page) : (s.closeKey π p).flash = s.flash := rfl
@[simp] theorem State.closeKey_pwr (s : State) (π : Path) (p : Page) : (s.closeKey π p).pwr = s.pwr := rfl
@[simp] theorem State.closeKey_dma (s : State) (π : Path) (p : Page) : (s.closeKey π p).dma = s.dma := rfl
@[simp] theorem State.closeKey_mx (s : State) (π : Path) (p : Page) : (s.closeKey π p).mx = s.mx := rfl
@[simp] theorem State.closeKey_thermtrip (s : State) (π : Path) (p : Page) : (s.closeKey π p).thermtrip = s.thermtrip := rfl
@[simp] theorem State.closeKey_fld (s : State) (π : Path) (p : Page) (f : Fld) : (s.closeKey π p).fld f = s.fld f := rfl
@[simp] theorem State.closeKey_tab (s : State) (π : Path) (p : Page) (o : Nat) : (s.closeKey π p).tab o = s.tab o := rfl

/-! ### Reading fields and table words of an updated state -/

/-- A register field of a state that differs in other fields alone. -/
@[simp] theorem State.fld_mk (s : State) {pending : List Instr} {latch : SMap Nat} {staged : SMap Nat} {opened : List Nat} {exts : List Nat} {snap : SnapSt} {tables : SMap Nat} {tabPoison : List Nat} {actives : List ActSet} {cfgs : List Cfg} {evq : List Ev} {evLoss : Nat} {out : List Out} {freeCtr : Nat} {ticks : Nat} {lanes : SMap LaneSt} {links : SMap LinkSt} {arr : ArrSt} {dly : DlySt} {chn : ChnSt} {dram : DramSt} {mere : MereSt} {sward : SwardSt} {bas : BasSt} {beam : BeamSt} {gsvs : SMap GsvSt} {arms : ArmsSt} {pcie : PcieSt} {tarn : TarnSt} {tod : TodSt} {tune : TuneSt} {well : WellSt} {flash : FlashSt} {pwr : PwrSt} {dma : DmaSt} {mx : MxSt} {thermtrip : Bool} (f : Fld) :
    State.fld (State.mk s.dev pending s.regs latch staged opened exts snap tables tabPoison actives cfgs evq evLoss out freeCtr ticks lanes links arr dly chn dram mere sward bas beam gsvs arms pcie tarn tod tune well flash pwr dma mx thermtrip) f = s.fld f := rfl

/-- A table word of a state that differs in other fields alone. -/
@[simp] theorem State.tab_mk (s : State) {dev : Dev} {pending : List Instr} {regs : SMap Nat} {latch : SMap Nat} {staged : SMap Nat} {opened : List Nat} {exts : List Nat} {snap : SnapSt} {tabPoison : List Nat} {actives : List ActSet} {cfgs : List Cfg} {evq : List Ev} {evLoss : Nat} {out : List Out} {freeCtr : Nat} {ticks : Nat} {lanes : SMap LaneSt} {links : SMap LinkSt} {arr : ArrSt} {dly : DlySt} {chn : ChnSt} {dram : DramSt} {mere : MereSt} {sward : SwardSt} {bas : BasSt} {beam : BeamSt} {gsvs : SMap GsvSt} {arms : ArmsSt} {pcie : PcieSt} {tarn : TarnSt} {tod : TodSt} {tune : TuneSt} {well : WellSt} {flash : FlashSt} {pwr : PwrSt} {dma : DmaSt} {mx : MxSt} {thermtrip : Bool} (o : Nat) :
    State.tab (State.mk dev pending regs latch staged opened exts snap s.tables tabPoison actives cfgs evq evLoss out freeCtr ticks lanes links arr dly chn dram mere sward bas beam gsvs arms pcie tarn tod tune well flash pwr dma mx thermtrip) o = s.tab o := rfl

end Sys2Proof.Machine
end

