-- ==== Sys2Proof/Laws/Ops.lean ====
section
/-! SUPPORT. The shared operations: what each does, once, for later proofs to cite. -/

namespace Sys2Proof.Machine

/-! ### Register fields -/

/-- Two fields of different registers have different keys. -/
theorem Fld.key_ne_of_off {f g : Fld} (h : f.off ≠ g.off) (hf : f.lo < 64) (hg : g.lo < 64) : f.key ≠ g.key := by
  unfold Fld.key; omega

/-- A field just written holds the value, cut to its width. -/
@[simp] theorem State.fld_setFld_same (s : State) (f : Fld) (v : Nat) : (s.setFld f v).fld f = v % 2 ^ f.w := by
  unfold State.fld State.setFld
  exact SMap.get_put_same _ _ _ _

/-- A field just written with a value that fits. -/
theorem State.fld_setFld_val (s : State) (f : Fld) (v : Nat) (h : v < 2 ^ f.w) : (s.setFld f v).fld f = v := by
  rw [State.fld_setFld_same]
  exact Nat.mod_eq_of_lt h

/-- A write of a field leaves every other. -/
theorem State.fld_setFld_ne (s : State) {f g : Fld} (v : Nat) (h : g.key ≠ f.key) : (s.setFld f v).fld g = s.fld g := by
  unfold State.fld State.setFld
  exact SMap.get_put_ne _ _ _ _ h

/-- A write of a flag leaves every other field. -/
theorem State.fld_setBit_ne (s : State) {f g : Fld} (b : Bool) (h : g.key ≠ f.key) : (s.setBit f b).fld g = s.fld g :=
  s.fld_setFld_ne _ h

/-- A flag just written. -/
theorem State.fld_setBit_same (s : State) (f : Fld) (b : Bool) : (s.setBit f b).fld f = (if b then 1 else 0) % 2 ^ f.w :=
  s.fld_setFld_same f _

/-- A flag just written, in a field of some width. -/
theorem State.fld_setBit_val (s : State) (f : Fld) (b : Bool) (h : 0 < f.w) : (s.setBit f b).fld f = if b then 1 else 0 := by
  have h2 : 1 < 2 ^ f.w := Nat.one_lt_two_pow (by omega)
  refine s.fld_setFld_val f _ ?_
  split <;> omega

/-- A counter's advance leaves every other field. -/
theorem State.fld_addFld_ne (s : State) {f g : Fld} (n : Nat) (h : g.key ≠ f.key) : (s.addFld f n).fld g = s.fld g :=
  s.fld_setFld_ne _ h

/-- A counter advances modulo its width (R10). -/
@[simp] theorem State.fld_addFld_same (s : State) (f : Fld) (n : Nat) : (s.addFld f n).fld f = (s.fld f + n) % 2 ^ f.w :=
  s.fld_setFld_same f _

/-- A present-state count's reduction leaves every other field. -/
theorem State.fld_subFld_ne (s : State) {f g : Fld} (n : Nat) (h : g.key ≠ f.key) : (s.subFld f n).fld g = s.fld g :=
  s.fld_setFld_ne _ h

/-! ### Table words -/

/-- A table word just written. -/
@[simp] theorem State.tab_setTab_same (s : State) (o v : Nat) : (s.setTab o v).tab o = v % m32 := by
  unfold State.tab State.setTab
  exact SMap.get_put_same _ _ _ _

/-- A write of a table word leaves every other. -/
theorem State.tab_setTab_ne (s : State) {o q : Nat} (v : Nat) (h : q ≠ o) : (s.setTab o v).tab q = s.tab q := by
  unfold State.tab State.setTab
  exact SMap.get_put_ne _ _ _ _ h

/-! ### Interrupts and MSI-X -/

/-- Sending a message changes no register field. -/
@[simp] theorem State.fld_sendMsix (s : State) (v : Nat) (f : Fld) : (s.sendMsix v).fld f = s.fld f := by
  unfold State.sendMsix State.setPba
  split
  · split <;> rfl
  · rfl

/-- The edge of a page's interrupt request changes no register field. -/
@[simp] theorem State.fld_irqEdge (old s : State) (p : Page) (f : Fld) : (State.irqEdge old s p).fld f = s.fld f := by
  unfold State.irqEdge
  split
  · exact State.fld_sendMsix _ _ _
  · rfl

/-- A source event changes PG_IRQ_RAW of its page alone. -/
theorem State.fld_raise_ne (s : State) (p : Page) (n : Nat) {f : Fld} (h : f.key ≠ (R.PG_IRQ_RAW p).key) :
    (s.raise p n).fld f = s.fld f := by
  unfold State.raise
  rw [State.fld_irqEdge]
  exact State.fld_setFld_ne _ _ h

/-- A source event sets its bit of PG_IRQ_RAW (R376). -/
theorem State.fld_raise_same (s : State) (p : Page) (n : Nat) :
    (s.raise p n).fld (R.PG_IRQ_RAW p) = putBit (s.fld (R.PG_IRQ_RAW p)) n true % 2 ^ 32 := by
  unfold State.raise
  rw [State.fld_irqEdge]
  exact State.fld_setFld_same _ _ _

/-! ### Events -/

/-- An event changes register fields of the event page alone. -/
theorem State.fld_event_off (s : State) (e : Ev) {f : Fld} (h : f.off < 0x300000 ∨ 0x300100 ≤ f.off) (hl : f.lo < 64) :
    (s.event e).fld f = s.fld f := by
  have key : ∀ q : Fld, 0x300000 ≤ q.off → q.off < 0x300100 → q.lo < 64 → f.key ≠ q.key := fun q h1 h2 h3 =>
    Fld.key_ne_of_off (by omega) hl h3
  unfold State.event
  split
  · rfl
  · unfold State.dropEvent
    dsimp only
    rw [State.fld_raise_ne _ _ _ (key _ (by decide) (by decide) (by decide))]
    rw [State.fld_mk, State.fld_setFld_ne _ _ (key _ (by decide) (by decide) (by decide)),
      State.fld_addFld_ne _ _ (key _ (by decide) (by decide) (by decide)),
      State.fld_addFld_ne _ _ (key _ (by decide) (by decide) (by decide))]

/-- An informational event changes register fields of the event page alone. -/
theorem State.fld_info_off (s : State) (p : Page) (low : Nat) (l : Option Nat) (a0 a1 a2 a3 : Nat) {f : Fld}
    (h : f.off < 0x300000 ∨ 0x300100 ≤ f.off) (hl : f.lo < 64) : (s.info p low l a0 a1 a2 a3).fld f = s.fld f :=
  s.fld_event_off _ h hl

/-- Recording an error changes the error registers of its page and the event page alone. -/
theorem State.fld_error_off (s : State) (p : Page) (code pass chan : Nat) (l : Option Nat) {f : Fld}
    (h : f.off < 0x300000 ∨ 0x300100 ≤ f.off) (hl : f.lo < 64) (hp : f.off < p.base + 0x20 ∨ p.base + 0x2C ≤ f.off) :
    (s.error p code pass chan l).fld f = s.fld f := by
  have key : ∀ q : Fld, p.base + 0x20 ≤ q.off → q.off < p.base + 0x2C → q.lo < 64 → f.key ≠ q.key := fun q h1 h2 h3 =>
    Fld.key_ne_of_off (by omega) hl h3
  have k20 : f.key ≠ (R.PG_ERR_CODE_CODE p).key := key _ (by simp [R.PG_ERR_CODE_CODE]) (by simp [R.PG_ERR_CODE_CODE]) (by simp [R.PG_ERR_CODE_CODE])
  have k20v : f.key ≠ (R.PG_ERR_CODE_VALID p).key := key _ (by simp [R.PG_ERR_CODE_VALID]) (by simp [R.PG_ERR_CODE_VALID]) (by simp [R.PG_ERR_CODE_VALID])
  have k24 : f.key ≠ (R.PG_ERR_SEQ_FRAME p).key := key _ (by simp [R.PG_ERR_SEQ_FRAME]) (by simp [R.PG_ERR_SEQ_FRAME]) (by simp [R.PG_ERR_SEQ_FRAME])
  have k28 : f.key ≠ (R.PG_ERR_CNT_COUNT p).key := key _ (by simp [R.PG_ERR_CNT_COUNT]) (by simp [R.PG_ERR_CNT_COUNT]) (by simp [R.PG_ERR_CNT_COUNT])
  unfold State.error State.tileError
  dsimp only
  rw [State.fld_event_off _ _ h hl]
  split
  · exact State.fld_addFld_ne _ _ k28
  · rw [State.fld_setFld_ne _ _ k24, State.fld_setFld_ne _ _ k20v, State.fld_setFld_ne _ _ k20, State.fld_addFld_ne _ _ k28]

/-- An error counts once (R376, R434). -/
theorem State.fld_error_cnt (s : State) (p : Page) (code pass chan : Nat) (l : Option Nat) (h : p.base + 0x28 < 0x300000 ∨ 0x300100 ≤ p.base + 0x28) :
    (s.error p code pass chan l).fld (R.PG_ERR_CNT_COUNT p) = (s.fld (R.PG_ERR_CNT_COUNT p) + 1) % 2 ^ 32 := by
  have key : ∀ q : Fld, q.off < p.base + 0x28 → q.lo < 64 → (R.PG_ERR_CNT_COUNT p).key ≠ q.key := fun q h1 h3 =>
    Fld.key_ne_of_off (Ne.symm (Nat.ne_of_lt h1)) (by decide : (0 : Nat) < 64) h3
  have k20 : (R.PG_ERR_CNT_COUNT p).key ≠ (R.PG_ERR_CODE_CODE p).key := key _ (by simp [R.PG_ERR_CODE_CODE]) (by simp [R.PG_ERR_CODE_CODE])
  have k20v : (R.PG_ERR_CNT_COUNT p).key ≠ (R.PG_ERR_CODE_VALID p).key := key _ (by simp [R.PG_ERR_CODE_VALID]) (by simp [R.PG_ERR_CODE_VALID])
  have k24 : (R.PG_ERR_CNT_COUNT p).key ≠ (R.PG_ERR_SEQ_FRAME p).key := key _ (by simp [R.PG_ERR_SEQ_FRAME]) (by simp [R.PG_ERR_SEQ_FRAME])
  unfold State.error State.tileError
  dsimp only
  rw [State.fld_event_off _ _ h (by decide : (0 : Nat) < 64)]
  split
  · exact State.fld_addFld_same _ _ _
  · rw [State.fld_setFld_ne _ _ k24, State.fld_setFld_ne _ _ k20v, State.fld_setFld_ne _ _ k20]
    exact State.fld_addFld_same _ _ _

/-- An error recorded while none stands: its code (R375). -/
theorem State.fld_error_code (s : State) (p : Page) (code pass chan : Nat) (l : Option Nat) (h : p.base + 0x20 < 0x300000 ∨ 0x300100 ≤ p.base + 0x20)
    (hc : code < 2 ^ 8) (hv : s.fld (R.PG_ERR_CODE_VALID p) = 0) : (s.error p code pass chan l).fld (R.PG_ERR_CODE_CODE p) = code := by
  have key : ∀ q : Fld, p.base + 0x20 < q.off → q.lo < 64 → (R.PG_ERR_CODE_CODE p).key ≠ q.key := fun q h1 h3 =>
    Fld.key_ne_of_off (Nat.ne_of_lt h1) (by decide : (0 : Nat) < 64) h3
  have kv : (R.PG_ERR_CODE_CODE p).key ≠ (R.PG_ERR_CODE_VALID p).key := by simp only [Fld.key, R.PG_ERR_CODE_CODE, R.PG_ERR_CODE_VALID]; omega
  have k28 : (R.PG_ERR_CODE_VALID p).key ≠ (R.PG_ERR_CNT_COUNT p).key := by simp only [Fld.key, R.PG_ERR_CNT_COUNT, R.PG_ERR_CODE_VALID]; omega
  unfold State.error State.tileError
  dsimp only
  rw [State.fld_event_off _ _ h (by decide : (0 : Nat) < 64)]
  unfold State.bit
  rw [State.fld_addFld_ne _ _ k28, hv]
  simp only [bne_self_eq_false, Bool.false_eq_true, if_false]
  rw [State.fld_setFld_ne _ _ (key _ (by simp [R.PG_ERR_SEQ_FRAME]) (by simp [R.PG_ERR_SEQ_FRAME])), State.fld_setFld_ne _ _ kv,
    State.fld_setFld_val _ _ _ hc]

/-- An error recorded while none stands: VALID (R375). -/
theorem State.fld_error_valid (s : State) (p : Page) (code pass chan : Nat) (l : Option Nat) (h : p.base + 0x20 < 0x300000 ∨ 0x300100 ≤ p.base + 0x20)
    (hv : s.fld (R.PG_ERR_CODE_VALID p) = 0) : (s.error p code pass chan l).fld (R.PG_ERR_CODE_VALID p) = 1 := by
  have k24 : (R.PG_ERR_CODE_VALID p).key ≠ (R.PG_ERR_SEQ_FRAME p).key := by simp only [Fld.key, R.PG_ERR_SEQ_FRAME, R.PG_ERR_CODE_VALID]; omega
  have k28 : (R.PG_ERR_CODE_VALID p).key ≠ (R.PG_ERR_CNT_COUNT p).key := by simp only [Fld.key, R.PG_ERR_CNT_COUNT, R.PG_ERR_CODE_VALID]; omega
  unfold State.error State.tileError
  dsimp only
  rw [State.fld_event_off _ _ h (by simp [R.PG_ERR_CODE_VALID])]
  unfold State.bit
  rw [State.fld_addFld_ne _ _ k28, hv]
  simp only [bne_self_eq_false, Bool.false_eq_true, if_false]
  rw [State.fld_setFld_ne _ _ k24, State.fld_setFld_val _ _ _ (by simp [R.PG_ERR_CODE_VALID])]

end Sys2Proof.Machine
end

