-- ==== Sys2Proof/Laws/Frame.lean ====
section
/-! SUPPORT. Frames: how each shared operation extends one, and what a served host command does. -/

namespace Sys2Proof.Machine

variable {s t : State} {reg win : Nat → Prop}

/-- Nothing changed. -/
theorem Frame.refl (s : State) (reg win : Nat → Prop) : Frame s s reg win :=
  ⟨fun _ _ => rfl, fun _ _ => rfl, fun _ => rfl⟩

/-- One change after another. -/
theorem Frame.trans {u : State} (h : Frame s t reg win) (h' : Frame t u reg win) : Frame s u reg win :=
  ⟨fun f hf => (h'.1 f hf).trans (h.1 f hf), fun o ho => (h'.2.1 o ho).trans (h.2.1 o ho),
    fun p => (h'.2.2 p).trans (h.2.2 p)⟩

/-- A frame with more room. -/
theorem Frame.mono {reg' win' : Nat → Prop} (h : Frame s t reg win) (hr : ∀ k, reg k → reg' k) (hw : ∀ o, win o → win' o) :
    Frame s t reg' win' :=
  ⟨fun f hf => h.1 f (fun c => hf (hr _ c)), fun o ho => h.2.1 o (fun c => ho (hw _ c)), h.2.2⟩

/-- What is not a register field, a window word or memory lies outside a frame. -/
theorem Frame.same {u : State} (h : Frame s t reg win) (hd : u.dev = t.dev) (hr : u.regs = t.regs) (ht : u.tables = t.tables)
    (hm : u.dram = t.dram) : Frame s u reg win := by
  refine ⟨fun f hf => ?_, fun o ho => ?_, fun p => ?_⟩
  · rw [← h.1 f hf]; simp only [State.fld, hd, hr]
  · rw [← h.2.1 o ho]; simp only [State.tab, ht]
  · rw [← h.2.2 p, hm]

theorem Frame.setFld (h : Frame s t reg win) {f : Fld} (v : Nat) (hf : reg f.key) : Frame s (t.setFld f v) reg win :=
  ⟨fun g hg => (t.fld_setFld_ne (f := f) (g := g) v (fun e => hg (by rw [e]; exact hf))).trans (h.1 g hg), h.2.1, h.2.2⟩

theorem Frame.setBit (h : Frame s t reg win) {f : Fld} (b : Bool) (hf : reg f.key) : Frame s (t.setBit f b) reg win :=
  h.setFld _ hf

theorem Frame.addFld (h : Frame s t reg win) {f : Fld} (n : Nat) (hf : reg f.key) : Frame s (t.addFld f n) reg win :=
  h.setFld _ hf

theorem Frame.subFld (h : Frame s t reg win) {f : Fld} (n : Nat) (hf : reg f.key) : Frame s (t.subFld f n) reg win :=
  h.setFld _ hf

theorem Frame.maxFld (h : Frame s t reg win) {f : Fld} (v : Nat) (hf : reg f.key) : Frame s (t.maxFld f v) reg win := by
  unfold State.maxFld
  split
  · exact h.setFld _ hf
  · exact (h.setFld v hf).same rfl rfl rfl rfl

theorem Frame.minFld (h : Frame s t reg win) {f : Fld} (v : Nat) (hf : reg f.key) : Frame s (t.minFld f v) reg win := by
  unfold State.minFld
  split
  · exact h.setFld _ hf
  · exact (h.setFld v hf).same rfl rfl rfl rfl

theorem Frame.setTab (h : Frame s t reg win) {o : Nat} (v : Nat) (ho : win o) : Frame s (t.setTab o v) reg win :=
  ⟨h.1, fun q hq => (t.tab_setTab_ne v (fun e => hq (by rw [e]; exact ho))).trans (h.2.1 q hq), h.2.2⟩

theorem Frame.sendMsix (h : Frame s t reg win) (v : Nat) (hv : v < 2048) (hw : ∀ o, PbaWords o → win o) : Frame s (t.sendMsix v) reg win := by
  unfold State.sendMsix
  split
  · split
    · exact h.setTab _ (hw _ ⟨by omega, by omega⟩)
    · exact h.same rfl rfl rfl rfl
  · exact h

theorem Frame.irqEdge (old : State) (h : Frame s t reg win) (p : Page) (hw : ∀ o, PbaWords o → win o) :
    Frame s (State.irqEdge old t p) reg win := by
  unfold State.irqEdge
  split
  · exact h.sendMsix _ (Nat.mod_lt _ (by decide)) hw
  · exact h

theorem Frame.raise (h : Frame s t reg win) (p : Page) (n : Nat) (hf : reg (R.PG_IRQ_RAW p).key) (hw : ∀ o, PbaWords o → win o) :
    Frame s (t.raise p n) reg win :=
  Frame.irqEdge _ (h.setFld _ hf) p hw

/-- The keys of the event page, by their register's offset. -/
theorem evtKey (f : Fld) (h : 0x300000 ≤ f.key / 64) (h' : f.key / 64 < 0x301000) : PageKeys evtPg f.key := by
  have hb : evtPg.base = 0x300000 := by rfl
  unfold PageKeys
  rw [hb]
  exact ⟨h, h'⟩

theorem Frame.loss (h : Frame s t reg win) (n : Nat) : Frame s { t with evLoss := n } reg win :=
  h.same rfl rfl rfl rfl

/-- An event changes registers of the event page alone. -/
theorem Frame.event (h : Frame s t reg win) (e : Ev) (hf : ∀ k, PageKeys evtPg k → reg k) (hw : ∀ o, PbaWords o → win o) :
    Frame s (t.event e) reg win := by
  unfold State.event
  split
  · exact h.same rfl rfl rfl rfl
  · have h1 := h.addFld (f := R.EVT_GEN) 1 (hf _ (evtKey _ (by decide) (by decide)))
    have h2 := h1.addFld (f := R.EVT_DROPPED) 1 (hf _ (evtKey _ (by decide) (by decide)))
    have h3 := h2.setFld (f := R.EVT_STAT_DROPPED) 1 (hf _ (evtKey _ (by decide) (by decide)))
    have h4 := (h3.loss (min 255 (t.evLoss + 1))).raise evtPg 1 (hf _ (evtKey _ (by decide) (by decide))) hw
    exact h4

theorem Frame.info (h : Frame s t reg win) (p : Page) (low : Nat) (l : Option Nat) (a b c d : Nat) (hf : ∀ k, PageKeys evtPg k → reg k)
    (hw : ∀ o, PbaWords o → win o) : Frame s (t.info p low l a b c d) reg win :=
  h.event _ hf hw

/-- An error changes the error registers of its page and registers of the event page. -/
theorem Frame.error (h : Frame s t reg win) (p : Page) (code pass chan : Nat) (l : Option Nat)
    (hp : ∀ k, Keys [R.PG_ERR_CNT_COUNT p, R.PG_ERR_CODE_CODE p, R.PG_ERR_CODE_VALID p, R.PG_ERR_SEQ_FRAME p] k → reg k)
    (hf : ∀ k, PageKeys evtPg k → reg k) (hw : ∀ o, PbaWords o → win o) : Frame s (t.error p code pass chan l) reg win := by
  unfold State.error State.tileError
  dsimp only
  refine Frame.event ?_ _ hf hw
  have h1 := h.addFld (f := R.PG_ERR_CNT_COUNT p) 1 (hp _ (by simp [Keys]))
  split
  · exact h1
  · exact ((h1.setFld _ (hp _ (by simp [Keys]))).setFld _ (hp _ (by simp [Keys]))).setFld _ (hp _ (by simp [Keys]))

theorem Frame.closeKey (h : Frame s t reg win) (π : Path) (p : Page) : Frame s (t.closeKey π p) reg win :=
  h.same rfl rfl rfl rfl

theorem Frame.emit (h : Frame s t reg win) (o : Out) : Frame s (t.emit o) reg win :=
  h.same rfl rfl rfl rfl

/-! ### The units' own state -/

@[simp] theorem State.units_dev (s : State) : s.units.dev = s.dev := rfl
@[simp] theorem State.units_pending (s : State) : s.units.pending = s.pending := rfl
@[simp] theorem State.units_snap (s : State) : s.units.snap = s.snap := rfl
@[simp] theorem State.units_tabPoison (s : State) : s.units.tabPoison = s.tabPoison := rfl
@[simp] theorem State.units_actives (s : State) : s.units.actives = s.actives := rfl
@[simp] theorem State.units_cfgs (s : State) : s.units.cfgs = s.cfgs := rfl
@[simp] theorem State.units_ticks (s : State) : s.units.ticks = s.ticks := rfl
@[simp] theorem State.units_lanes (s : State) : s.units.lanes = s.lanes := rfl
@[simp] theorem State.units_links (s : State) : s.units.links = s.links := rfl
@[simp] theorem State.units_arr (s : State) : s.units.arr = s.arr := rfl
@[simp] theorem State.units_dly (s : State) : s.units.dly = s.dly := rfl
@[simp] theorem State.units_chn (s : State) : s.units.chn = s.chn := rfl
@[simp] theorem State.units_dram (s : State) : s.units.dram = s.dram := rfl
@[simp] theorem State.units_mere (s : State) : s.units.mere = s.mere := rfl
@[simp] theorem State.units_sward (s : State) : s.units.sward = s.sward := rfl
@[simp] theorem State.units_bas (s : State) : s.units.bas = s.bas := rfl
@[simp] theorem State.units_beam (s : State) : s.units.beam = s.beam := rfl
@[simp] theorem State.units_gsvs (s : State) : s.units.gsvs = s.gsvs := rfl
@[simp] theorem State.units_arms (s : State) : s.units.arms = s.arms := rfl
@[simp] theorem State.units_pcie (s : State) : s.units.pcie = s.pcie := rfl
@[simp] theorem State.units_tarn (s : State) : s.units.tarn = s.tarn := rfl
@[simp] theorem State.units_tod (s : State) : s.units.tod = s.tod := rfl
@[simp] theorem State.units_tune (s : State) : s.units.tune = s.tune := rfl
@[simp] theorem State.units_well (s : State) : s.units.well = s.well := rfl
@[simp] theorem State.units_flash (s : State) : s.units.flash = s.flash := rfl
@[simp] theorem State.units_pwr (s : State) : s.units.pwr = s.pwr := rfl
@[simp] theorem State.units_dma (s : State) : s.units.dma = s.dma := rfl
@[simp] theorem State.units_mx (s : State) : s.units.mx = s.mx := rfl
@[simp] theorem State.units_thermtrip (s : State) : s.units.thermtrip = s.thermtrip := rfl

theorem State.dev_of_units {s t : State} (h : t.units = s.units) : t.dev = s.dev := by rw [← s.units_dev, ← h, t.units_dev]
theorem State.pending_of_units {s t : State} (h : t.units = s.units) : t.pending = s.pending := by rw [← s.units_pending, ← h, t.units_pending]
theorem State.snap_of_units {s t : State} (h : t.units = s.units) : t.snap = s.snap := by rw [← s.units_snap, ← h, t.units_snap]
theorem State.tabPoison_of_units {s t : State} (h : t.units = s.units) : t.tabPoison = s.tabPoison := by rw [← s.units_tabPoison, ← h, t.units_tabPoison]
theorem State.actives_of_units {s t : State} (h : t.units = s.units) : t.actives = s.actives := by rw [← s.units_actives, ← h, t.units_actives]
theorem State.cfgs_of_units {s t : State} (h : t.units = s.units) : t.cfgs = s.cfgs := by rw [← s.units_cfgs, ← h, t.units_cfgs]
theorem State.ticks_of_units {s t : State} (h : t.units = s.units) : t.ticks = s.ticks := by rw [← s.units_ticks, ← h, t.units_ticks]
theorem State.lanes_of_units {s t : State} (h : t.units = s.units) : t.lanes = s.lanes := by rw [← s.units_lanes, ← h, t.units_lanes]
theorem State.links_of_units {s t : State} (h : t.units = s.units) : t.links = s.links := by rw [← s.units_links, ← h, t.units_links]
theorem State.arr_of_units {s t : State} (h : t.units = s.units) : t.arr = s.arr := by rw [← s.units_arr, ← h, t.units_arr]
theorem State.dly_of_units {s t : State} (h : t.units = s.units) : t.dly = s.dly := by rw [← s.units_dly, ← h, t.units_dly]
theorem State.chn_of_units {s t : State} (h : t.units = s.units) : t.chn = s.chn := by rw [← s.units_chn, ← h, t.units_chn]
theorem State.dram_of_units {s t : State} (h : t.units = s.units) : t.dram = s.dram := by rw [← s.units_dram, ← h, t.units_dram]
theorem State.mere_of_units {s t : State} (h : t.units = s.units) : t.mere = s.mere := by rw [← s.units_mere, ← h, t.units_mere]
theorem State.sward_of_units {s t : State} (h : t.units = s.units) : t.sward = s.sward := by rw [← s.units_sward, ← h, t.units_sward]
theorem State.bas_of_units {s t : State} (h : t.units = s.units) : t.bas = s.bas := by rw [← s.units_bas, ← h, t.units_bas]
theorem State.beam_of_units {s t : State} (h : t.units = s.units) : t.beam = s.beam := by rw [← s.units_beam, ← h, t.units_beam]
theorem State.gsvs_of_units {s t : State} (h : t.units = s.units) : t.gsvs = s.gsvs := by rw [← s.units_gsvs, ← h, t.units_gsvs]
theorem State.arms_of_units {s t : State} (h : t.units = s.units) : t.arms = s.arms := by rw [← s.units_arms, ← h, t.units_arms]
theorem State.pcie_of_units {s t : State} (h : t.units = s.units) : t.pcie = s.pcie := by rw [← s.units_pcie, ← h, t.units_pcie]
theorem State.tarn_of_units {s t : State} (h : t.units = s.units) : t.tarn = s.tarn := by rw [← s.units_tarn, ← h, t.units_tarn]
theorem State.tod_of_units {s t : State} (h : t.units = s.units) : t.tod = s.tod := by rw [← s.units_tod, ← h, t.units_tod]
theorem State.tune_of_units {s t : State} (h : t.units = s.units) : t.tune = s.tune := by rw [← s.units_tune, ← h, t.units_tune]
theorem State.well_of_units {s t : State} (h : t.units = s.units) : t.well = s.well := by rw [← s.units_well, ← h, t.units_well]
theorem State.flash_of_units {s t : State} (h : t.units = s.units) : t.flash = s.flash := by rw [← s.units_flash, ← h, t.units_flash]
theorem State.pwr_of_units {s t : State} (h : t.units = s.units) : t.pwr = s.pwr := by rw [← s.units_pwr, ← h, t.units_pwr]
theorem State.dma_of_units {s t : State} (h : t.units = s.units) : t.dma = s.dma := by rw [← s.units_dma, ← h, t.units_dma]
theorem State.mx_of_units {s t : State} (h : t.units = s.units) : t.mx = s.mx := by rw [← s.units_mx, ← h, t.units_mx]
theorem State.thermtrip_of_units {s t : State} (h : t.units = s.units) : t.thermtrip = s.thermtrip := by rw [← s.units_thermtrip, ← h, t.units_thermtrip]

@[simp] theorem State.setFld_units (s : State) (f : Fld) (v : Nat) : (s.setFld f v).units = s.units := rfl
@[simp] theorem State.setBit_units (s : State) (f : Fld) (b : Bool) : (s.setBit f b).units = s.units := rfl
@[simp] theorem State.addFld_units (s : State) (f : Fld) (n : Nat) : (s.addFld f n).units = s.units := rfl
@[simp] theorem State.subFld_units (s : State) (f : Fld) (n : Nat) : (s.subFld f n).units = s.units := rfl
@[simp] theorem State.setTab_units (s : State) (o v : Nat) : (s.setTab o v).units = s.units := rfl
@[simp] theorem State.emit_units (s : State) (o : Out) : (s.emit o).units = s.units := rfl
@[simp] theorem State.closeKey_units (s : State) (π : Path) (p : Page) : (s.closeKey π p).units = s.units := rfl

@[simp] theorem State.maxFld_units (s : State) (f : Fld) (v : Nat) : (s.maxFld f v).units = s.units := by
  unfold State.maxFld; split <;> rfl

@[simp] theorem State.minFld_units (s : State) (f : Fld) (v : Nat) : (s.minFld f v).units = s.units := by
  unfold State.minFld; split <;> rfl

@[simp] theorem State.sendMsix_units (s : State) (v : Nat) : (s.sendMsix v).units = s.units := by
  unfold State.sendMsix; split
  · split <;> rfl
  · rfl

@[simp] theorem State.irqEdge_units (old s : State) (p : Page) : (State.irqEdge old s p).units = s.units := by
  unfold State.irqEdge; split
  · exact s.sendMsix_units _
  · rfl

@[simp] theorem State.raise_units (s : State) (p : Page) (n : Nat) : (s.raise p n).units = s.units := by
  unfold State.raise; rw [State.irqEdge_units]; rfl

@[simp] theorem State.event_units (s : State) (e : Ev) : (s.event e).units = s.units := by
  unfold State.event; split
  · rfl
  · unfold State.dropEvent; dsimp only; rw [State.raise_units]; rfl

@[simp] theorem State.info_units (s : State) (p : Page) (low : Nat) (l : Option Nat) (a b c d : Nat) :
    (s.info p low l a b c d).units = s.units := s.event_units _

@[simp] theorem State.error_units (s : State) (p : Page) (code pass chan : Nat) (l : Option Nat) :
    (s.error p code pass chan l).units = s.units := by
  unfold State.error State.tileError; dsimp only; rw [State.event_units]; split <;> rfl

/-- A state whose pages are open as a list says (R9). -/
def State.withOpened (s : State) (o : List Nat) : State := { s with opened := o }

@[simp] theorem State.withOpened_dev (s : State) (o : List Nat) : (s.withOpened o).dev = s.dev := rfl
@[simp] theorem State.withOpened_pending (s : State) (o : List Nat) : (s.withOpened o).pending = s.pending := rfl
@[simp] theorem State.withOpened_regs (s : State) (o : List Nat) : (s.withOpened o).regs = s.regs := rfl
@[simp] theorem State.withOpened_latch (s : State) (o : List Nat) : (s.withOpened o).latch = s.latch := rfl
@[simp] theorem State.withOpened_staged (s : State) (o : List Nat) : (s.withOpened o).staged = s.staged := rfl
@[simp] theorem State.withOpened_exts (s : State) (o : List Nat) : (s.withOpened o).exts = s.exts := rfl
@[simp] theorem State.withOpened_snap (s : State) (o : List Nat) : (s.withOpened o).snap = s.snap := rfl
@[simp] theorem State.withOpened_tables (s : State) (o : List Nat) : (s.withOpened o).tables = s.tables := rfl
@[simp] theorem State.withOpened_tabPoison (s : State) (o : List Nat) : (s.withOpened o).tabPoison = s.tabPoison := rfl
@[simp] theorem State.withOpened_actives (s : State) (o : List Nat) : (s.withOpened o).actives = s.actives := rfl
@[simp] theorem State.withOpened_cfgs (s : State) (o : List Nat) : (s.withOpened o).cfgs = s.cfgs := rfl
@[simp] theorem State.withOpened_evq (s : State) (o : List Nat) : (s.withOpened o).evq = s.evq := rfl
@[simp] theorem State.withOpened_evLoss (s : State) (o : List Nat) : (s.withOpened o).evLoss = s.evLoss := rfl
@[simp] theorem State.withOpened_out (s : State) (o : List Nat) : (s.withOpened o).out = s.out := rfl
@[simp] theorem State.withOpened_freeCtr (s : State) (o : List Nat) : (s.withOpened o).freeCtr = s.freeCtr := rfl
@[simp] theorem State.withOpened_ticks (s : State) (o : List Nat) : (s.withOpened o).ticks = s.ticks := rfl
@[simp] theorem State.withOpened_lanes (s : State) (o : List Nat) : (s.withOpened o).lanes = s.lanes := rfl
@[simp] theorem State.withOpened_links (s : State) (o : List Nat) : (s.withOpened o).links = s.links := rfl
@[simp] theorem State.withOpened_arr (s : State) (o : List Nat) : (s.withOpened o).arr = s.arr := rfl
@[simp] theorem State.withOpened_dly (s : State) (o : List Nat) : (s.withOpened o).dly = s.dly := rfl
@[simp] theorem State.withOpened_chn (s : State) (o : List Nat) : (s.withOpened o).chn = s.chn := rfl
@[simp] theorem State.withOpened_dram (s : State) (o : List Nat) : (s.withOpened o).dram = s.dram := rfl
@[simp] theorem State.withOpened_mere (s : State) (o : List Nat) : (s.withOpened o).mere = s.mere := rfl
@[simp] theorem State.withOpened_sward (s : State) (o : List Nat) : (s.withOpened o).sward = s.sward := rfl
@[simp] theorem State.withOpened_bas (s : State) (o : List Nat) : (s.withOpened o).bas = s.bas := rfl
@[simp] theorem State.withOpened_beam (s : State) (o : List Nat) : (s.withOpened o).beam = s.beam := rfl
@[simp] theorem State.withOpened_gsvs (s : State) (o : List Nat) : (s.withOpened o).gsvs = s.gsvs := rfl
@[simp] theorem State.withOpened_arms (s : State) (o : List Nat) : (s.withOpened o).arms = s.arms := rfl
@[simp] theorem State.withOpened_pcie (s : State) (o : List Nat) : (s.withOpened o).pcie = s.pcie := rfl
@[simp] theorem State.withOpened_tarn (s : State) (o : List Nat) : (s.withOpened o).tarn = s.tarn := rfl
@[simp] theorem State.withOpened_tod (s : State) (o : List Nat) : (s.withOpened o).tod = s.tod := rfl
@[simp] theorem State.withOpened_tune (s : State) (o : List Nat) : (s.withOpened o).tune = s.tune := rfl
@[simp] theorem State.withOpened_well (s : State) (o : List Nat) : (s.withOpened o).well = s.well := rfl
@[simp] theorem State.withOpened_flash (s : State) (o : List Nat) : (s.withOpened o).flash = s.flash := rfl
@[simp] theorem State.withOpened_pwr (s : State) (o : List Nat) : (s.withOpened o).pwr = s.pwr := rfl
@[simp] theorem State.withOpened_dma (s : State) (o : List Nat) : (s.withOpened o).dma = s.dma := rfl
@[simp] theorem State.withOpened_mx (s : State) (o : List Nat) : (s.withOpened o).mx = s.mx := rfl
@[simp] theorem State.withOpened_thermtrip (s : State) (o : List Nat) : (s.withOpened o).thermtrip = s.thermtrip := rfl
@[simp] theorem State.withOpened_fld (s : State) (o : List Nat) (f : Fld) : (s.withOpened o).fld f = s.fld f := rfl
@[simp] theorem State.withOpened_bit (s : State) (o : List Nat) (f : Fld) : (s.withOpened o).bit f = s.bit f := rfl
@[simp] theorem State.withOpened_tab (s : State) (o : List Nat) (n : Nat) : (s.withOpened o).tab n = s.tab n := rfl
@[simp] theorem State.withOpened_units (s : State) (o : List Nat) : (s.withOpened o).units = s.units := rfl

theorem Frame.withOpened (h : Frame s t reg win) (o : List Nat) : Frame s (t.withOpened o) reg win := h.same rfl rfl rfl rfl

/-- A served host command has its effect, and the page closes on its path (R9). -/
theorem State.hostCmd_served {π : Path} {off : Nat} (h : s.Serves π off) (k : State → State) :
    ∃ o, s.hostCmd π off k = (k s).withOpened o := by
  unfold State.hostCmd
  rw [h.1, h.2]
  simp only [if_true]
  split
  · exact ⟨_, rfl⟩
  · exact ⟨(k s).opened, rfl⟩

/-- A host command that is turned away changes at most the counters of ST. -/
theorem State.hostCmd_blocked {π : Path} {off : Nat} (hr : s.reaches π = true) (hg : s.gate off ≠ .served) (k : State → State) :
    s.hostCmd π off k = s.turnAway (s.gate off) π off true := by
  unfold State.hostCmd
  rw [hr]
  cases hc : s.gate off <;> simp_all

/-- An error reported through AER changes the registers of the PCI function, the free values used and what leaves the device alone. -/
theorem State.aer_is (s : State) (n : Nat) (a : Bool) :
    s.aer n a = { s with pcie := (s.aer n a).pcie, freeCtr := (s.aer n a).freeCtr, out := (s.aer n a).out } := by
  have hi : ∀ (c : Prop) [Decidable c] (A B : State), (∃ p f o, A = { s with pcie := p, freeCtr := f, out := o }) →
      (∃ p f o, B = { s with pcie := p, freeCtr := f, out := o }) →
      ∃ p f o, (if c then A else B) = { s with pcie := p, freeCtr := f, out := o } := by
    intro c _ A B hA hB; split <;> assumption
  have h : ∃ p f o, s.aer n a = { s with pcie := p, freeCtr := f, out := o } := by
    unfold State.aer State.freeHdr
    by_cases h1 : (s.pcie.aerUnc = 0 ∧ (s.pcie.aerUncMask.testBit n || a && !s.pcie.aerUncSev.testBit n && s.pcie.aerCorMask.testBit 13) = false)
    · simp only [h1, and_self, if_true]
      apply hi <;> exact ⟨_, _, _, rfl⟩
    · simp only [h1, if_false]
      apply hi <;> exact ⟨_, _, _, rfl⟩
  obtain ⟨p, f, o, h⟩ := h
  rw [h]

theorem State.fld_aer (s : State) (n : Nat) (a : Bool) (f : Fld) : (s.aer n a).fld f = s.fld f := by rw [State.aer_is]; rfl

theorem Frame.aer (h : Frame s t reg win) (n : Nat) (a : Bool) : Frame s (t.aer n a) reg win := by
  rw [State.aer_is]; exact h.same rfl rfl rfl rfl

/-! ### One cycle -/

theorem State.fld_events (l : List Ev) (s : State) {f : Fld} (h : f.off < 0x300000 ∨ 0x300100 ≤ f.off) (hl : f.lo < 64) :
    (l.foldl State.event s).fld f = s.fld f := by
  induction l generalizing s with
  | nil => rfl
  | cons e l ih => rw [List.foldl_cons, ih, State.fld_event_off _ _ h hl]

theorem State.events_units (l : List Ev) (s : State) : (l.foldl State.event s).units = s.units := by
  induction l generalizing s with
  | nil => rfl
  | cons e l ih => rw [List.foldl_cons, ih, State.event_units]

theorem Frame.events (h : Frame s t reg win) (l : List Ev) (hf : ∀ k, PageKeys evtPg k → reg k) (hw : ∀ o, PbaWords o → win o) :
    Frame s (l.foldl State.event t) reg win := by
  induction l generalizing t with
  | nil => exact h
  | cons e l ih => exact ih (h.event e hf hw)

/-- The order in which the events of one cycle enter the log (R438) changes the event page alone. -/
theorem State.fld_oneCycle (s : State) (k : State → State) {f : Fld} (h : f.off < 0x300000 ∨ 0x300100 ≤ f.off) (hl : f.lo < 64) :
    (s.oneCycle k).fld f = (k { s with evq := [] }).fld f := by
  unfold State.oneCycle
  dsimp only
  rw [State.fld_events _ _ h hl]; rfl

theorem State.oneCycle_units (s : State) (k : State → State) : (s.oneCycle k).units = (k { s with evq := [] }).units := by
  unfold State.oneCycle
  dsimp only
  rw [State.events_units]; rfl

theorem Frame.oneCycle {k : State → State} (h : Frame s (k { t with evq := [] }) reg win) (hf : ∀ k, PageKeys evtPg k → reg k)
    (hw : ∀ o, PbaWords o → win o) : Frame s (t.oneCycle k) reg win := by
  unfold State.oneCycle
  refine Frame.events ?_ _ hf hw
  exact Frame.same (t := k { t with evq := [] }) h rfl rfl rfl rfl

end Sys2Proof.Machine
end

