-- ==== Sys2Proof/Laws/Access.lean ====
section
/-! SUPPORT. What host accesses do: field writes by access code, byte enables, and accesses that are turned away. -/

namespace Sys2Proof.Machine

theorem State.writeFields_rest (p : Page) (o : Bool) (off v : Nat) (l : List FieldDesc) (s : State) :
    writeFields s p o off v l = { s with regs := (writeFields s p o off v l).regs } := by
  induction l generalizing s with
  | nil => rfl
  | cons x l ih =>
    simp only [writeFields]
    split
    · exact ih s
    · rw [ih]; rfl
theorem State.fld_writeFields_ne (p : Page) (o : Bool) (off v : Nat) (l : List FieldDesc) (s : State) (f : Fld)
    (h : ∀ x ∈ l, f.key ≠ (⟨off, x.lo, x.w⟩ : Fld).key) : (writeFields s p o off v l).fld f = s.fld f := by
  induction l generalizing s with
  | nil => rfl
  | cons x l ih =>
    simp only [writeFields]
    rw [ih _ (fun y hy => h y (List.mem_cons_of_mem _ hy))]
    split
    · rfl
    · exact State.fld_setFld_ne _ _ (h x (List.mem_cons_self ..))
theorem State.writeFields_testBit (p : Page) (o : Bool) (off v : Nat) (l : List FieldDesc) (s : State) (hn : (l.map (·.lo)).Nodup)
    (hl : ∀ x ∈ l, x.lo < 64) (x : FieldDesc) (hx : x ∈ l) (i : Nat) (hi : i < x.w) :
    ((writeFields s p o off v l).fld ⟨off, x.lo, x.w⟩).testBit i =
      (applyAcc x.acc o (s.fld ⟨off, x.lo, x.w⟩) (v / 2 ^ x.lo % 2 ^ x.w)).testBit i := by
  induction l generalizing s with
  | nil => cases hx
  | cons y l ih =>
    simp only [List.map_cons, List.nodup_cons] at hn
    have hne : ∀ z ∈ l, y.lo ≠ z.lo := fun z hz e => hn.1 (e ▸ List.mem_map_of_mem hz)
    simp only [writeFields]
    rcases List.mem_cons.1 hx with rfl | hx
    · rw [State.fld_writeFields_ne _ _ _ _ _ _ _ (fun z hz => by
        have := hne z hz; have := hl z (List.mem_cons_of_mem _ hz); have := hl x (List.mem_cons_self ..)
        simp only [Fld.key, ne_eq]; omega)]
      split
      · rename_i h; rw [h]
      · rw [State.fld_setFld_same, Nat.testBit_mod_two_pow]; simp [hi]
    · rw [ih _ hn.2 (fun z hz => hl z (List.mem_cons_of_mem _ hz)) hx]
      have : (⟨off, x.lo, x.w⟩ : Fld).key ≠ (⟨off, y.lo, y.w⟩ : Fld).key := by
        have := hne x hx; have := hl x (List.mem_cons_of_mem _ hx); have := hl y (List.mem_cons_self ..)
        simp only [Fld.key, ne_eq]; omega
      split
      · rfl
      · rw [State.fld_setFld_ne _ _ this]
theorem applyAcc_testBit (a : Acc) (o : Bool) (old v lo w i : Nat) (hi : i < w) :
    (applyAcc a o old (v / 2 ^ lo % 2 ^ w)).testBit i = (match a with
         | .rw => v.testBit (lo + i)
         | .rwl => if o then v.testBit (lo + i) else old.testBit i
         | .w1c => old.testBit i && !v.testBit (lo + i)
         | .w1s => old.testBit i || v.testBit (lo + i)
         | .ro | .wo | .sc | .rc => old.testBit i) := by
  have hv : (v / 2 ^ lo % 2 ^ w).testBit i = v.testBit (lo + i) := by
    rw [Nat.testBit_mod_two_pow, Nat.testBit_div_two_pow]; simp [hi, Nat.add_comm]
  cases a <;> simp only [applyAcc, Nat.testBit_and, Nat.testBit_xor, Nat.testBit_or, hv]
  · cases old.testBit i <;> cases v.testBit (lo + i) <;> rfl
  · cases o <;> simp [hv]

theorem Frame.writeFields {s t : State} {reg win : Nat → Prop} (h : Frame s t reg win) (p : Page) (o : Bool) (off v : Nat) (l : List FieldDesc)
    (hr : ∀ x ∈ l, reg (⟨off, x.lo, x.w⟩ : Fld).key) : Frame s (Machine.writeFields t p o off v l) reg win :=
  h.trans ⟨fun f hf => State.fld_writeFields_ne _ _ _ _ _ _ _ (fun x hx e => hf (e ▸ hr x hx)), fun o _ => by rw [State.writeFields_rest]; rfl,
    fun q => by rw [State.writeFields_rest]⟩

/-- An access that is counted changes ST alone. -/
theorem State.countAccess_rest (s : State) (π : Path) (off kind : Nat) (w : Bool) :
    s.countAccess π off kind w = { s with regs := (s.countAccess π off kind w).regs } := rfl

/-- What an access that is counted leaves in LAST_ACCESS (R356 to R358). -/
theorem State.countAccess_last (s : State) (π : Path) (off kind : Nat) (w : Bool) (ho : off < 2 ^ 26) (hk : kind < 4) :
    (s.countAccess π off kind w).fld R.ST_LAST_ACCESS_OFFSET = off ∧ (s.countAccess π off kind w).fld R.ST_LAST_ACCESS_KIND = kind ∧
    (s.countAccess π off kind w).fld R.ST_LAST_ACCESS_MSPI = (if π = .mspi then 1 else 0) ∧
    (s.countAccess π off kind w).fld R.ST_LAST_ACCESS_WRITE = (if w then 1 else 0) := by
  unfold State.countAccess
  dsimp only
  refine ⟨?_, ?_, ?_, ?_⟩
  · rw [State.fld_setBit_ne _ _ (by decide), State.fld_setBit_ne _ _ (by decide), State.fld_setFld_ne _ _ (by decide),
      State.fld_setFld_same]
    exact Nat.mod_eq_of_lt ho
  · rw [State.fld_setBit_ne _ _ (by decide), State.fld_setBit_ne _ _ (by decide), State.fld_setFld_same]
    exact Nat.mod_eq_of_lt hk
  · rw [State.fld_setBit_ne _ _ (by decide), State.fld_setBit_same]
    by_cases h : π = .mspi <;> simp [h, R.ST_LAST_ACCESS_MSPI]
  · rw [State.fld_setBit_same]
    cases w <;> simp [R.ST_LAST_ACCESS_WRITE]

/-- The counter that an access of a kind advances. -/
theorem State.countAccess_cnt (s : State) (π : Path) (off kind : Nat) (w : Bool) (c : Fld)
    (hc : c = if kind = 0 then R.ST_BLOCKED_CNT_COUNT else if kind = 1 then R.ST_UNMAPPED_CNT_COUNT else R.ST_PARTIAL_CNT_COUNT) :
    (s.countAccess π off kind w).fld c = (s.fld c + 1) % 2 ^ 32 := by
  unfold State.countAccess
  dsimp only
  rw [← hc]
  have h1 : c.key ≠ R.ST_LAST_ACCESS_OFFSET.key ∧ c.key ≠ R.ST_LAST_ACCESS_KIND.key ∧ c.key ≠ R.ST_LAST_ACCESS_MSPI.key ∧
      c.key ≠ R.ST_LAST_ACCESS_WRITE.key ∧ c.w = 32 := by
    subst hc
    by_cases h0 : kind = 0
    · rw [if_pos h0]; decide
    · by_cases h1 : kind = 1
      · rw [if_neg h0, if_pos h1]; decide
      · rw [if_neg h0, if_neg h1]; decide
  rw [State.fld_setBit_ne _ _ h1.2.2.2.1, State.fld_setBit_ne _ _ h1.2.2.1, State.fld_setFld_ne _ _ h1.2.1, State.fld_setFld_ne _ _ h1.1,
    State.fld_addFld_same, h1.2.2.2.2]

/-- What an access that is counted may change. -/
theorem Frame.countAccess {s t : State} {reg win : Nat → Prop} (h : Frame s t reg win) (π : Path) (off kind : Nat) (w : Bool)
    (hr : ∀ k, Keys [if kind = 0 then R.ST_BLOCKED_CNT_COUNT else if kind = 1 then R.ST_UNMAPPED_CNT_COUNT else R.ST_PARTIAL_CNT_COUNT,
      R.ST_LAST_ACCESS_OFFSET, R.ST_LAST_ACCESS_KIND, R.ST_LAST_ACCESS_MSPI, R.ST_LAST_ACCESS_WRITE] k → reg k) :
    Frame s (t.countAccess π off kind w) reg win := by
  unfold State.countAccess
  dsimp only
  exact ((((h.addFld _ (hr _ (by simp [Keys]))).setFld _ (hr _ (by simp [Keys]))).setFld _ (hr _ (by simp [Keys]))).setBit _
    (hr _ (by simp [Keys]))).setBit _ (hr _ (by simp [Keys]))

/-- Bytes of a dword merged by byte enables: each bit comes from the new value where its byte is enabled (R356). -/
theorem mergeBytes_testBit (old new be : Nat) {n : Nat} (hn : n < 32) :
    (mergeBytes old new be).testBit n = if be.testBit (n / 8) then new.testBit n else old.testBit n := by
  have hb : ∀ (x k : Nat), x.testBit n = (x / 2 ^ (8 * (n / 8)) % 256).testBit (n % 8) := by
    intro x _
    rw [show (256 : Nat) = 2 ^ 8 from rfl, Nat.testBit_mod_two_pow, Nat.testBit_div_two_pow]
    have h8 : n % 8 < 8 := by omega
    have e : 8 * (n / 8) + n % 8 = n := by omega
    rw [show n % 8 + 8 * (n / 8) = n by omega]
    simp [h8]
  have hB : ∀ i, i < 4 → mergeBytes old new be / 2 ^ (8 * i) % 256 = (if be.testBit i then new else old) / 2 ^ (8 * i) % 256 := by
    intro i hi
    unfold mergeBytes
    simp only [show List.range 4 = [0, 1, 2, 3] from rfl, List.foldl]
    have g : ∀ x : Nat, x % 256 < 256 := fun x => Nat.mod_lt _ (by decide)
    generalize e0 : (if be.testBit 0 then new else old) / 2 ^ (8 * 0) % 256 = a0
    generalize e1 : (if be.testBit 1 then new else old) / 2 ^ (8 * 1) % 256 = a1
    generalize e2 : (if be.testBit 2 then new else old) / 2 ^ (8 * 2) % 256 = a2
    generalize e3 : (if be.testBit 3 then new else old) / 2 ^ (8 * 3) % 256 = a3
    have h0 : a0 < 256 := by rw [← e0]; exact g _
    have h1 : a1 < 256 := by rw [← e1]; exact g _
    have h2 : a2 < 256 := by rw [← e2]; exact g _
    have h3 : a3 < 256 := by rw [← e3]; exact g _
    have hc : i = 0 ∨ i = 1 ∨ i = 2 ∨ i = 3 := by omega
    rcases hc with rfl | rfl | rfl | rfl
    · rw [e0]; norm_num; omega
    · rw [e1]; norm_num; omega
    · rw [e2]; norm_num; omega
    · rw [e3]; norm_num; omega
  rw [hb _ 0, hB (n / 8) (by omega)]
  split <;> rw [hb _ 0]

/-- What leaves the device is the latest output. -/
@[simp] theorem State.out_emit (s : State) (o : Out) : (s.emit o).out = o :: s.out := rfl

/-- A clearing read changes RC fields alone. -/
theorem State.clearRc_rest (off : Nat) (l : List FieldDesc) (s : State) :
    s.clearRc off l = { s with regs := (s.clearRc off l).regs, exts := (s.clearRc off l).exts } := by
  induction l generalizing s with
  | nil => rfl
  | cons x l ih =>
    simp only [State.clearRc]
    split
    · rw [ih]; rfl
    · exact ih s

/-- The cleared keys of a clearing read leave the list of fields that hold an extreme. -/
theorem State.clearRc_exts (off : Nat) (l : List FieldDesc) (s : State) (k : Nat) (h : k ∈ (s.clearRc off l).exts) : k ∈ s.exts := by
  induction l generalizing s with
  | nil => exact h
  | cons x l ih =>
    simp only [State.clearRc] at h
    split at h
    · exact (List.mem_filter.1 (ih _ h)).1
    · exact ih s h

/-- A clearing read changes no other field. -/
theorem State.fld_clearRc_ne (off : Nat) (l : List FieldDesc) (s : State) (f : Fld)
    (h : ∀ x ∈ l, x.acc = .rc → f.key ≠ (⟨off, x.lo, x.w⟩ : Fld).key) : (s.clearRc off l).fld f = s.fld f := by
  induction l generalizing s with
  | nil => rfl
  | cons x l ih =>
    simp only [State.clearRc]
    split
    · rename_i hx
      rw [ih _ (fun y hy => h y (List.mem_cons_of_mem _ hy)), State.fld_mk]
      exact State.fld_setFld_ne _ _ (h x (List.mem_cons_self ..) hx)
    · exact ih _ (fun y hy => h y (List.mem_cons_of_mem _ hy))

/-- What a clearing read cleared stays 0 and empty in the rest of that read. -/
theorem State.clearRc_stays (off : Nat) (l : List FieldDesc) (s : State) (lo w : Nat)
    (h : s.fld ⟨off, lo, w⟩ = 0 ∧ (⟨off, lo, w⟩ : Fld).key ∉ s.exts) :
    (s.clearRc off l).fld ⟨off, lo, w⟩ = 0 ∧ (⟨off, lo, w⟩ : Fld).key ∉ (s.clearRc off l).exts := by
  induction l generalizing s with
  | nil => exact h
  | cons y l ih =>
    simp only [State.clearRc]
    split
    · apply ih
      refine ⟨?_, fun hc => h.2 (List.mem_filter.1 hc).1⟩
      rw [State.fld_mk]
      by_cases e : lo = y.lo
      · subst e
        have := State.fld_setFld_same s ⟨off, y.lo, y.w⟩ 0
        simpa [State.fld, resetOf, Fld.key] using this
      · rw [State.fld_setFld_ne _ _ (by simp only [Fld.key, ne_eq]; omega)]
        exact h.1
    · exact ih _ h

/-- A clearing read leaves its RC fields 0 and empty (R8, R469). -/
theorem State.fld_clearRc (off : Nat) (l : List FieldDesc) (s : State) (x : FieldDesc) (hx : x ∈ l) (hr : x.acc = .rc) :
    (s.clearRc off l).fld ⟨off, x.lo, x.w⟩ = 0 ∧ (⟨off, x.lo, x.w⟩ : Fld).key ∉ (s.clearRc off l).exts := by
  induction l generalizing s with
  | nil => cases hx
  | cons y l ih =>
    simp only [State.clearRc]
    rcases List.mem_cons.1 hx with rfl | hx
    · rw [if_pos hr]
      apply State.clearRc_stays
      refine ⟨?_, by simp⟩
      rw [State.fld_mk, State.fld_setFld_same]
      simp
    · split <;> exact ih _ hx

end Sys2Proof.Machine
end

