-- ==== Sys2Proof/Laws/Pages.lean ====
section
/-! SUPPORT. The page map: the pages of BAR0 do not overlap, and every offset of a page finds it (R378). -/

namespace Sys2Proof.Machine

/-- The bytes that the pages of a kind take. -/
def PageKind.span (k : PageKind) : Nat := if k.stride = 0 then 0x1000 else k.stride * k.countF

/-- Pages of different kinds do not overlap. -/
theorem PageKind.apart : ∀ k ∈ PageKind.all, ∀ l ∈ PageKind.all, k ≠ l →
    k.base0 + PageKind.span k ≤ l.base0 ∨ l.base0 + PageKind.span l ≤ k.base0 := by decide

/-- Every kind is in the list of kinds, a single page has number 0, and several pages lie 4 KiB apart. -/
theorem PageKind.shape (k : PageKind) : k ∈ PageKind.all ∧ (k.stride = 0 ∧ k.countF = 1 ∨ k.stride = 0x1000) ∧ k.base0 % 0x1000 = 0 := by
  cases k <;> decide

/-- What the page map says of one kind. -/
def PageKind.hit (k : PageKind) (off : Nat) : Option Page :=
  if off < k.base0 then none
  else if k.stride = 0 then (if off < k.base0 + 0x1000 then some ⟨k, 0⟩ else none)
  else if off < k.base0 + k.stride * k.countF then some ⟨k, (off - k.base0) / 0x1000⟩ else none

theorem PageKind.hit_none (k : PageKind) (off : Nat) (h : off < k.base0 ∨ k.base0 + PageKind.span k ≤ off) : PageKind.hit k off = none := by
  unfold PageKind.hit
  unfold PageKind.span at h
  by_cases h1 : off < k.base0
  · rw [if_pos h1]
  · rw [if_neg h1]
    by_cases h2 : k.stride = 0
    · rw [if_pos h2] at h ⊢; rw [if_neg (by omega)]
    · rw [if_neg h2] at h ⊢; rw [if_neg (by omega)]

theorem PageKind.findSome_eq (l : List PageKind) (k : PageKind) (off : Nat) (p : Page) (hk : k ∈ l) (hp : PageKind.hit k off = some p)
    (h : ∀ j ∈ l, j ≠ k → PageKind.hit j off = none) : l.findSome? (fun k => PageKind.hit k off) = some p := by
  induction l with
  | nil => cases hk
  | cons j l ih =>
    by_cases e : j = k
    · subst e; simp [List.findSome?, hp]
    · simp only [List.findSome?, h j (List.mem_cons_self ..) e]
      exact ih ((List.mem_cons.1 hk).resolve_left (fun c => e c.symm)) (fun x hx => h x (List.mem_cons_of_mem _ hx))

/-- Every offset of a page finds it. -/
theorem pageAt_base (p : Page) (rel : Nat) (h : p.inst < p.kind.countF) (hr : rel < 0x1000) : pageAt (p.base + rel) = some p := by
  obtain ⟨k, i⟩ := p
  have hsh := PageKind.shape k
  have hspan : k.base0 ≤ Page.base ⟨k, i⟩ + rel ∧ Page.base ⟨k, i⟩ + rel < k.base0 + PageKind.span k := by
    unfold Page.base PageKind.span
    dsimp only at h ⊢
    rcases hsh.2.1 with ⟨h0, h1⟩ | h0
    · rw [h0, h1] at *; simp; omega
    · rw [h0, if_neg (by decide)]; omega
  refine PageKind.findSome_eq PageKind.all k _ _ hsh.1 ?_ (fun j hj e => PageKind.hit_none j _ ?_)
  · unfold PageKind.hit
    rw [if_neg (by omega)]
    unfold PageKind.span Page.base at hspan
    unfold Page.base
    dsimp only at h hspan ⊢
    rcases hsh.2.1 with ⟨h0, h1⟩ | h0
    · rw [if_pos h0, if_pos (by rw [h0]; omega)]
      have : i = 0 := by omega
      rw [this]
    · rw [h0] at hspan
      rw [h0, if_neg (by decide), if_pos (by omega)]
      congr 2; omega
  · rcases PageKind.apart j hj k hsh.1 e with h' | h' <;> omega

/-- A page starts at a multiple of 4 KiB. -/
theorem Page.base_aligned (p : Page) : p.base % 0x1000 = 0 := by
  have h := PageKind.shape p.kind
  unfold Page.base
  rcases h.2.1 with ⟨h0, _⟩ | h0 <;> rw [h0] <;> omega

end Sys2Proof.Machine
end

