-- ==== Sys2Proof/Laws/Header.lean ====
section
/-! SUPPORT. The header of a page, the snapshot of FREEZE and clearing by class. -/

namespace Sys2Proof.Machine

/-- A bit put into a number. -/
theorem putBit_testBit (n i j : Nat) (b : Bool) : (putBit n i b).testBit j = if j = i then b else n.testBit j := by
  have hr : n % 2 ^ i < 2 ^ i := Nat.mod_lt _ (Nat.two_pow_pos i)
  have hn : n = 2 ^ i * (n / 2 ^ i) + n % 2 ^ i := (Nat.div_add_mod n (2 ^ i)).symm
  have hbit : n.testBit i = decide (n / 2 ^ i % 2 = 1) := by rw [Nat.testBit_eq_decide_div_mod_eq]
  generalize n / 2 ^ i = a at hn hbit
  generalize n % 2 ^ i = r at hn hr
  have key : ∀ c : Nat, c / 2 = a / 2 → ∀ j, (2 ^ i * c + r).testBit j = if j = i then decide (c % 2 = 1) else n.testBit j := by
    intro c hc j
    rw [hn, Nat.testBit_two_pow_mul_add _ hr, Nat.testBit_two_pow_mul_add _ hr]
    by_cases hj : j < i
    · simp [hj, Nat.ne_of_lt hj]
    · simp only [hj, if_false]
      by_cases e : j = i
      · subst e; simp [Nat.testBit_eq_decide_div_mod_eq]
      · rw [if_neg e]
        obtain ⟨k, hk⟩ : ∃ k, j - i = k + 1 := ⟨j - i - 1, by omega⟩
        rw [hk, Nat.testBit_succ, Nat.testBit_succ, hc]
  unfold putBit
  by_cases h : a % 2 = 1
  · have ht : n.testBit i = true := by rw [hbit]; simp [h]
    rw [if_pos ht]
    cases b
    · have e : n - 2 ^ i = 2 ^ i * (a - 1) + r := by
        obtain ⟨d, hd⟩ : ∃ d, a = d + 1 := ⟨a - 1, by omega⟩
        rw [hn, hd, Nat.mul_succ]; simp; omega
      simp only [Bool.false_eq_true, if_false]
      rw [e, key (a - 1) (by omega)]
      simp [show (a - 1) % 2 = 0 by omega]
    · simp only [if_true]
      by_cases e : j = i
      · subst e; simp [ht]
      · simp [e]
  · have ht : n.testBit i = false := by rw [hbit]; simp; omega
    rw [ht]
    cases b
    · simp only [Bool.false_eq_true, if_false]
      by_cases e : j = i
      · subst e; simp [ht]
      · simp [e]
    · have e : n + 2 ^ i = 2 ^ i * (a + 1) + r := by rw [hn, Nat.mul_succ]; omega
      simp only [Bool.false_eq_true, if_false, if_true]
      rw [e, key (a + 1) (by omega)]
      simp [show (a + 1) % 2 = 1 by omega]

/-- Clearing register fields resets those that a test names. -/
theorem State.fld_clearRegs (s : State) (t : Nat → Bool) (f : Fld) :
    (s.clearRegs t).fld f = if t f.key then resetOf s.dev f else s.fld f := by
  unfold State.clearRegs State.fld
  by_cases h : t f.key = true
  · rw [if_pos h]
    exact SMap.get_filter_not _ _ _ _ (fun v => by simp [h])
  · rw [if_neg h]
    exact SMap.get_filter_of _ _ _ _ (fun v => by simp [h])

/-- A map with a range of keys taken from another. -/
theorem SMap.get_graft {α : Type} (d : α) (m : SMap α) (lo hi : Nat) (src : SMap α) (k : Nat) (hl : lo ≤ hi) :
    SMap.get d (m.graft lo hi src) k = if lo ≤ k ∧ k < hi then SMap.get d src k else SMap.get d m k := by
  have hA : ∀ d, SMap.get d (m.filter (fun e => decide (e.1 < lo))) k = if k < lo then SMap.get d m k else d := fun d => by
    by_cases h : k < lo
    · rw [if_pos h]; exact SMap.get_filter_of _ _ _ _ (fun v => by simpa using h)
    · rw [if_neg h]; exact SMap.get_filter_not _ _ _ _ (fun v => by simpa using h)
  have hB : ∀ d, SMap.get d (src.filter (fun e => decide (lo ≤ e.1) && decide (e.1 < hi))) k = if lo ≤ k ∧ k < hi then SMap.get d src k else d := fun d => by
    by_cases h : lo ≤ k ∧ k < hi
    · rw [if_pos h]; exact SMap.get_filter_of _ _ _ _ (fun v => by simpa using h)
    · rw [if_neg h]; exact SMap.get_filter_not _ _ _ _ (fun v => by simp; omega)
  have hC : ∀ d, SMap.get d (m.filter (fun e => decide (hi ≤ e.1) && decide (lo ≤ e.1))) k = if hi ≤ k then SMap.get d m k else d := fun d => by
    by_cases h : hi ≤ k
    · rw [if_pos h]; exact SMap.get_filter_of _ _ _ _ (fun v => by simp; omega)
    · rw [if_neg h]; exact SMap.get_filter_not _ _ _ _ (fun v => by simp; omega)
  unfold SMap.graft SMap.slice
  rw [SMap.get_append, SMap.get_append, hA, hB, hC]
  by_cases h1 : k < lo
  · rw [if_pos h1, if_neg (by omega), if_neg (by omega), if_neg (by omega)]
  · rw [if_neg h1]
    by_cases h2 : k < hi
    · have : lo ≤ k ∧ k < hi := by omega
      have h3 : ¬ hi ≤ k := by omega
      simp [this, h3]
    · have : ¬ (lo ≤ k ∧ k < hi) := by omega
      have h3 : hi ≤ k := by omega
      simp [this, h3]

set_option maxRecDepth 20000 in
/-- Every field of the register tables starts below bit 64, and every row lies in its page. -/
theorem regs_shape (k : PageKind) :
    (∀ r ∈ hdrRegs ++ blockRegs k, r.off < 0x1000 ∧ ∀ x ∈ r.fields, x.lo < 64) ∧
    (∀ a, armOffset k = some a → ∀ r ∈ armRegs, a + r.off < 0x1000 ∧ ∀ x ∈ r.fields, x.lo < 64) := by
  cases k <;> refine ⟨?_, ?_⟩ <;> decide

/-- The count fields of a page lie in it. -/
theorem countFields_page (p : Page) (f : Fld) (hf : f ∈ countFields p) : p.base ≤ f.off ∧ f.off < p.base + 0x1000 ∧ f.lo < 64 := by
  have hs := regs_shape p.kind
  unfold countFields at hf
  simp only [List.mem_append, List.mem_flatMap, List.mem_filter, List.mem_map] at hf
  rcases hf with (⟨r, hr, x, hx, rfl⟩ | hf) | ⟨r, hr, x, hx, rfl⟩
  · have := hs.1 r (List.mem_append_left _ hr.1); have h2 := this.2 x hx; dsimp only; omega
  · split at hf
    · rename_i a ha
      simp only [List.mem_flatMap, List.mem_filter, List.mem_map] at hf
      obtain ⟨r, hr, x, hx, rfl⟩ := hf
      have := hs.2 a ha r hr.1; have h2 := this.2 x hx; dsimp only; omega
    · cases hf
  · have := hs.1 r (List.mem_append_right _ hr.1); have h2 := this.2 x hx; dsimp only; omega

/-- The snapshot of a page holds what each count field counts (R377). -/
theorem get_countFields (s : State) (p : Page) (m : SMap Nat) (f : Fld) (hf : f ∈ countFields p) :
    SMap.get 0 ((countFields p).foldl (fun (m : SMap Nat) f => SMap.put 0 m f.key (s.counted p f)) m) f.key = s.counted p f := by
  have hall : ∀ g ∈ countFields p, g.lo < 64 := fun g hg => (countFields_page p g hg).2.2
  have hfl := hall f hf
  generalize countFields p = l at hf hall
  have keep : ∀ (l : List Fld) (m : SMap Nat), (∀ g ∈ l, g.lo < 64) → SMap.get 0 m f.key = s.counted p f →
      SMap.get 0 (l.foldl (fun (m : SMap Nat) f => SMap.put 0 m f.key (s.counted p f)) m) f.key = s.counted p f := by
    intro l
    induction l with
    | nil => exact fun _ _ h => h
    | cons g l ih =>
      intro m hl h
      refine ih _ (fun x hx => hl x (List.mem_cons_of_mem _ hx)) ?_
      by_cases e : f.key = g.key
      · have hg := hl g (List.mem_cons_self ..)
        rw [e, SMap.get_put_same]
        have e1 : f.off = g.off := by simp only [Fld.key] at e; omega
        have e2 : f.lo = g.lo := by simp only [Fld.key] at e; omega
        simp only [State.counted, State.fld, resetOf, Fld.key, e1, e2]
      · rw [SMap.get_put_ne _ _ _ _ e]; exact h
  induction l generalizing m with
  | nil => cases hf
  | cons g l ih =>
    rcases List.mem_cons.1 hf with rfl | hf
    · exact keep l _ (fun x hx => hall x (List.mem_cons_of_mem _ hx)) (SMap.get_put_same _ _ _ _)
    · exact ih _ hf (fun x hx => hall x (List.mem_cons_of_mem _ hx))

end Sys2Proof.Machine
end

