-- ==== Sys2Proof/Laws/Arm.lean ====
section
/-! SUPPORT. Arms: the copy of a set, the start and the end of an arm. -/

namespace Sys2Proof.Machine

/-- Fields copied to others: each target takes its source's value. -/
theorem State.fld_copyFields (l : List (Fld × Fld)) (s : State) (h1 : ∀ x ∈ l, ∀ y ∈ l, x.1.key ≠ y.2.key)
    (h2 : ∀ x ∈ l, ∀ y ∈ l, x.1.key = y.1.key → x = y) (x : Fld × Fld) (hx : x ∈ l) :
    (l.foldl (fun s x => s.setFld x.1 (s.fld x.2)) s).fld x.1 = s.fld x.2 % 2 ^ x.1.w := by
  have keep : ∀ (l : List (Fld × Fld)) (s : State), (∀ y ∈ l, x.1.key = y.1.key → x = y) → (∀ y ∈ l, y.1.key ≠ x.2.key) →
      ∀ v, s.fld x.1 = v % 2 ^ x.1.w → s.fld x.2 = v → (l.foldl (fun s x => s.setFld x.1 (s.fld x.2)) s).fld x.1 = v % 2 ^ x.1.w := by
    intro l
    induction l with
    | nil => exact fun s _ _ v h _ => h
    | cons y l ih =>
      intro s ha hb v h h'
      refine ih _ (fun z hz => ha z (List.mem_cons_of_mem _ hz)) (fun z hz => hb z (List.mem_cons_of_mem _ hz)) v ?_ ?_
      · by_cases e : x.1.key = y.1.key
        · have := ha y (List.mem_cons_self ..) e
          subst this
          rw [State.fld_setFld_same, h']
        · rw [State.fld_setFld_ne _ _ e]; exact h
      · rw [State.fld_setFld_ne _ _ (fun e => hb y (List.mem_cons_self ..) e.symm)]; exact h'
  induction l generalizing s with
  | nil => cases hx
  | cons y l ih =>
    rcases List.mem_cons.1 hx with e | hx'
    · subst e
      refine keep l _ (fun z hz => h2 _ (List.mem_cons_self ..) z (List.mem_cons_of_mem _ hz)) (fun z hz => h1 z (List.mem_cons_of_mem _ hz) _ (List.mem_cons_self ..)) _ ?_ ?_
      · exact State.fld_setFld_same _ _ _
      · exact State.fld_setFld_ne _ _ (fun e => h1 _ (List.mem_cons_self ..) _ (List.mem_cons_self ..) e.symm)
    · rw [List.foldl_cons, ih _ (fun a ha b hb => h1 a (List.mem_cons_of_mem _ ha) b (List.mem_cons_of_mem _ hb))
        (fun a ha b hb => h2 a (List.mem_cons_of_mem _ ha) b (List.mem_cons_of_mem _ hb)) hx',
        State.fld_setFld_ne _ _ (fun e => h1 y (List.mem_cons_self ..) x hx e.symm)]

/-- Fields copied to others: no field but the targets changes, and nothing but registers. -/
theorem State.copyFields_frame (l : List (Fld × Fld)) (s : State) :
    Frame s (l.foldl (fun s x => s.setFld x.1 (s.fld x.2)) s) (fun k => ∃ x ∈ l, k = x.1.key) NoWord ∧
    l.foldl (fun s x => s.setFld x.1 (s.fld x.2)) s = { s with regs := (l.foldl (fun s x => s.setFld x.1 (s.fld x.2)) s).regs } := by
  induction l generalizing s with
  | nil => exact ⟨Frame.refl _ _ _, rfl⟩
  | cons y l ih =>
    obtain ⟨h1, h2⟩ := ih (s.setFld y.1 (s.fld y.2))
    refine ⟨?_, ?_⟩
    · exact ((Frame.refl s _ _).setFld _ ⟨y, List.mem_cons_self .., rfl⟩).trans
        (h1.mono (fun k ⟨x, hx, e⟩ => ⟨x, List.mem_cons_of_mem _ hx, e⟩) (fun _ h => h))
    · rw [List.foldl_cons, h2]; rfl

/-- A word of a moved window. -/
theorem SMap.get_moveWin (d : Nat) (m : SMap Nat) (src dst len i : Nat) (hi : i < len) :
    SMap.get d (moveWin m src dst len) (dst + i) = SMap.get d m (src + i) := by
  unfold moveWin SMap.slice
  induction m with
  | nil => rfl
  | cons e m ih =>
    obtain ⟨k, v⟩ := e
    by_cases h : src ≤ k ∧ k < src + len
    · rw [List.filter_cons_of_pos (by simpa using h)]
      simp only [List.map_cons, SMap.get]
      by_cases hk : k = src + i
      · rw [if_pos (by omega), if_pos hk]
      · rw [if_neg (by omega), if_neg hk]; exact ih
    · rw [List.filter_cons_of_neg (by simpa using h)]
      simp only [SMap.get]
      rw [if_neg (by omega)]; exact ih

/-- The armed windows lie above the MSI-X structures, and shadow and active windows of a page do not overlap. -/
theorem armWins_shape (k : PageKind) : (∀ w ∈ armWins k, 0x400000 ≤ w.1 ∧ 0x400000 ≤ w.2.1 ∧ 0 < w.2.2) ∧
    (∀ w ∈ armWins k, ∀ v ∈ armWins k, (w.1 + w.2.2 ≤ v.2.1 ∨ v.2.1 + v.2.2 ≤ w.1)) ∧
    ((armWins k).Pairwise (fun w v => (w.1 + w.2.2 ≤ v.1 ∨ v.1 + v.2.2 ≤ w.1) ∧ (w.2.1 + w.2.2 ≤ v.2.1 ∨ v.2.1 + v.2.2 ≤ w.2.1))) := by
  cases k <;> decide

/-- Windows copied to others. -/
def copyWins (l : List (Nat × Nat × Nat)) (s : State) : State :=
  l.foldl (fun s w => { s with tables := s.tables.graft w.1 (w.1 + w.2.2) (moveWin s.tables w.2.1 w.1 w.2.2) }) s

theorem copyWins_rest (l : List (Nat × Nat × Nat)) (s : State) : copyWins l s = { s with tables := (copyWins l s).tables } := by
  unfold copyWins
  induction l generalizing s with
  | nil => rfl
  | cons w l ih => rw [List.foldl_cons, ih]

theorem State.tab_graft (s : State) (w : Nat × Nat × Nat) (hw : 0x400000 ≤ w.1) (hv : 0x400000 ≤ w.2.1) (o : Nat) :
    State.tab { s with tables := s.tables.graft w.1 (w.1 + w.2.2) (moveWin s.tables w.2.1 w.1 w.2.2) } o =
      if w.1 ≤ o ∧ o < w.1 + w.2.2 then s.tab (w.2.1 + (o - w.1)) else s.tab o := by
  unfold State.tab
  dsimp only
  rw [SMap.get_graft _ _ _ _ _ _ (by omega)]
  by_cases h : w.1 ≤ o ∧ o < w.1 + w.2.2
  · rw [if_pos h, if_pos h]
    obtain ⟨i, hi⟩ : ∃ i, o = w.1 + i := ⟨o - w.1, by omega⟩
    subst hi
    rw [SMap.get_moveWin _ _ _ _ _ _ (by omega)]
    have e1 : tabDefault (w.1 + i) = 0 := by unfold tabDefault; rw [if_neg (by omega)]
    have e2 : tabDefault (w.2.1 + (w.1 + i - w.1)) = 0 := by unfold tabDefault; rw [if_neg (by omega)]
    rw [e1, e2, show w.1 + i - w.1 = i by omega]
  · rw [if_neg h, if_neg h]

theorem copyWins_out (l : List (Nat × Nat × Nat)) (s : State) (hl : ∀ w ∈ l, 0x400000 ≤ w.1 ∧ 0x400000 ≤ w.2.1) (o : Nat)
    (ho : ∀ w ∈ l, ¬ (w.1 ≤ o ∧ o < w.1 + w.2.2)) : (copyWins l s).tab o = s.tab o := by
  unfold copyWins
  induction l generalizing s with
  | nil => rfl
  | cons w l ih =>
    rw [List.foldl_cons, ih _ (fun v hv => hl v (List.mem_cons_of_mem _ hv)) (fun v hv => ho v (List.mem_cons_of_mem _ hv)),
      State.tab_graft _ _ (hl w (List.mem_cons_self ..)).1 (hl w (List.mem_cons_self ..)).2, if_neg (ho w (List.mem_cons_self ..))]

theorem copyWins_in (l : List (Nat × Nat × Nat)) (s : State) (hl : ∀ w ∈ l, 0x400000 ≤ w.1 ∧ 0x400000 ≤ w.2.1)
    (hx : ∀ w ∈ l, ∀ v ∈ l, (w.1 + w.2.2 ≤ v.2.1 ∨ v.2.1 + v.2.2 ≤ w.1)) (hp : l.Pairwise (fun w v => w.1 + w.2.2 ≤ v.1 ∨ v.1 + v.2.2 ≤ w.1))
    (w : Nat × Nat × Nat) (hw : w ∈ l) (i : Nat) (hi : i < w.2.2) : (copyWins l s).tab (w.1 + i) = s.tab (w.2.1 + i) := by
  unfold copyWins
  induction l generalizing s with
  | nil => cases hw
  | cons v l ih =>
    rw [List.foldl_cons]
    rw [List.pairwise_cons] at hp
    have hv := hl v (List.mem_cons_self ..)
    rcases List.mem_cons.1 hw with rfl | hw'
    · have := copyWins_out l { s with tables := s.tables.graft w.1 (w.1 + w.2.2) (moveWin s.tables w.2.1 w.1 w.2.2) }
        (fun v hv => hl v (List.mem_cons_of_mem _ hv)) (w.1 + i) (fun u hu c => by have := hp.1 u hu; omega)
      unfold copyWins at this
      rw [this, State.tab_graft _ _ hv.1 hv.2, if_pos (by omega), show w.1 + i - w.1 = i by omega]
    · rw [ih _ (fun u hu => hl u (List.mem_cons_of_mem _ hu)) (fun a ha b hb => hx a (List.mem_cons_of_mem _ ha) b (List.mem_cons_of_mem _ hb)) hp.2 hw',
        State.tab_graft _ _ hv.1 hv.2, if_neg]
      have := hx v (List.mem_cons_self ..) w hw
      omega

set_option maxRecDepth 20000 in
/-- The armed fields of a page kind by page offset: no shadow field is an active one, none is named twice. -/
theorem armPairs_shape (k : PageKind) :
    let l := (armPairs k).flatMap (fun ab => match regRow k ab.1 with
      | some (_, r) => r.fields.map (fun x => (ab.1, ab.2, x.lo, x.w))
      | none => [])
    (∀ x ∈ l, x.2.2.1 < 64) ∧ (∀ x ∈ l, ∀ y ∈ l, (x.1, x.2.2.1) ≠ (y.2.1, y.2.2.1)) ∧
      (∀ x ∈ l, ∀ y ∈ l, (x.1, x.2.2.1) = (y.1, y.2.2.1) → x = y) ∧ (∀ x ∈ l, ∀ y ∈ l, (x.2.1, x.2.2.1) = (y.2.1, y.2.2.1) → x = y) := by
  cases k <;> decide

theorem armFields_eq (p : Page) : armFields p = ((armPairs p.kind).flatMap (fun ab => match regRow p.kind ab.1 with
      | some (_, r) => r.fields.map (fun x => (ab.1, ab.2, x.lo, x.w))
      | none => [])).map (fun x => (⟨p.base + x.1, x.2.2.1, x.2.2.2⟩, ⟨p.base + x.2.1, x.2.2.1, x.2.2.2⟩)) := by
  unfold armFields
  induction armPairs p.kind with
  | nil => rfl
  | cons a l ih =>
    rw [List.flatMap_cons, List.flatMap_cons, List.map_append, ih]
    congr 1
    cases regRow p.kind a.1 with
    | none => rfl
    | some r => simp

theorem armFields_shape (p : Page) : (∀ x ∈ armFields p, ∀ y ∈ armFields p, x.1.key ≠ y.2.key) ∧
    (∀ x ∈ armFields p, ∀ y ∈ armFields p, x.1.key = y.1.key → x = y) ∧ (∀ x ∈ armFields p, ∀ y ∈ armFields p, x.2.key = y.2.key → x = y) := by
  have h := armPairs_shape p.kind
  rw [armFields_eq]
  generalize List.flatMap _ _ = l at h ⊢
  refine ⟨?_, ?_, ?_⟩ <;>
  · intro x hx y hy
    obtain ⟨a, ha, rfl⟩ := List.mem_map.1 hx
    obtain ⟨b, hb, rfl⟩ := List.mem_map.1 hy
    have ea := h.1 a ha
    have eb := h.1 b hb
    have h1 := h.2.1 a ha b hb
    have h2 := h.2.2.1 a ha b hb
    have h3 := h.2.2.2 a ha b hb
    simp only [Fld.key, ne_eq]
    intro e
    first
    | exact h1 (Prod.ext (by dsimp only; omega) (by dsimp only; omega))
    | (have := h2 (Prod.ext (by dsimp only; omega) (by dsimp only; omega)); rw [this])
    | (have := h3 (Prod.ext (by dsimp only; omega) (by dsimp only; omega)); rw [this])

/-- Weights that leave their banks: the beam combiner changes, and of the registers WL_BUSY alone. -/
theorem State.dropWeights_is (s : State) (j : Nat) :
    ∃ bm v, s.dropWeights j = State.setBit { s with beam := bm } R.BM_STAT_WL_BUSY v :=
  ⟨_, _, rfl⟩

/-- What ends without effect gives back the weights loaded for it: the beam combiner changes, and of the registers WL_BUSY alone. -/
theorem State.dropAhead_is (s : State) (p : Page) :
    ∃ bm rg, s.dropAhead p = { s with beam := bm, regs := rg } ∧
      ∀ f : Fld, f.key ≠ R.BM_STAT_WL_BUSY.key → (s.dropAhead p).fld f = s.fld f := by
  unfold State.dropAhead
  dsimp only
  split
  · exact ⟨s.beam, s.regs, rfl, fun _ _ => rfl⟩
  · generalize [s.beam.cur, s.beam.free].filterMap id = l
    generalize hc : (s.arm p).due = due
    clear hc
    have key : ∀ (l : List WtBank) (t : State), (∃ bm rg, t = { s with beam := bm, regs := rg }) →
        (∀ f : Fld, f.key ≠ R.BM_STAT_WL_BUSY.key → t.fld f = s.fld f) →
        (∃ bm rg, l.foldl (fun s b => if after48 ((s.cfgOfPass b.pass).passFrame b.pass) due then s.dropWeights b.pass else s) t
          = { s with beam := bm, regs := rg }) ∧
        ∀ f : Fld, f.key ≠ R.BM_STAT_WL_BUSY.key →
          (l.foldl (fun s b => if after48 ((s.cfgOfPass b.pass).passFrame b.pass) due then s.dropWeights b.pass else s) t).fld f = s.fld f := by
      intro l
      induction l with
      | nil => intro t h1 h2; exact ⟨h1, h2⟩
      | cons b l ih =>
        intro t h1 h2
        rw [List.foldl_cons]
        apply ih
        · split
          · obtain ⟨bm, v, e⟩ := t.dropWeights_is b.pass
            obtain ⟨_, _, rfl⟩ := h1
            rw [e]
            exact ⟨_, _, rfl⟩
          · exact h1
        · intro f hf
          split
          · obtain ⟨bm, v, e⟩ := t.dropWeights_is b.pass
            rw [e, State.setBit, State.fld_setFld_ne _ _ (fun h => hf (by rw [h]))]
            exact h2 f hf
          · exact h2 f hf
    obtain ⟨⟨bm, rg, e⟩, h⟩ := key l s ⟨s.beam, s.regs, rfl⟩ (fun _ _ => rfl)
    exact ⟨bm, rg, e, h⟩

/-- Only an arm of BM or of the device has weights loaded for it. -/
theorem State.dropAhead_other (s : State) {p : Page} (h : p ≠ bmPg) (h' : p ≠ xsPg) : s.dropAhead p = s := by
  unfold State.dropAhead
  simp [h, h']

theorem State.dropAhead_fld (s : State) (p : Page) {f : Fld} (h : f.key ≠ R.BM_STAT_WL_BUSY.key) : (s.dropAhead p).fld f = s.fld f := by
  obtain ⟨_, _, _, h2⟩ := s.dropAhead_is p
  exact h2 f h

theorem Frame.dropAhead {s t : State} {reg win : Nat → Prop} (h : Frame s t reg win) (p : Page) (hr : reg R.BM_STAT_WL_BUSY.key) :
    Frame s (t.dropAhead p) reg win := by
  obtain ⟨bm, rg, e, h2⟩ := t.dropAhead_is p
  refine ⟨fun f hf => ?_, fun o ho => ?_, fun q => ?_⟩
  · rw [h2 f (fun c => hf (c ▸ hr))]
    exact h.1 f hf
  · rw [e]; exact h.2.1 o ho
  · rw [e]; exact h.2.2 q

/-- What cancelling one arm may change (R27, R42). -/
theorem Frame.armCancel {s t : State} {reg win : Nat → Prop} (h : Frame s t reg win) (p : Page)
    (hr : ∀ k, (k = (R.ARM_STATUS_STATE (armB p)).key ∨ k = (R.PG_IRQ_RAW p).key ∨ k = R.BM_STAT_WL_BUSY.key ∨ PageKeys evtPg k) → reg k)
    (hw : ∀ o, PbaWords o → win o) : Frame s (t.armCancel p) reg win := by
  unfold State.armCancel State.armOver
  exact (((h.dropAhead p (hr _ (Or.inr (Or.inr (Or.inl rfl))))).setFld _ (hr _ (Or.inl rfl))).info _ _ _ _ _ _ _
    (fun k hk => hr _ (Or.inr (Or.inr (Or.inr hk)))) hw).raise _ _ (hr _ (Or.inr (Or.inl rfl))) hw

/-- The arm group of a page lies in its block registers. -/
theorem armB_range (p : Page) : p.base + 0x100 ≤ armB p ∨ armOffset p.kind = none := by
  unfold armB
  cases hk : p.kind <;> simp [armOffset]

/-- Pages with an arm group lie below the event page. -/
theorem armPage_below (p : Page) (hp : p.inst < p.kind.countF) (h : (armOffset p.kind).isSome = true) : p.base + 0x1000 ≤ 0x300000 := by
  obtain ⟨k, i⟩ := p
  cases k <;> simp_all [armOffset, Page.base, PageKind.base0, PageKind.stride, PageKind.countF] <;> omega

/-- A raised source shows in PG_IRQ_RAW (R376). -/
theorem State.raise_raw (s : State) (p : Page) (n : Nat) (hn : n < 32) : ((s.raise p n).fld (R.PG_IRQ_RAW p)).testBit n = true := by
  rw [State.fld_raise_same, Nat.testBit_mod_two_pow, putBit_testBit]
  simp [hn]

/-- The arm registers of a page that an end of an arm only reports. -/
theorem State.fld_armOver (s : State) (p : Page) (f : Fld) (h1 : f.key ≠ (R.PG_IRQ_RAW p).key) (h2 : f.off < 0x300000) (h3 : f.lo < 64) :
    (s.armOver p).fld f = s.fld f := by
  unfold State.armOver
  rw [State.fld_raise_ne _ _ _ h1, State.fld_info_off _ _ _ _ _ _ _ _ (Or.inl h2) h3]

/-- What the start of a check leaves (R28). -/
theorem State.beginCheck_spec (s : State) (p : Page) : (s.beginCheck p).fld (R.ARM_STATUS_STATE (armB p)) = 1 ∧
    (∀ f ∈ [R.ARM_STATUS_LATE (armB p), R.ARM_STATUS_CANCEL_LATE (armB p), R.ARM_STATUS_SHADOW_BLOCKED (armB p),
        R.ARM_STATUS_ARM_IGNORED (armB p), R.ARM_STATUS_CODE (armB p)], (s.beginCheck p).fld f = 0) ∧
    Frame s (s.beginCheck p) (Keys [R.ARM_STATUS_STATE (armB p), R.ARM_STATUS_LATE (armB p), R.ARM_STATUS_CANCEL_LATE (armB p),
        R.ARM_STATUS_SHADOW_BLOCKED (armB p), R.ARM_STATUS_ARM_IGNORED (armB p), R.ARM_STATUS_CODE (armB p)]) NoWord ∧
    (s.beginCheck p).units = s.units := by
  unfold State.beginCheck
  refine ⟨State.fld_setFld_val _ _ _ (by simp [R.ARM_STATUS_STATE]), fun f hf => ?_, ?_, by simp⟩
  · simp only [List.mem_cons, List.not_mem_nil, or_false] at hf
    rcases hf with rfl | rfl | rfl | rfl | rfl <;>
    · repeat (first
        | with_reducible exact State.fld_setFld_val _ _ _ (Nat.two_pow_pos _)
        | rw [State.fld_setFld_ne _ _ (by simp only [Fld.key, R.ARM_STATUS_LATE, R.ARM_STATUS_CANCEL_LATE, R.ARM_STATUS_SHADOW_BLOCKED,
            R.ARM_STATUS_ARM_IGNORED, R.ARM_STATUS_CODE, R.ARM_STATUS_STATE, ne_eq]; omega)])
  · have h0 := Frame.refl s (Keys [R.ARM_STATUS_STATE (armB p), R.ARM_STATUS_LATE (armB p), R.ARM_STATUS_CANCEL_LATE (armB p),
        R.ARM_STATUS_SHADOW_BLOCKED (armB p), R.ARM_STATUS_ARM_IGNORED (armB p), R.ARM_STATUS_CODE (armB p)]) NoWord
    exact (((((h0.setFld _ (by simp [Keys])).setFld _ (by simp [Keys])).setFld _ (by simp [Keys])).setFld _ (by simp [Keys])).setFld _
      (by simp [Keys])).setFld _ (by simp [Keys])

/-- The end of a check or an arm: state, code and place of the first failure. -/
theorem State.armResult_spec (s : State) (p : Page) (st : Nat) (b : Option Bad) (hst : st < 8) :
    (s.armResult p st b).armState p = st ∧
    (s.armResult p st b).fld (R.ARM_STATUS_CODE (armB p)) = (match b with | some x => x.code | none => 0) % 2 ^ 8 ∧
    (b = none → ∀ f ∈ [R.ARM_STATUS_CODE (armB p), R.ARM_DETAIL_WHERE (armB p), R.ARM_DETAIL_TYPE (armB p),
          R.ARM_DETAIL_WINDOW (armB p), R.ARM_DETAIL_TABLE (armB p)], (s.armResult p st b).fld f = 0) ∧
    Frame s (s.armResult p st b) (fun k => armB p * 64 ≤ k ∧ k < (armB p + 0x20) * 64) NoWord ∧
    (s.armResult p st b).units = s.units := by
  have hk : ∀ f ∈ [R.ARM_STATUS_STATE (armB p), R.ARM_STATUS_CODE (armB p), R.ARM_DETAIL_WHERE (armB p), R.ARM_DETAIL_TYPE (armB p),
          R.ARM_DETAIL_WINDOW (armB p), R.ARM_DETAIL_TABLE (armB p)], armB p * 64 ≤ f.key ∧ f.key < (armB p + 0x20) * 64 := by
    intro f hf
    simp only [List.mem_cons, List.not_mem_nil, or_false] at hf
    rcases hf with rfl | rfl | rfl | rfl | rfl | rfl <;> (simp only [Fld.key, R.ARM_STATUS_STATE, R.ARM_STATUS_CODE, R.ARM_DETAIL_WHERE,
      R.ARM_DETAIL_TYPE, R.ARM_DETAIL_WINDOW, R.ARM_DETAIL_TABLE]; omega)
  have ne : ∀ {f g : Fld}, f.off * 64 + f.lo ≠ g.off * 64 + g.lo → f.key ≠ g.key := fun h => h
  unfold State.armResult
  dsimp only
  refine ⟨?_, ?_, fun hb f hf => ?_, ?_, by simp⟩
  · unfold State.armState
    rw [State.fld_setBit_ne _ _ (ne (by simp only [R.ARM_STATUS_STATE, R.ARM_DETAIL_TABLE]; omega)),
      State.fld_setFld_ne _ _ (ne (by simp only [R.ARM_STATUS_STATE, R.ARM_DETAIL_WINDOW]; omega)),
      State.fld_setFld_ne _ _ (ne (by simp only [R.ARM_STATUS_STATE, R.ARM_DETAIL_TYPE]; omega)),
      State.fld_setFld_ne _ _ (ne (by simp only [R.ARM_STATUS_STATE, R.ARM_DETAIL_WHERE]; omega)),
      State.fld_setFld_ne _ _ (ne (by simp only [R.ARM_STATUS_STATE, R.ARM_STATUS_CODE]; omega)),
      State.fld_setFld_val _ _ _ (by simpa [R.ARM_STATUS_STATE] using hst)]
  · rw [State.fld_setBit_ne _ _ (ne (by simp only [R.ARM_STATUS_CODE, R.ARM_DETAIL_TABLE]; omega)),
      State.fld_setFld_ne _ _ (ne (by simp only [R.ARM_STATUS_CODE, R.ARM_DETAIL_WINDOW]; omega)),
      State.fld_setFld_ne _ _ (ne (by simp only [R.ARM_STATUS_CODE, R.ARM_DETAIL_TYPE]; omega)),
      State.fld_setFld_ne _ _ (ne (by simp only [R.ARM_STATUS_CODE, R.ARM_DETAIL_WHERE]; omega))]
    exact State.fld_setFld_same _ _ _
  · subst hb
    simp only [List.mem_cons, List.not_mem_nil, or_false] at hf
    simp only [Option.bind_none, Option.getD_none, Option.isSome_none]
    rcases hf with rfl | rfl | rfl | rfl | rfl <;>
    · repeat (first
        | with_reducible exact State.fld_setFld_val _ _ _ (Nat.two_pow_pos _)
        | (rw [State.fld_setBit_val _ _ _ (by simp [R.ARM_DETAIL_TABLE])]; rfl)
        | rw [State.fld_setFld_ne _ _ (ne (by simp only [R.ARM_STATUS_CODE, R.ARM_DETAIL_TABLE, R.ARM_DETAIL_WINDOW, R.ARM_DETAIL_TYPE, R.ARM_DETAIL_WHERE]; omega))]
        | rw [State.fld_setBit_ne _ _ (ne (by simp only [R.ARM_STATUS_CODE, R.ARM_DETAIL_TABLE, R.ARM_DETAIL_WINDOW, R.ARM_DETAIL_TYPE, R.ARM_DETAIL_WHERE]; omega))])
  · have h0 := Frame.refl s (fun k => armB p * 64 ≤ k ∧ k < (armB p + 0x20) * 64) NoWord
    exact (((((h0.setFld _ (hk _ (by simp))).setFld _ (hk _ (by simp))).setFld _ (hk _ (by simp))).setFld _ (hk _ (by simp))).setFld _
      (hk _ (by simp))).setBit _ (hk _ (by simp))

/-- What the end of an arm may change (R42). -/
theorem Frame.armOver {s t : State} {reg win : Nat → Prop} (h : Frame s t reg win) (p : Page)
    (hr : ∀ k, (k = (R.PG_IRQ_RAW p).key ∨ PageKeys evtPg k) → reg k) (hw : ∀ o, PbaWords o → win o) : Frame s (t.armOver p) reg win := by
  unfold State.armOver
  exact (h.info _ _ _ _ _ _ _ (fun k hk => hr _ (Or.inr hk)) hw).raise _ _ (hr _ (Or.inl rfl)) hw

@[simp] theorem State.armOver_units (s : State) (p : Page) : (s.armOver p).units = s.units := by simp [State.armOver]

/-- The pages with an arm group are pages of the map, and apart from each other. -/
theorem State.armPages_mem (s : State) (p : Page) (h : p ∈ s.armPages) : p.inst < p.kind.countF ∧ (armOffset p.kind).isSome = true := by
  unfold State.armPages at h
  simp only [List.mem_append, List.mem_map, List.mem_range, List.mem_cons, List.not_mem_nil, or_false] at h
  rcases h with ⟨j, hj, rfl⟩ | rfl | rfl | rfl | rfl | rfl | rfl | rfl | rfl
  · refine ⟨?_, rfl⟩
    unfold State.nLanes PageKind.count at hj
    cases hc : s.dev.code <;> rw [hc] at hj <;> simp [PageKind.countF, PageKind.countH] at hj ⊢ <;> omega
  all_goals exact ⟨by decide, by decide⟩

/-- Two pages do not overlap. -/
theorem Page.apart {p q : Page} (hp : p.inst < p.kind.countF) (hq : q.inst < q.kind.countF) (h : p ≠ q) :
    p.base + 0x1000 ≤ q.base ∨ q.base + 0x1000 ≤ p.base := by
  have a := Page.base_aligned p
  have b := Page.base_aligned q
  have : p.base ≠ q.base := by
    intro e
    have h1 := pageAt_base p 0 hp (by decide)
    have h2 := pageAt_base q 0 hq (by decide)
    rw [e, h2] at h1
    exact h (by cases h1; rfl)
  omega

/-- A page that is not due is left alone. -/
theorem State.reachPage_skip (s : State) (p : Page) (h : s.armState p ≠ 2) : s.reachPage p = s := by
  unfold State.reachPage
  dsimp only
  rw [if_pos (Or.inr (Or.inl h))]

theorem foldl_fix {α β : Type} (f : β → α → β) (l : List α) (b : β) (h : ∀ a ∈ l, f b a = b) : l.foldl f b = b := by
  induction l with
  | nil => rfl
  | cons a l ih => rw [List.foldl_cons, h a (List.mem_cons_self ..)]; exact ih (fun x hx => h x (List.mem_cons_of_mem _ hx))

theorem foldl_one {α β : Type} (f : β → α → β) (l : List α) (b c : β) (p : α) (hp : p ∈ l) (hc : f b p = c)
    (hb : ∀ a ∈ l, a ≠ p → f b a = b) (hk : ∀ a ∈ l, f c a = c) : l.foldl f b = c := by
  classical
  induction l with
  | nil => cases hp
  | cons a l ih =>
    rw [List.foldl_cons]
    by_cases e : a = p
    · rw [e, hc]; exact foldl_fix _ _ _ (fun x hx => hk x (List.mem_cons_of_mem _ hx))
    · rw [hb a (List.mem_cons_self ..) e]
      exact ih ((List.mem_cons.1 hp).resolve_left (fun h => e h.symm)) (fun x hx => hb x (List.mem_cons_of_mem _ hx))
        (fun x hx => hk x (List.mem_cons_of_mem _ hx))

/-- The armed fields of a page lie in it. -/
theorem armFields_page (p : Page) (x : Fld × Fld) (hx : x ∈ armFields p) :
    (p.base ≤ x.1.off ∧ x.1.off < p.base + 0x1000) ∧ (p.base ≤ x.2.off ∧ x.2.off < p.base + 0x1000) ∧ x.1.lo < 64 ∧ x.2.lo < 64 := by
  have h := armPairs_shape p.kind
  have hb : ∀ ab ∈ armPairs p.kind, ab.1 < 0x1000 ∧ ab.2 < 0x1000 := by cases p.kind <;> decide
  rw [armFields_eq] at hx
  obtain ⟨a, ha, rfl⟩ := List.mem_map.1 hx
  have h1 := h.1 a ha
  obtain ⟨ab, hab, ha⟩ := List.mem_flatMap.1 ha
  have h2 := hb ab hab
  have h3 : a.1 = ab.1 ∧ a.2.1 = ab.2 := by
    split at ha
    · obtain ⟨y, _, rfl⟩ := List.mem_map.1 ha; exact ⟨rfl, rfl⟩
    · cases ha
  dsimp only
  omega

/-- The armed fields of a page are neither in its arm group nor in its header. -/
theorem armFields_off (p : Page) (x : Fld × Fld) (hx : x ∈ armFields p) :
    p.base + 0x40 ≤ x.2.off ∧ (x.2.off < armB p ∨ armB p + 0x20 ≤ x.2.off) := by
  have hb : ∀ ab ∈ armPairs p.kind, 0x40 ≤ ab.2 ∧ (ab.2 < (armOffset p.kind).getD 0 ∨ (armOffset p.kind).getD 0 + 0x20 ≤ ab.2) := by
    cases p.kind <;> decide
  rw [armFields_eq] at hx
  obtain ⟨a, ha, rfl⟩ := List.mem_map.1 hx
  obtain ⟨ab, hab, ha⟩ := List.mem_flatMap.1 ha
  have h2 := hb ab hab
  have h3 : a.2.1 = ab.2 := by
    split at ha
    · obtain ⟨y, _, rfl⟩ := List.mem_map.1 ha; rfl
    · cases ha
  unfold armB
  dsimp only
  omega

/-- Applying a set copies its shadow fields; other fields, and what is neither register nor window, stay. -/
theorem State.applySet_spec (s : State) (p : Page) :
    (∀ x ∈ armFields p, (s.applySet p).fld x.2 = s.fld x.1 % 2 ^ x.2.w) ∧
    (∀ f : Fld, (∀ x ∈ armFields p, f.key ≠ x.2.key) → (s.applySet p).fld f = s.fld f) ∧ (s.applySet p).arms = s.arms ∧
    (s.applySet p).dev = s.dev ∧ (s.applySet p).actives = s.actives := by
  have hw : ∀ (l : List (Nat × Nat × Nat)) (s : State), (l.foldl (fun s w => { s with tables := s.tables.graft w.2.1 (w.2.1 + w.2.2) (moveWin s.tables w.1 w.2.1 w.2.2) }) s) =
      { s with tables := (l.foldl (fun s w => { s with tables := s.tables.graft w.2.1 (w.2.1 + w.2.2) (moveWin s.tables w.1 w.2.1 w.2.2) }) s).tables } := by
    intro l
    induction l with
    | nil => exact fun _ => rfl
    | cons w l ih => intro s; rw [List.foldl_cons, ih]
  have he : (armFields p).foldl (fun s x => s.setFld x.2 (s.fld x.1)) s =
      ((armFields p).map Prod.swap).foldl (fun s x => s.setFld x.1 (s.fld x.2)) s := by
    rw [List.foldl_map]; rfl
  have hs := armFields_shape p
  have hc := State.copyFields_frame ((armFields p).map Prod.swap) s
  unfold State.applySet
  dsimp only
  rw [he, hw]
  refine ⟨fun x hx => ?_, fun f hf => ?_, ?_, ?_, ?_⟩
  · rw [State.fld_mk]
    refine State.fld_copyFields _ s ?_ ?_ (x.2, x.1) (List.mem_map.2 ⟨x, hx, rfl⟩)
    · intro a ha b hb
      obtain ⟨a, ha', rfl⟩ := List.mem_map.1 ha
      obtain ⟨b, hb', rfl⟩ := List.mem_map.1 hb
      exact fun e => hs.1 b hb' a ha' e.symm
    · intro a ha b hb e
      obtain ⟨a, ha', rfl⟩ := List.mem_map.1 ha
      obtain ⟨b, hb', rfl⟩ := List.mem_map.1 hb
      rw [hs.2.2 a ha' b hb' e]
  · rw [State.fld_mk]
    refine hc.1.1 f ?_
    rintro ⟨y, hy, e⟩
    obtain ⟨z, hz, rfl⟩ := List.mem_map.1 hy
    exact hf z hz e
  · rw [hc.2]
  · rw [hc.2]
  · rw [hc.2]

/-- What a shape's evaluation shows changes registers of XS alone. -/
theorem State.showShape_units (s : State) (b : Bool) (c : Cfg) : (s.showShape b c).units = s.units := by
  unfold State.showShape
  extract_lets
  simp +zetaDelta only [State.setFld_units]

end Sys2Proof.Machine
end

