-- ==== Sys2Proof/Laws/Dram.lean ====
section
/-! SUPPORT. The canonical form of the DRAM contents (`Memory.wf`): every memory operation keeps it, and the state after reset
has it. -/

namespace Sys2Proof.Machine

theorem cellsSorted_tail {a : Host.Cell} {t : List Host.Cell} (h : cellsSorted (a :: t) = true) : cellsSorted t = true := by
  cases t with
  | nil => rfl
  | cons b t => simp only [cellsSorted, Bool.and_eq_true] at h; exact h.2

theorem cellsSorted_head {a b : Host.Cell} {t : List Host.Cell} (h : cellsSorted (a :: t) = true) (hb : b ∈ t) : a.1 < b.1 := by
  induction t generalizing a with
  | nil => cases hb
  | cons c t ih =>
    simp only [cellsSorted, Bool.and_eq_true, decide_eq_true_eq] at h
    cases hb with
    | head => exact h.1
    | tail _ hb => exact Nat.lt_trans h.1 (ih h.2 hb)

theorem cellsSorted_cons {a : Host.Cell} {t : List Host.Cell} (h : cellsSorted t = true) (ha : ∀ b ∈ t, a.1 < b.1) :
    cellsSorted (a :: t) = true := by
  cases t with
  | nil => rfl
  | cons b t => simp only [cellsSorted, Bool.and_eq_true, decide_eq_true_eq]; exact ⟨ha b (by simp), h⟩

theorem cellsSorted_filter {l : List Host.Cell} (f : Host.Cell → Bool) (h : cellsSorted l = true) : cellsSorted (l.filter f) = true := by
  induction l with
  | nil => rfl
  | cons a t ih =>
    have ht := ih (cellsSorted_tail h)
    rw [List.filter_cons]
    split
    · exact cellsSorted_cons ht (fun b hb => cellsSorted_head h (List.mem_filter.mp hb).1)
    · exact ht

theorem cellsSorted_append {l m : List Host.Cell} (hl : cellsSorted l = true) (hm : cellsSorted m = true)
    (h : ∀ a ∈ l, ∀ b ∈ m, a.1 < b.1) : cellsSorted (l ++ m) = true := by
  induction l with
  | nil => exact hm
  | cons a t ih =>
    refine cellsSorted_cons (ih (cellsSorted_tail hl) (fun x hx => h x (by simp [hx]))) (fun b hb => ?_)
    rcases List.mem_append.mp hb with hb | hb
    · exact cellsSorted_head hl hb
    · exact h a (by simp) b hb

theorem cellsSorted_zipIdx (p : Nat) (bs : List Byte) (n : Nat) :
    cellsSorted ((bs.zipIdx n).map (fun x => (p + x.2, x.1))) = true := by
  induction bs generalizing n with
  | nil => rfl
  | cons b t ih =>
    rw [List.zipIdx_cons, List.map_cons]
    refine cellsSorted_cons (ih (n + 1)) (fun c hc => ?_)
    obtain ⟨⟨v, i⟩, hx, rfl⟩ := List.mem_map.mp hc
    have := List.le_snd_of_mem_zipIdx hx
    show p + n < p + i
    omega

theorem putCells_sorted (d : DramSt) (p : Nat) (bs : List Byte) (h : cellsSorted d.cells = true) : cellsSorted (putCells d p bs) = true := by
  unfold putCells
  have hm : ∀ c ∈ (bs.zipIdx.map (fun x => (p + x.2, x.1))).filter (fun c => bgByte d.bg c.1 != some c.2), p ≤ c.1 ∧ c.1 < p + bs.length := by
    intro c hc
    obtain ⟨⟨v, i⟩, hx, rfl⟩ := List.mem_map.mp (List.mem_filter.mp hc).1
    have := List.snd_lt_of_mem_zipIdx hx
    show p ≤ p + i ∧ p + i < p + bs.length
    omega
  refine cellsSorted_append (cellsSorted_append (cellsSorted_filter _ h) (cellsSorted_filter _ (cellsSorted_zipIdx p bs 0)) ?_)
    (cellsSorted_filter _ h) ?_
  · intro a ha b hb
    have h1 := (List.mem_filter.mp ha).2
    have h2 := hm b hb
    simp only [decide_eq_true_eq] at h1
    omega
  · intro a ha b hb
    have h1 := (List.mem_filter.mp hb).2
    simp only [decide_eq_true_eq] at h1
    rcases List.mem_append.mp ha with ha | ha
    · have h2 := (List.mem_filter.mp ha).2
      simp only [decide_eq_true_eq] at h2
      omega
    · have h2 := hm a ha
      omega

/-- A write of bytes keeps the canonical form. -/
theorem wf_putCells {d d' : DramSt} (p : Nat) (bs : List Byte) (hc : d'.cells = putCells d p bs) (hb : d'.bg = d.bg)
    (h : Memory.wf d = true) : Memory.wf d' = true := by
  simp only [Memory.wf, Bool.and_eq_true, List.all_eq_true] at h ⊢
  rw [hc, hb]
  refine ⟨putCells_sorted d p bs h.1, fun c hm => ?_⟩
  unfold putCells at hm
  rcases List.mem_append.mp hm with hm | hm
  · rcases List.mem_append.mp hm with hm | hm
    · exact h.2 c (List.mem_filter.mp hm).1
    · exact (List.mem_filter.mp hm).2
  · exact h.2 c (List.mem_filter.mp hm).1

/-- A fill, or a loss, of a stretch keeps the canonical form. -/
theorem wf_cover {d : DramSt} (z : Bg) (h : Memory.wf d = true) : Memory.wf (d.cover z) = true := by
  simp only [Memory.wf, Bool.and_eq_true, List.all_eq_true] at h ⊢
  refine ⟨cellsSorted_filter _ h.1, fun c hm => ?_⟩
  have h1 := h.2 c (List.mem_filter.mp hm).1
  have h2 := (List.mem_filter.mp hm).2
  show (bgByte (z :: d.bg) c.1 != some c.2) = true
  rw [bgByte]
  cases ho : offsetIn z.order z.chans z.cbase c.1 with
  | none => exact h1
  | some o =>
    dsimp only at h2 ⊢
    rw [ho] at h2
    split
    · rename_i hh; simp [hh.1, hh.2] at h2
    · exact h1

/-- The state after reset has the canonical form. -/
theorem reset_wf : Memory.wf State.reset.dram = true := rfl

end Sys2Proof.Machine
end

