-- ==== Sys2Proof/Laws/Keeps.lean ====
section
/-! SUPPORT. What every operation of the model keeps, as one relation between two states, and the rules by which it is shown of an
operation from its parts. -/

namespace Sys2Proof.Machine

/-- What a command keeps, on the fields it speaks of. -/
def KeepsC (s0 : State) (dev : Dev) (pending : List Instr) (out : List Out) (ctr : Nat) (dram : DramSt) : Prop :=
  dev = s0.dev ∧ pending = s0.pending ∧ s0.out <:+ out ∧ s0.freeCtr ≤ ctr ∧ (Memory.wf s0.dram = true → Memory.wf dram = true)

/-- What every command keeps: the device, the queue, what has left the device, the free values used, and the canonical form of DRAM. -/
def Keeps (s0 s : State) : Prop := KeepsC s0 s.dev s.pending s.out s.freeCtr s.dram

theorem keeps_refl (s : State) : Keeps s s := ⟨rfl, rfl, List.suffix_refl _, Nat.le_refl _, fun h => h⟩

theorem keeps_ite {s0 a b : State} {c : Prop} [Decidable c] (ha : Keeps s0 a) (hb : Keeps s0 b) : Keeps s0 (if c then a else b) := by
  split <;> assumption

theorem keeps_cut {s0 : State} {P : Prop} (x : State) (h : Keeps s0 x) (k : Keeps s0 x → P) : P := k h

theorem keeps_snd {s0 : State} {α : Type} {p : α × State} {v : α} {t : State} (e : p = (v, t)) (h : Keeps s0 p.2) : Keeps s0 t := by
  subst e; exact h

theorem keeps_snd2 {s0 : State} {α β : Type} {p : α × β × State} {v : α} {w : β} {t : State} (e : p = (v, w, t)) (h : Keeps s0 p.2.2) : Keeps s0 t := by
  subst e; exact h

theorem keeps_foldl {s0 : State} {α : Type} {f : State → α → State} {l : List α} {s : State}
    (hf : ∀ t a, Keeps s0 t → Keeps s0 (f t a)) (h : Keeps s0 s) : Keeps s0 (l.foldl f s) := by
  induction l generalizing s with
  | nil => exact h
  | cons a l ih => exact ih (hf _ _ h)

theorem keeps_foldl_snd {s0 : State} {α β : Type} {f : β × State → α → β × State} {l : List α} {p : β × State}
    (hf : ∀ t a, Keeps s0 t.2 → Keeps s0 (f t a).2) (h : Keeps s0 p.2) : Keeps s0 (l.foldl f p).2 := by
  induction l generalizing p with
  | nil => exact h
  | cons a l ih => exact ih (hf _ _ h)

theorem keeps_foldl_snd2 {s0 : State} {α β γ : Type} {f : β × γ × State → α → β × γ × State} {l : List α} {p : β × γ × State}
    (hf : ∀ t a, Keeps s0 t.2.2 → Keeps s0 (f t a).2.2) (h : Keeps s0 p.2.2) : Keeps s0 (l.foldl f p).2.2 := by
  induction l generalizing p with
  | nil => exact h
  | cons a l ih => exact ih (hf _ _ h)

theorem keepsC_self {s0 e : State} (h : Keeps s0 e) : KeepsC s0 e.dev e.pending e.out e.freeCtr e.dram := h

theorem keepsC_ctr {s0 e : State} {n : Nat} (h : Keeps s0 e) : KeepsC s0 e.dev e.pending e.out (e.freeCtr + n) e.dram :=
  ⟨h.1, h.2.1, h.2.2.1, Nat.le_trans h.2.2.2.1 (Nat.le_add_right _ _), h.2.2.2.2⟩

theorem keepsC_ctr' {s0 e u : State} {n : Nat} (h : Keeps s0 e) (hu : Keeps s0 u) :
    KeepsC s0 e.dev e.pending e.out (u.freeCtr + n) e.dram :=
  ⟨h.1, h.2.1, h.2.2.1, Nat.le_trans hu.2.2.2.1 (Nat.le_add_right _ _), h.2.2.2.2⟩

theorem keepsC_out {s0 e : State} {o : Out} (h : Keeps s0 e) : KeepsC s0 e.dev e.pending (o :: e.out) e.freeCtr e.dram :=
  ⟨h.1, h.2.1, h.2.2.1.trans (List.suffix_cons _ _), h.2.2.2⟩

theorem keepsC_wf {s0 e : State} {d : DramSt} (hd : Memory.wf e.dram = true → Memory.wf d = true) (h : Keeps s0 e) :
    KeepsC s0 e.dev e.pending e.out e.freeCtr d := ⟨h.1, h.2.1, h.2.2.1, h.2.2.2.1, fun w => hd (h.2.2.2.2 w)⟩

theorem keepsC_cover {s0 e : State} (z : Bg) (h : Keeps s0 e) : KeepsC s0 e.dev e.pending e.out e.freeCtr (e.dram.cover z) :=
  keepsC_wf (wf_cover z) h

theorem keeps_mk {s0 : State} {dev : Dev} {pending : List Instr} {regs : SMap Nat} {latch : SMap Nat} {staged : SMap Nat} {opened : List Nat} {exts : List Nat} {snap : SnapSt} {tables : SMap Nat} {tabPoison : List Nat} {actives : List ActSet} {cfgs : List Cfg} {evq : List Ev} {evLoss : Nat} {out : List Out} {freeCtr : Nat} {ticks : Nat} {lanes : SMap LaneSt} {links : SMap LinkSt} {arr : ArrSt} {dly : DlySt} {chn : ChnSt} {dram : DramSt} {mere : MereSt} {sward : SwardSt} {bas : BasSt} {beam : BeamSt} {gsvs : SMap GsvSt} {arms : ArmsSt} {pcie : PcieSt} {tarn : TarnSt} {tod : TodSt} {tune : TuneSt} {well : WellSt} {flash : FlashSt} {pwr : PwrSt} {dma : DmaSt} {mx : MxSt} {thermtrip : Bool} :
    Keeps s0 (State.mk dev pending regs latch staged opened exts snap tables tabPoison actives cfgs evq evLoss out freeCtr ticks lanes links arr dly chn dram mere sward bas beam gsvs arms pcie tarn tod tune well flash pwr dma mx thermtrip) = KeepsC s0 dev pending out freeCtr dram := rfl

theorem keepsC_dram {s0 e : State} {words : SMap WordSt} {reads : List (Master × Nat)} {failed : List (Master × Nat)} {wfaults : List Nat} {epoch : Nat} {mapped : List Nat} {logs : SMap (List LogEnt)} {tracks : SMap (Option Track)} {trackSeq : Nat} {spareQ : List (Nat × Nat × Nat)} {spares : List Spare} {selfRefresh : Bool} {awake : List Nat} {retraining : List Nat} {rotation : Nat} {urgent : List Nat} {manual : List Nat} {retrainDue : Bool} {rtLast : Option Nat} {held : List (Nat × DramReq)} {fillRgn : Nat} {sysDone : Bool} {fillPos : Nat} {scrubStart : Option Nat} {scrubAt : Option (Nat × Nat × Nat)} {lastTemp : SMap Int} {nextMult : SMap (Option Nat)} (h : Keeps s0 e) :
    KeepsC s0 e.dev e.pending e.out e.freeCtr (DramSt.mk e.dram.cells e.dram.bg words reads failed wfaults epoch mapped logs tracks trackSeq spareQ spares selfRefresh awake retraining rotation urgent manual retrainDue rtLast held fillRgn sysDone fillPos scrubStart scrubAt lastTemp nextMult) := h

theorem keepsC_dram2 {s0 e : State} {d : DramSt} {words : SMap WordSt} {reads : List (Master × Nat)} {failed : List (Master × Nat)} {wfaults : List Nat} {epoch : Nat} {mapped : List Nat} {logs : SMap (List LogEnt)} {tracks : SMap (Option Track)} {trackSeq : Nat} {spareQ : List (Nat × Nat × Nat)} {spares : List Spare} {selfRefresh : Bool} {awake : List Nat} {retraining : List Nat} {rotation : Nat} {urgent : List Nat} {manual : List Nat} {retrainDue : Bool} {rtLast : Option Nat} {held : List (Nat × DramReq)} {fillRgn : Nat} {sysDone : Bool} {fillPos : Nat} {scrubStart : Option Nat} {scrubAt : Option (Nat × Nat × Nat)} {lastTemp : SMap Int} {nextMult : SMap (Option Nat)} :
    KeepsC s0 e.dev e.pending e.out e.freeCtr (DramSt.mk d.cells d.bg words reads failed wfaults epoch mapped logs tracks trackSeq spareQ spares selfRefresh awake retraining rotation urgent manual retrainDue rtLast held fillRgn sysDone fillPos scrubStart scrubAt lastTemp nextMult) = KeepsC s0 e.dev e.pending e.out e.freeCtr d := rfl

theorem keepsC_put {s0 e : State} {p : Nat} {bs : List Byte} {words : SMap WordSt} {reads : List (Master × Nat)} {failed : List (Master × Nat)} {wfaults : List Nat} {epoch : Nat} {mapped : List Nat} {logs : SMap (List LogEnt)} {tracks : SMap (Option Track)} {trackSeq : Nat} {spareQ : List (Nat × Nat × Nat)} {spares : List Spare} {selfRefresh : Bool} {awake : List Nat} {retraining : List Nat} {rotation : Nat} {urgent : List Nat} {manual : List Nat} {retrainDue : Bool} {rtLast : Option Nat} {held : List (Nat × DramReq)} {fillRgn : Nat} {sysDone : Bool} {fillPos : Nat} {scrubStart : Option Nat} {scrubAt : Option (Nat × Nat × Nat)} {lastTemp : SMap Int} {nextMult : SMap (Option Nat)} (h : Keeps s0 e) :
    KeepsC s0 e.dev e.pending e.out e.freeCtr (DramSt.mk (putCells e.dram p bs) e.dram.bg words reads failed wfaults epoch mapped logs tracks trackSeq spareQ spares selfRefresh awake retraining rotation urgent manual retrainDue rtLast held fillRgn sysDone fillPos scrubStart scrubAt lastTemp nextMult) :=
  keepsC_wf (wf_putCells p bs rfl rfl) h

end Sys2Proof.Machine
end

