-- ==== Sys2Proof/Laws/Link.lean ====
section
/-! SUPPORT. The link: changes of a link's state, and lanes done one by one. -/

namespace Sys2Proof.Machine

/-! ### Bases of the link and lane pages -/

theorem base_lnk (j : Nat) : (lnkPg j).base = 0x60000 + 0x1000 * j := rfl
theorem base_slk (n : Nat) : (slkPg n).base = 0x20000 + 0x1000 * n := rfl
theorem base_evt : evtPg.base = 0x300000 := rfl

/-- Lanes done one by one, each in its own page: other registers stay. -/
theorem Frame.lanes {f : State → Nat → State} (hf : ∀ s n, Frame s (f s n) (PageKeys (slkPg n)) NoWord) (l : List Nat) (s : State) :
    Frame s (l.foldl f s) (InPages (l.map slkPg)) NoWord := by
  induction l generalizing s with
  | nil => exact Frame.refl _ _ _
  | cons n l ih =>
    exact ((hf s n).mono (fun k hk => ⟨_, List.mem_cons_self .., hk⟩) (fun _ h => h)).trans
      ((ih _).mono (fun k ⟨p, hp, hk⟩ => ⟨p, List.mem_cons_of_mem _ hp, hk⟩) (fun _ h => h))

/-- A field that a lane's own operation sets holds its value after all lanes are done. -/
theorem State.fld_lanes {f : State → Nat → State} (hf : ∀ s n, Frame s (f s n) (PageKeys (slkPg n)) NoWord) (F : Nat → Fld)
    (hF : ∀ n, PageKeys (slkPg n) (F n).key) (v : Nat → Nat) (hv : ∀ s n, (f s n).fld (F n) = v n) (l : List Nat) (s : State) (n : Nat) (hn : n ∈ l) :
    (l.foldl f s).fld (F n) = v n := by
  induction l generalizing s with
  | nil => cases hn
  | cons m l ih =>
    rw [List.foldl_cons]
    by_cases h : n ∈ l
    · exact ih _ h
    · rcases List.mem_cons.1 hn with rfl | h'
      · rw [(Frame.lanes hf l _).1 (F n) ?_, hv]
        rintro ⟨p, hp, hk⟩
        obtain ⟨m, hm, rfl⟩ := List.mem_map.1 hp
        have h1 := hF n
        unfold PageKeys at h1 hk
        rw [base_slk] at h1 hk
        have : n = m := by omega
        exact h (this ▸ hm)
      · exact absurd h' h

/-- The fields that show a link's state lie in its page's STAT and CTL. -/
theorem Frame.showLkstate {s t : State} {reg win : Nat → Prop} (h : Frame s t reg win) (j st : Nat)
    (hr : ∀ k, Keys [R.LNK_STAT_STATE j, R.LNK_CTL_WAKE_REQ j, R.LNK_CTL_RETRAIN j, R.LNK_CTL_REGROW j, R.LNK_STAT_REFC_SRC j] k → reg k) :
    Frame s (t.showLkstate j st) reg win := by
  have h1 := h.setFld (f := R.LNK_STAT_STATE j) st (hr _ (by simp [Keys]))
  have h2 : Frame s (if st = lkWaking ∨ st = lkRetrain ∨ st = lkDormant then t.setFld (R.LNK_STAT_STATE j) st
      else (((t.setFld (R.LNK_STAT_STATE j) st).setFld (R.LNK_CTL_WAKE_REQ j) 0).setFld (R.LNK_CTL_RETRAIN j) 0).setFld (R.LNK_CTL_REGROW j) 0) reg win := by
    split
    · exact h1
    · exact ((h1.setFld _ (hr _ (by simp [Keys]))).setFld _ (hr _ (by simp [Keys]))).setFld _ (hr _ (by simp [Keys]))
  unfold State.showLkstate
  dsimp only
  generalize (if st = lkWaking ∨ st = lkRetrain ∨ st = lkDormant then t.setFld (R.LNK_STAT_STATE j) st
      else (((t.setFld (R.LNK_STAT_STATE j) st).setFld (R.LNK_CTL_WAKE_REQ j) 0).setFld (R.LNK_CTL_RETRAIN j) 0).setFld (R.LNK_CTL_REGROW j) 0) = X at h2
  split
  · rename_i h0
    subst h0
    exact h2.setBit _ (hr _ (by simp [Keys]))
  · exact h2

theorem State.fld_showLkstate (s : State) (j st : Nat) (f : Fld)
    (h : ¬ Keys [R.LNK_STAT_STATE j, R.LNK_CTL_WAKE_REQ j, R.LNK_CTL_RETRAIN j, R.LNK_CTL_REGROW j, R.LNK_STAT_REFC_SRC j] f.key) :
    (s.showLkstate j st).fld f = s.fld f :=
  ((Frame.refl s _ NoWord).showLkstate j st (fun _ h => h)).1 f h

theorem State.fld_showLkstate_state (s : State) (j st : Nat) (hst : st < 16) (hj : j < 64) :
    (s.showLkstate j st).fld (R.LNK_STAT_STATE j) = st := by
  have h0 : (s.setFld (R.LNK_STAT_STATE j) st).fld (R.LNK_STAT_STATE j) = st := State.fld_setFld_val _ _ _ (by simpa [R.LNK_STAT_STATE] using hst)
  unfold State.showLkstate
  dsimp only
  have h2 : (if st = lkWaking ∨ st = lkRetrain ∨ st = lkDormant then s.setFld (R.LNK_STAT_STATE j) st
      else (((s.setFld (R.LNK_STAT_STATE j) st).setFld (R.LNK_CTL_WAKE_REQ j) 0).setFld (R.LNK_CTL_RETRAIN j) 0).setFld (R.LNK_CTL_REGROW j) 0).fld
        (R.LNK_STAT_STATE j) = st := by
    split
    · exact h0
    · rw [State.fld_setFld_ne _ _ (by simp only [Fld.key, R.LNK_STAT_STATE, R.LNK_CTL_REGROW, ne_eq]; omega),
        State.fld_setFld_ne _ _ (by simp only [Fld.key, R.LNK_STAT_STATE, R.LNK_CTL_RETRAIN, ne_eq]; omega),
        State.fld_setFld_ne _ _ (by simp only [Fld.key, R.LNK_STAT_STATE, R.LNK_CTL_WAKE_REQ, ne_eq]; omega), h0]
  split
  · rename_i h0
    subst h0
    rw [State.fld_setBit_ne _ _ (by simp only [Fld.key, R.LNK_STAT_STATE, R.LNK_STAT_REFC_SRC, ne_eq]; omega), h2]
  · exact h2

@[simp] theorem State.showLkstate_units (s : State) (j st : Nat) : (s.showLkstate j st).units = s.units := by
  unfold State.showLkstate
  dsimp only
  split <;> split <;> simp only [State.setBit_units, State.setFld_units]

/-- What a change of a link's state may change. -/
theorem Frame.setLkstate {s t : State} {reg win : Nat → Prop} (h : Frame s t reg win) (j st : Nat) (hr : ∀ k, InPages [lnkPg j, evtPg] k → reg k)
    (hw : ∀ o, PbaWords o → win o) : Frame s (t.setLkstate j st) reg win := by
  have hk : ∀ f : Fld, 0x60000 + 0x1000 * j ≤ f.off → f.off < 0x60000 + 0x1000 * j + 0x1000 → f.lo < 64 → reg f.key := fun f h1 h2 h3 =>
    hr _ ⟨lnkPg j, List.mem_cons_self .., by unfold PageKeys Fld.key; rw [base_lnk]; omega⟩
  have he : ∀ k, PageKeys evtPg k → reg k := fun k hk => hr _ ⟨evtPg, by simp, hk⟩
  have hraw : reg (R.PG_IRQ_RAW (lnkPg j)).key := hk _ (by simp only [R.PG_IRQ_RAW, base_lnk]; omega) (by simp only [R.PG_IRQ_RAW, base_lnk]; omega) (by simp [R.PG_IRQ_RAW])
  have h2 : Frame s (t.showLkstate j st) reg win := h.showLkstate j st (fun k hk' => by
    simp only [Keys, List.map_cons, List.map_nil, List.mem_cons, List.not_mem_nil, or_false] at hk'
    rcases hk' with rfl | rfl | rfl | rfl | rfl <;> refine hk _ ?_ ?_ ?_ <;>
      simp [R.LNK_STAT_STATE, R.LNK_CTL_WAKE_REQ, R.LNK_CTL_RETRAIN, R.LNK_CTL_REGROW, R.LNK_STAT_REFC_SRC] <;> omega)
  unfold State.setLkstate
  dsimp only
  split
  · exact h
  · generalize t.showLkstate j st = X at h2
    have h3 : ∀ a b c d, Frame s ((X.info (lnkPg j) 0xE1 none a b c d).raise (lnkPg j) 0) reg win :=
      fun a b c d => (h2.info _ _ _ _ _ _ _ he hw).raise _ _ hraw hw
    split
    · exact (h3 _ _ _ _).raise _ _ hraw hw
    · split
      · refine ((h3 _ _ _ _).error _ _ _ _ _ (fun k hk' => ?_) he hw).raise _ _ hraw hw
        simp only [Keys, List.map_cons, List.map_nil, List.mem_cons, List.not_mem_nil, or_false] at hk'
        rcases hk' with rfl | rfl | rfl | rfl <;> refine hk _ ?_ ?_ ?_ <;> simp [R.PG_ERR_CNT_COUNT, R.PG_ERR_CODE_CODE, R.PG_ERR_CODE_VALID, R.PG_ERR_SEQ_FRAME, base_lnk] <;> omega
      · exact h3 _ _ _ _

/-- A change of a link's state changes no register but those that show it, the link page's header and the event page. -/
theorem State.fld_setLkstate (s : State) (j st : Nat) (f : Fld)
    (h1 : ¬ Keys [R.LNK_STAT_STATE j, R.LNK_CTL_WAKE_REQ j, R.LNK_CTL_RETRAIN j, R.LNK_CTL_REGROW j, R.LNK_STAT_REFC_SRC j] f.key)
    (h3 : f.off < 0x300000) (h4 : f.lo < 64) (h5 : f.key ≠ (R.PG_IRQ_RAW (lnkPg j)).key) (h6 : f.off < 0x60020 + 0x1000 * j ∨ 0x6002C + 0x1000 * j ≤ f.off) :
    (s.setLkstate j st).fld f = s.fld f := by
  have he : ∀ (X : State) l, (X.error (lnkPg j) l 0 0 none).fld f = X.fld f := fun X l =>
    X.fld_error_off _ _ _ _ _ (Or.inl h3) h4 (by rw [base_lnk]; omega)
  have h2 := s.fld_showLkstate j st f h1
  unfold State.setLkstate
  dsimp only
  split
  · rfl
  · generalize s.showLkstate j st = X at h2
    have h3' : ∀ a b c d, ((X.info (lnkPg j) 0xE1 none a b c d).raise (lnkPg j) 0).fld f = s.fld f := by
      intro a b c d
      rw [State.fld_raise_ne _ _ _ h5, State.fld_info_off _ _ _ _ _ _ _ _ (Or.inl h3) h4, h2]
    split
    · rw [State.fld_raise_ne _ _ _ h5, h3']
    · split
      · rw [State.fld_raise_ne _ _ _ h5, he, h3']
      · exact h3' _ _ _ _

theorem State.lkstate_setLkstate (s : State) (j st : Nat) (hst : st < 16) (hj : j < 64) : (s.setLkstate j st).lkstate j = st := by
  have hb : (lnkPg j).base = 0x60000 + 0x1000 * j := rfl
  have ne1 : (R.LNK_STAT_STATE j).key ≠ (R.PG_IRQ_RAW (lnkPg j)).key := by simp only [Fld.key, R.LNK_STAT_STATE, R.PG_IRQ_RAW, hb, ne_eq]; omega
  have ho : (R.LNK_STAT_STATE j).off < 0x300000 := by simp only [R.LNK_STAT_STATE]; omega
  have hl : (R.LNK_STAT_STATE j).lo < 64 := by simp [R.LNK_STAT_STATE]
  have h2 := s.fld_showLkstate_state j st hst hj
  unfold State.setLkstate State.lkstate
  dsimp only
  split
  · assumption
  · generalize s.showLkstate j st = X at h2
    have h3' : ∀ a b c d, ((X.info (lnkPg j) 0xE1 none a b c d).raise (lnkPg j) 0).fld (R.LNK_STAT_STATE j) = st := by
      intro a b c d
      rw [State.fld_raise_ne _ _ _ ne1, State.fld_info_off _ _ _ _ _ _ _ _ (Or.inl ho) hl, h2]
    split
    · rw [State.fld_raise_ne _ _ _ ne1, h3']
    · split
      · rw [State.fld_raise_ne _ _ _ ne1, State.fld_error_off _ _ _ _ _ _ (Or.inl ho) hl (by rw [hb]; simp only [R.LNK_STAT_STATE]; omega), h3']
      · exact h3' _ _ _ _

@[simp] theorem State.setLkstate_units (s : State) (j st : Nat) : (s.setLkstate j st).units = s.units := by
  have h2 := s.showLkstate_units j st
  unfold State.setLkstate
  dsimp only
  split
  · rfl
  · generalize s.showLkstate j st = X at h2
    split
    · simp only [State.raise_units, State.info_units, h2]
    · split <;> simp only [State.raise_units, State.info_units, State.error_units, h2]

/-! ### PAM4 symbols -/

theorem grayLevel_lt (a b : Bool) : grayLevel a b < 4 := by cases a <;> cases b <;> decide

@[simp] theorem grayBits_grayLevel (a b : Bool) : grayBits (grayLevel a b) = (a, b) := by cases a <;> cases b <;> rfl

/-- A receiver that starts from the symbol the transmitter started from recovers the level numbers. -/
theorem unprecode_precode (y : Nat) (xs : List Nat) (hx : ∀ x ∈ xs, x < 4) : unprecode y (precode y xs) = xs := by
  induction xs generalizing y with
  | nil => rfl
  | cons x t ih =>
    have h0 : x < 4 := hx x (by simp)
    simp only [precode, unprecode, List.cons.injEq]
    exact ⟨by omega, ih _ (fun z hz => hx z (by simp [hz]))⟩

/-- Precoded symbols are level numbers again. -/
theorem precode_lt (y : Nat) (xs : List Nat) : ∀ z ∈ precode y xs, z < 4 := by
  induction xs generalizing y with
  | nil => simp [precode]
  | cons x t ih =>
    intro z hz
    simp only [precode, List.mem_cons] at hz
    rcases hz with rfl | h
    · omega
    · exact ih _ z h

end Sys2Proof.Machine
end

