-- ==== Sys2Proof/Laws/Memory.lean ====
section
/-! SUPPORT. What an access to stacked memory changes: one relation, kept by every operation below a master's read or write. -/

namespace Sys2Proof.Machine

variable {s t u : State} {W : Nat → Prop}

/-! ### The relation -/

theorem MemStep.refl (W : Nat → Prop) (s : State) : MemStep W s s := ⟨fun _ _ => rfl, fun _ _ => rfl, rfl, rfl, fun _ _ => rfl⟩

theorem MemStep.trans (h : MemStep W s t) (h' : MemStep W t u) : MemStep W s u := by
  refine ⟨fun f hf => (h'.1 f hf).trans (h.1 f hf), fun o ho => (h'.2.1 o ho).trans (h.2.1 o ho), ?_,
    h'.2.2.2.1.trans h.2.2.2.1, fun b hb => (h'.2.2.2.2 b hb).trans (h.2.2.2.2 b hb)⟩
  rw [h'.2.2.1, h.2.2.1]

theorem MemStep.mono {V : Nat → Prop} (h : MemStep V s t) (hw : ∀ b, V b → W b) : MemStep W s t :=
  ⟨h.1, h.2.1, h.2.2.1, h.2.2.2.1, fun b hb => h.2.2.2.2 b (fun c => hb (hw b c))⟩

/-- A change of the controllers' registers alone. -/
theorem MemStep.of_frame (h : Frame s t MemoryKeys PbaWords) (hu : t.units = s.units) : MemStep W s t := by
  have hd := State.dram_of_units hu
  refine ⟨h.1, h.2.1, ?_, by rw [hd], fun b _ => h.2.2 b⟩
  rw [hu, hd]; rfl

/-- A change of the memory's own state alone. -/
theorem MemStep.of_dram (d : DramSt) (hm : d.mapped = s.dram.mapped) (hb : ∀ b, ¬ W b → d.byteAt b = s.dram.byteAt b) :
    MemStep W s { s with dram := d } := ⟨fun _ _ => rfl, fun _ _ => rfl, rfl, hm, hb⟩

theorem findSome_congr {α β : Type} {l : List α} {f g : α → Option β} (h : ∀ x ∈ l, f x = g x) : l.findSome? f = l.findSome? g := by
  induction l with
  | nil => rfl
  | cons a l ih => rw [List.findSome?_cons, List.findSome?_cons, h a (by simp), ih (fun x hx => h x (by simp [hx]))]

/-- The region map stays: an address keeps its place. -/
theorem MemStep.placeOf (h : MemStep W s t) (m : Master) (a : Nat) : t.placeOf m a = s.placeOf m a := by
  have key : ∀ f : Fld, 0x1C8000 ≤ f.off → f.off < 0x1C9000 → f.lo < 64 → t.fld f = s.fld f := by
    intro f h1 h2 h3
    refine h.1 f (fun c => c.2.2 ?_)
    have hb : (pg .map).base = 0x1C8000 := by rfl
    unfold PageKeys Fld.key
    rw [hb]
    omega
  have hr : ∀ r < 8, t.fld (R.MAP_RGN_CTL_ENABLE r) = s.fld (R.MAP_RGN_CTL_ENABLE r) ∧ t.rgnBase r = s.rgnBase r ∧ t.rgnSize r = s.rgnSize r ∧
      t.rgnOrder r = s.rgnOrder r ∧ t.rgnCbase r = s.rgnCbase r ∧ t.rgnChans r = s.rgnChans r := by
    intro r hr
    have e1 := key (R.MAP_RGN_CTL_ENABLE r) (by simp only [R.MAP_RGN_CTL_ENABLE]; omega) (by simp only [R.MAP_RGN_CTL_ENABLE]; omega) (by simp [R.MAP_RGN_CTL_ENABLE])
    have e2 := key (R.MAP_RGN_CTL_ORDER r) (by simp only [R.MAP_RGN_CTL_ORDER]; omega) (by simp only [R.MAP_RGN_CTL_ORDER]; omega) (by simp [R.MAP_RGN_CTL_ORDER])
    have e3 := key (R.MAP_RGN_CTL_CHAN r) (by simp only [R.MAP_RGN_CTL_CHAN]; omega) (by simp only [R.MAP_RGN_CTL_CHAN]; omega) (by simp [R.MAP_RGN_CTL_CHAN])
    have e4 := key (R.MAP_RGN_SLICE_CSIZE r) (by simp only [R.MAP_RGN_SLICE_CSIZE]; omega) (by simp only [R.MAP_RGN_SLICE_CSIZE]; omega) (by simp [R.MAP_RGN_SLICE_CSIZE])
    have e5 := key (R.MAP_RGN_SLICE_CBASE r) (by simp only [R.MAP_RGN_SLICE_CBASE]; omega) (by simp only [R.MAP_RGN_SLICE_CBASE]; omega) (by simp [R.MAP_RGN_SLICE_CBASE])
    have e6 := key (R.MAP_RGN_BASE_BASE r) (by simp only [R.MAP_RGN_BASE_BASE]; omega) (by simp only [R.MAP_RGN_BASE_BASE]; omega) (by simp [R.MAP_RGN_BASE_BASE])
    have e7 := key R.MAP_STAT_MAP_CH (by decide) (by decide) (by decide)
    refine ⟨e1, ?_, ?_, e2, ?_, ?_⟩
    · unfold State.rgnBase; rw [e6]
    · unfold State.rgnSize State.rgnOrder State.rgnCsize State.aMap; rw [e2, e4, e7]
    · unfold State.rgnCbase; rw [e5]
    · unfold State.rgnChans State.rgnOrder; rw [e2, e3, h.2.2.2.1]
  have hf : ∀ r ∈ List.range 8, (if t.bit (R.MAP_RGN_CTL_ENABLE r) ∧ t.rgnBase r ≤ a ∧ a < t.rgnBase r + t.rgnSize r ∧ a < 2 ^ 40
        then some (r, a - t.rgnBase r) else none) =
      if s.bit (R.MAP_RGN_CTL_ENABLE r) ∧ s.rgnBase r ≤ a ∧ a < s.rgnBase r + s.rgnSize r ∧ a < 2 ^ 40 then some (r, a - s.rgnBase r) else none := by
    intro r hr8
    obtain ⟨e1, e2, e3, _⟩ := hr r (List.mem_range.1 hr8)
    unfold State.bit; rw [e1, e2, e3]
  have ho : t.rgnOf a = s.rgnOf a := by
    unfold State.rgnOf
    exact findSome_congr hf
  have hlt : ∀ r o, s.rgnOf a = some (r, o) → r < 8 := by
    intro r o e
    unfold State.rgnOf at e
    obtain ⟨x, hx, e⟩ := List.exists_of_findSome?_eq_some e
    split at e
    · cases e; exact List.mem_range.1 hx
    · cases e
  have hop : t.dramOpen m = s.dramOpen m := by
    unfold State.dramOpen State.bit
    rw [key R.MAP_STAT_REMAP_BUSY (by decide) (by decide) (by decide)]
  unfold State.placeOf
  rw [hop, ho]
  split
  · split
    · rfl
    · rename_i r o e
      obtain ⟨-, -, -, e1, e2, e3⟩ := hr r (hlt r o e)
      simp only [e1, e2, e3]
  · rfl

/-! ### Registers of the controllers -/

/-- The keys of a controller's page. -/
theorem memoryKey {f : Fld} (h : 0x1C0000 ≤ f.off) (h' : f.off < 0x1C8000 ∨ 0x1C9000 ≤ f.off ∧ f.off < 0x1000000) (hl : f.lo < 64) : MemoryKeys f.key := by
  have hb : (pg .map).base = 0x1C8000 := by rfl
  unfold MemoryKeys MemoryUp PageKeys Fld.key
  rw [hb]
  omega

/-- The keys of the event page. -/
theorem memoryKey_evt (k : Nat) (h : PageKeys evtPg k) : MemoryKeys k := by
  have hb : (pg .map).base = 0x1C8000 := by rfl
  have he : evtPg.base = 0x300000 := by rfl
  unfold MemoryKeys MemoryUp
  unfold PageKeys at *
  rw [hb]; rw [he] at h
  omega

/-- The keys of a controller's error registers. -/
theorem memoryKey_error {p : Page} (h : 0x1C0000 ≤ p.base) (h' : p.base < 0x1C8000 ∨ 0x1C9000 ≤ p.base ∧ p.base < 0x1000000) (k : Nat)
    (hk : Keys [R.PG_ERR_CNT_COUNT p, R.PG_ERR_CODE_CODE p, R.PG_ERR_CODE_VALID p, R.PG_ERR_SEQ_FRAME p] k) : MemoryKeys k := by
  have ha := Machine.Page.base_aligned p
  simp only [Keys, List.map_cons, List.map_nil, List.mem_cons, List.not_mem_nil, or_false] at hk
  rcases hk with rfl | rfl | rfl | rfl <;>
    exact memoryKey (by simp only [R.PG_ERR_CNT_COUNT, R.PG_ERR_CODE_CODE, R.PG_ERR_CODE_VALID, R.PG_ERR_SEQ_FRAME]; omega)
      (by simp only [R.PG_ERR_CNT_COUNT, R.PG_ERR_CODE_CODE, R.PG_ERR_CODE_VALID, R.PG_ERR_SEQ_FRAME]; omega)
      (by simp [R.PG_ERR_CNT_COUNT, R.PG_ERR_CODE_CODE, R.PG_ERR_CODE_VALID, R.PG_ERR_SEQ_FRAME])

theorem placeChan_mc (p : Nat) : placeChan p / 8 < 8 := by unfold placeChan; omega

theorem mc_base (k : Nat) (h : k < 8) : 0x1C0000 ≤ Page.base ⟨.mc, k⟩ ∧ Page.base ⟨.mc, k⟩ < 0x1C8000 ∧ Page.base ⟨.mc, k⟩ = 0x1C0000 + 0x1000 * k := by
  have : Page.base ⟨.mc, k⟩ = 0x1C0000 + 0x1000 * k := rfl
  omega

theorem MemStep.setFld (h : MemStep W s t) {f : Fld} (v : Nat) (hf : MemoryKeys f.key) : MemStep W s (t.setFld f v) :=
  h.trans (.of_frame ((Frame.refl t _ _).setFld v hf) rfl)

theorem MemStep.addFld (h : MemStep W s t) {f : Fld} (v : Nat) (hf : MemoryKeys f.key) : MemStep W s (t.addFld f v) := h.setFld _ hf

theorem MemStep.setBit (h : MemStep W s t) {f : Fld} (v : Bool) (hf : MemoryKeys f.key) : MemStep W s (t.setBit f v) := h.setFld _ hf

theorem MemStep.raise (h : MemStep W s t) (p : Page) (n : Nat) (h1 : 0x1C0000 ≤ p.base) (h2 : p.base < 0x1C8000 ∨ 0x1C9000 ≤ p.base ∧ p.base < 0x1000000) :
    MemStep W s (t.raise p n) := by
  have ha := Machine.Page.base_aligned p
  exact h.trans (.of_frame ((Frame.refl t _ _).raise p n (memoryKey (by simp only [R.PG_IRQ_RAW]; omega) (by simp only [R.PG_IRQ_RAW]; omega)
    (by simp [R.PG_IRQ_RAW])) (fun _ h => h)) (t.raise_units _ _))

theorem MemStep.error (h : MemStep W s t) (p : Page) (c x y : Nat) (l : Option Nat) (h1 : 0x1C0000 ≤ p.base)
    (h2 : p.base < 0x1C8000 ∨ 0x1C9000 ≤ p.base ∧ p.base < 0x1000000) : MemStep W s (t.error p c x y l) :=
  h.trans (.of_frame ((Frame.refl t _ _).error p c x y l (memoryKey_error h1 h2) memoryKey_evt (fun _ h => h)) (t.error_units _ _ _ _ _))

theorem MemStep.info (h : MemStep W s t) (p : Page) (low : Nat) (l : Option Nat) (a b c d : Nat) : MemStep W s (t.info p low l a b c d) :=
  h.trans (.of_frame ((Frame.refl t _ _).info p low l a b c d memoryKey_evt (fun _ h => h)) (t.info_units _ _ _ _ _ _ _))

/-- The memory's own state changed, no byte with it. -/
theorem MemStep.dram (h : MemStep W s t) (d : DramSt) (hm : d.mapped = t.dram.mapped) (hc : d.cells = t.dram.cells) (hb : d.bg = t.dram.bg) :
    MemStep W s { t with dram := d } :=
  h.trans (.of_dram d hm (fun b _ => by unfold DramSt.byteAt; rw [hc, hb]))

theorem MemStep.ite {c : Prop} [Decidable c] {a b : State} (ha : MemStep W s a) (hb : MemStep W s b) : MemStep W s (if c then a else b) := by
  split <;> assumption

theorem MemStep.snd_ite {α : Type} {c : Prop} [Decidable c] {a b : α × State} (ha : MemStep W s a.2) (hb : MemStep W s b.2) :
    MemStep W s (if c then a else b).2 := by split <;> assumption

theorem MemStep.free (h : MemStep W s t) (n : Nat) : MemStep W s { t with freeCtr := n } :=
  h.trans ⟨fun _ _ => rfl, fun _ _ => rfl, rfl, rfl, fun _ _ => rfl⟩

/-- An entry of a controller's log. -/
theorem MemStep.mcLogAdd (h : MemStep W s t) (ty m y p : Nat) : MemStep W s (t.mcLogAdd ty m y p) := by
  unfold State.mcLogAdd
  have hk := placeChan_mc p
  refine MemStep.ite (MemStep.info ?_ _ _ _ _ _ _ _) ?_
  · refine MemStep.dram h _ ?_ ?_ ?_ <;> rfl
  · exact h.setFld _ (memoryKey (by simp only [R.MC_LOG_STAT_OVERFLOW]; omega) (by simp only [R.MC_LOG_STAT_OVERFLOW]; omega) (by simp [R.MC_LOG_STAT_OVERFLOW]))

theorem MemStep.mcError (h : MemStep W s t) {k : Nat} (hk : k < 8) (c n : Nat) : MemStep W s (t.mcError k c n) := by
  obtain ⟨h1, h2, -⟩ := mc_base k hk
  exact (h.error _ _ _ _ _ h1 (Or.inl h2)).raise _ _ h1 (Or.inl h2)

/-! ### Words -/

theorem cellAt_append (l m : List Host.Cell) (a : Nat) : cellAt (l ++ m) a = (cellAt l a).or (cellAt m a) := by
  induction l with
  | nil => rfl
  | cons c l ih =>
    obtain ⟨k, v⟩ := c
    simp only [List.cons_append, cellAt]
    split
    · rfl
    · exact ih

theorem cellAt_filter_of (l : List Host.Cell) (f : Host.Cell → Bool) (a : Nat) (h : ∀ v, f (a, v) = true) : cellAt (l.filter f) a = cellAt l a := by
  induction l with
  | nil => rfl
  | cons c l ih =>
    obtain ⟨k, v⟩ := c
    rw [List.filter_cons]
    by_cases e : k = a
    · subst e; rw [if_pos (h v)]; simp [cellAt]
    · split
      · simp only [cellAt, e, if_false]; exact ih
      · simp only [cellAt, e, if_false]; exact ih

theorem cellAt_none (l : List Host.Cell) (a : Nat) (h : ∀ c ∈ l, c.1 ≠ a) : cellAt l a = none := by
  induction l with
  | nil => rfl
  | cons c l ih =>
    obtain ⟨k, v⟩ := c
    simp only [cellAt, h (k, v) (by simp), if_false]
    exact ih (fun c hc => h c (by simp [hc]))

/-- A write of bytes leaves every other. -/
theorem cellAt_putCells (d : DramSt) (p : Nat) (bs : List Byte) (b : Nat) (h : b < p ∨ p + bs.length ≤ b) :
    cellAt (putCells d p bs) b = cellAt d.cells b := by
  unfold putCells
  rw [cellAt_append, cellAt_append]
  have hm : cellAt ((bs.zipIdx.map (fun x => (p + x.2, x.1))).filter (fun c => bgByte d.bg c.1 != some c.2)) b = none := by
    refine cellAt_none _ _ (fun c hc => ?_)
    obtain ⟨⟨v, i⟩, hx, rfl⟩ := List.mem_map.mp (List.mem_filter.mp hc).1
    have := List.snd_lt_of_mem_zipIdx hx
    show p + i ≠ b
    dsimp only at this
    omega
  rw [hm, Option.or_none]
  rcases h with h | h
  · rw [cellAt_filter_of _ _ _ (fun v => by simpa using h), cellAt_none (List.filter _ _)]
    · simp
    · intro c hc e
      have := (List.mem_filter.mp hc).2
      simp only [decide_eq_true_eq] at this
      omega
  · rw [cellAt_none (List.filter (fun c => decide (c.1 < p)) _), cellAt_filter_of _ _ _ (fun v => by simpa using h)]
    · rfl
    · intro c hc e
      have := (List.mem_filter.mp hc).2
      simp only [decide_eq_true_eq] at this
      omega

/-- A word put into the memory leaves every other. -/
theorem MemStep.putWord (h : MemStep W s t) (w : Nat) (bs : List Byte) (x : WordSt) (hw : ∀ b, b / 32 = w → W b) :
    MemStep W s (t.putWord w bs x) := by
  refine h.trans (.of_dram _ rfl (fun b hb => ?_))
  have hlen : (sliceBytes bs 0 32).length ≤ 32 := by unfold sliceBytes; simp
  have hne : b / 32 ≠ w := fun e => hb (hw b e)
  show (match cellAt (putCells t.dram (w * 32) (sliceBytes bs 0 32)) b with | some b => some b | none => bgByte t.dram.bg b) = _
  rw [cellAt_putCells _ _ _ _ (by omega)]
  rfl

/-! ### Corrections, reads and writes of one word -/

theorem MemStep.scr (h : MemStep W s t) (f : Fld) (v : Nat) (h1 : 0x1C9000 ≤ f.off ∧ f.off < 0x1000000) (h3 : f.lo < 64) : MemStep W s (t.setFld f v) :=
  h.setFld v (memoryKey (by omega) (Or.inr h1) h3)

theorem MemStep.touchTrack (h : MemStep W s t) (n : Nat) (x : Track) : MemStep W s (t.touchTrack n x) := by
  unfold State.touchTrack State.setTrack
  refine MemStep.dram (MemStep.dram h _ ?_ ?_ ?_) _ ?_ ?_ ?_ <;> rfl

theorem MemStep.rewriteWord (h : MemStep W s t) (w : Nat) (hw : ∀ b, b / 32 = w → W b) : MemStep W s (t.rewriteWord w) := by
  unfold State.rewriteWord
  have h1 := h.putWord w (t.wordData w) cleanWord hw
  dsimp only
  split
  · exact h1
  · split
    · exact h1
    · exact (h1.touchTrack _ _).scr R.SCR_REWRITES _ (by decide) (by decide)

theorem MemStep.queueSpare (h : MemStep W s t) (p : Nat) : MemStep W s (t.queueSpare p) := by
  unfold State.queueSpare
  dsimp only
  split
  · exact h
  · split
    · refine MemStep.dram h _ ?_ ?_ ?_ <;> rfl
    · exact h.scr R.SCR_STAT_SPARE_Q_OVF _ (by decide) (by decide)

theorem scr_base : 0x1C9000 ≤ (pg .scr).base ∧ (pg .scr).base < 0x1000000 := by decide

theorem scr_low : 0x1C0000 ≤ (pg .scr).base := by decide

theorem MemStep.trackEntry (h : MemStep W s t) (w : Nat) : MemStep W s (t.trackEntry w).2 := by
  unfold State.trackEntry
  split
  · exact h
  · unfold State.setTrack
    refine MemStep.dram ?_ _ rfl rfl rfl
    exact MemStep.ite ((h.scr R.SCR_TRACK_EVICT _ (by decide) (by decide)).scr R.SCR_STAT_TRACK_EVICTED _ (by decide) (by decide)) h

theorem MemStep.setTrack (h : MemStep W s t) (n : Nat) (x : Option Track) : MemStep W s (t.setTrack n x) := by
  unfold State.setTrack
  refine MemStep.dram h _ ?_ ?_ ?_ <;> rfl

theorem MemStep.trackCorrection (h : MemStep W s t) (w : Nat) (rw : Bool) (hw : ∀ b, b / 32 = w → W b) : MemStep W s (t.trackCorrection w rw) := by
  unfold State.trackCorrection
  have h1 := h.trackEntry w
  dsimp only
  generalize t.trackEntry w = x at h1 ⊢
  split
  · exact h1
  · refine MemStep.ite ?_ (MemStep.ite ?_ ?_)
    · refine MemStep.raise (MemStep.error (MemStep.setTrack ?_ _ _) (pg .scr) _ _ _ _ scr_low (Or.inr scr_base)) _ _ scr_low (Or.inr scr_base)
      exact (h1.queueSpare (w * 32)).scr R.SCR_HARD_WORDS _ (by decide) (by decide)
    · exact (h1.touchTrack _ _).rewriteWord w hw
    · exact h1.touchTrack _ _

theorem MemStep.mcAdd (h : MemStep W s t) {f : Fld} (n : Nat) (h1 : 0x1C0000 ≤ f.off) (h2 : f.off < 0x1C8000) (h3 : f.lo < 64) :
    MemStep W s (t.addFld f n) := h.addFld n (memoryKey h1 (Or.inl h2) h3)

theorem MemStep.readEffects (h : MemStep W s t) (m w : Nat) (o : WOut) (hw : ∀ b, b / 32 = w → W b) : MemStep W s (t.readEffects m w o) := by
  have hk := placeChan_mc (w * 32)
  unfold State.readEffects
  cases o with
  | clean => exact h
  | corrected y =>
    exact ((h.mcAdd (f := R.MC_CE _) 1 (by simp only [R.MC_CE]; omega) (by simp only [R.MC_CE]; omega) (by simp [R.MC_CE])).mcLogAdd _ _ _ _).trackCorrection _ _ hw
  | poison => exact h.mcLogAdd _ _ _ _
  | ue =>
    exact ((h.mcAdd (f := R.MC_UE _) 1 (by simp only [R.MC_UE]; omega) (by simp only [R.MC_UE]; omega) (by simp [R.MC_UE])).mcLogAdd _ _ _ _).mcError hk _ _

theorem MemStep.wordOutcome (h : MemStep W s t) (w : Nat) : MemStep W s (t.wordOutcome w).2 := by
  unfold State.wordOutcome
  split
  · exact h.free _
  · exact h

theorem MemStep.rawRead (h : MemStep W s t) (c w : Nat) (hw : ∀ b, b / 32 = w → W b) : MemStep W s (t.rawRead c w).2 := by
  unfold State.rawRead
  split
  · exact h.mcLogAdd _ _ _ _
  · exact (h.wordOutcome w).readEffects _ _ _ hw

theorem MemStep.storeWord (h : MemStep W s t) (w : Nat) (bs : List Byte) (x : Bool) (hw : ∀ b, b / 32 = w → W b) :
    MemStep W s (t.storeWord w bs x) := by
  have hk := placeChan_mc (w * 32)
  obtain ⟨b1, b2, -⟩ := mc_base _ hk
  unfold State.storeWord
  dsimp only
  have h1 : ∀ y, MemStep W s { t.putWord w bs y with dram := { (t.putWord w bs y).dram with wfaults := t.dram.wfaults.filter (fun g => g != w / 2) } } :=
    fun y => by refine MemStep.dram (h.putWord w bs y hw) _ ?_ ?_ ?_ <;> rfl
  split
  · refine MemStep.raise ?_ _ _ b1 (Or.inl b2)
    refine MemStep.setFld (MemStep.setFld ?_ _ ?_) _ ?_
    · exact h1 _
    · exact memoryKey (by simp only [R.MC_INJECT_ARM]; omega) (by simp only [R.MC_INJECT_ARM]; omega) (by simp [R.MC_INJECT_ARM])
    · exact memoryKey (by simp only [R.MC_STAT_INJ_DONE]; omega) (by simp only [R.MC_STAT_INJ_DONE]; omega) (by simp [R.MC_STAT_INJ_DONE])
  · exact h1 _

theorem MemStep.writeWord (h : MemStep W s t) (m : Master) (w lo hi : Nat) (bs : List Byte) (x : Bool) (hw : ∀ b, b / 32 = w → W b) :
    MemStep W s (t.writeWord m w lo hi bs x) := by
  have hk := placeChan_mc (w * 32)
  unfold State.writeWord
  split
  · exact (((h.rawRead (masterCode m) w hw)).mcAdd (f := R.MC_RMW _) 1 (by simp only [R.MC_RMW]; omega) (by simp only [R.MC_RMW]; omega)
      (by simp [R.MC_RMW])).storeWord _ _ _ hw
  · exact h.storeWord _ _ _ hw

theorem MemStep.deadAccess (h : MemStep W s t) (m p : Nat) : MemStep W s (t.deadAccess m p) := by
  have hk := placeChan_mc p
  unfold State.deadAccess
  exact ((h.mcAdd (f := R.MC_DEAD_ACC _) 1 (by simp only [R.MC_DEAD_ACC]; omega) (by simp only [R.MC_DEAD_ACC]; omega) (by simp [R.MC_DEAD_ACC])).mcAdd
    (f := R.MC_ERR_RESP _) 1 (by simp only [R.MC_ERR_RESP]; omega) (by simp only [R.MC_ERR_RESP]; omega) (by simp [R.MC_ERR_RESP])).mcLogAdd _ _ _ _

theorem MemStep.errResp (h : MemStep W s t) (p : Nat) : MemStep W s (t.addFld (R.MC_ERR_RESP (placeChan p / 8)) 1) := by
  have hk := placeChan_mc p
  exact h.mcAdd _ (by simp only [R.MC_ERR_RESP]; omega) (by simp only [R.MC_ERR_RESP]; omega) (by simp [R.MC_ERR_RESP])

theorem MemStep.deliverBad (h : MemStep W s t) (m : Master) (w : Nat) (again : Bool) : MemStep W s (t.deliverBad m w again) := by
  have hk := placeChan_mc (w * 32)
  unfold State.deliverBad State.poisonOut
  split
  · split
    · exact h
    · exact h.errResp _
  · exact h.mcAdd _ (by simp only [R.MC_POISON_OUT]; omega) (by simp only [R.MC_POISON_OUT]; omega) (by simp [R.MC_POISON_OUT])

theorem MemStep.startRetrain (h : MemStep W s t) (c : Nat) : MemStep W s (t.startRetrain c) := by
  unfold State.startRetrain
  dsimp only
  have hk : c % 64 / 8 < 8 := by omega
  refine MemStep.mcAdd (MemStep.setFld (MemStep.dram h _ ?_ ?_ ?_) _ ?_) _ ?_ ?_ ?_
  · rfl
  · rfl
  · rfl
  · exact memoryKey (by simp only [R.MC_STAT_OFFLINE]; omega) (by simp only [R.MC_STAT_OFFLINE]; omega) (by simp [R.MC_STAT_OFFLINE])
  · simp only [R.MC_RETRAINS]; omega
  · simp only [R.MC_RETRAINS]; omega
  · simp [R.MC_RETRAINS]

theorem MemStep.dueRetrain (h : MemStep W s t) : MemStep W s t.dueRetrain := by
  unfold State.dueRetrain
  split
  · refine MemStep.dram h _ ?_ ?_ ?_ <;> rfl
  · split
    · exact h
    · split
      · refine MemStep.dram h _ ?_ ?_ ?_ <;> rfl
      · refine MemStep.startRetrain (MemStep.dram h _ ?_ ?_ ?_) _ <;> rfl

theorem MemStep.waitingRetrain (h : MemStep W s t) : MemStep W s t.waitingRetrain := by
  unfold State.waitingRetrain
  split
  · exact h
  · split
    · refine MemStep.startRetrain (MemStep.dram h _ ?_ ?_ ?_) _ <;> rfl
    · split
      · exact h.dueRetrain
      · exact h

theorem MemStep.wakeChan (h : MemStep W s t) (p : Nat) : MemStep W s (t.wakeChan (placeChan p)) := by
  have hk := placeChan_mc p
  unfold State.wakeChan
  split
  · exact h
  · refine MemStep.waitingRetrain (MemStep.setFld (MemStep.dram h _ ?_ ?_ ?_) _ ?_)
    · rfl
    · rfl
    · rfl
    exact memoryKey (by simp only [R.MC_STAT_SELF_REFRESH]; omega) (by simp only [R.MC_STAT_SELF_REFRESH]; omega) (by simp [R.MC_STAT_SELF_REFRESH])

theorem MemStep.readWord (h : MemStep W s t) (m : Master) (w : Nat) (f a : Bool) (hw : ∀ b, b / 32 = w → W b) :
    MemStep W s (t.readWord m w f a).2.2 := by
  unfold State.readWord State.badWord
  split
  · refine MemStep.free (MemStep.deliverBad ?_ _ _ _) _
    split
    · exact h.deadAccess _ _
    · exact h
  · have h1 := h.wakeChan (w * 32)
    dsimp only
    split
    · refine MemStep.free (MemStep.deliverBad (MemStep.dram h1 _ ?_ ?_ ?_) _ _ _) _ <;> rfl
    · split
      · refine MemStep.free (MemStep.deliverBad ?_ _ _ _) _
        split
        · exact h1.mcLogAdd _ _ _ _
        · exact h1
      · have h2 := (h1.wordOutcome w).readEffects (masterCode m) w ((t.wakeChan (placeChan (w * 32))).wordOutcome w).1 hw
        split
        · exact h2
        · exact h2
        · exact MemStep.free (h2.deliverBad _ _ _) _
        · exact MemStep.free (h2.deliverBad _ _ _) _

/-! ### Reads and writes of stretches -/

theorem MemStep.mx (h : MemStep W s t) (f : Fld) (v : Nat) (h1 : 0x1C9000 ≤ f.off ∧ f.off < 0x1000000) (h3 : f.lo < 64) : MemStep W s (t.setFld f v) :=
  h.scr f v h1 h3

theorem MemStep.decodeError (h : MemStep W s t) (π m a : Nat) (w : Bool) : MemStep W s (t.decodeError π m a w) := by
  unfold State.decodeError
  dsimp only
  refine MemStep.raise (MemStep.error (MemStep.mx (MemStep.mx (MemStep.mx (MemStep.mx (MemStep.mx ?_ R.MX_DEC_ADDR _ (by decide) (by decide))
    R.MX_DEC_INFO_MASTER _ (by decide) (by decide)) R.MX_DEC_INFO_WRITE _ (by decide) (by decide)) R.MX_DEC_INFO_PATH _ (by decide) (by decide))
    R.MX_STAT_DEC_ERR _ (by decide) (by decide)) _ _ _ _ _ (by decide) (by decide)) _ _ (by decide) (by decide)
  split
  · exact h.mx R.MX_DEC_INT _ (by decide) (by decide)
  · split
    · exact h.mx R.MX_DEC_PCIE _ (by decide) (by decide)
    · exact h.mx R.MX_DEC_MSPI _ (by decide) (by decide)

theorem MemStep.readSpan (m : Master) (addr : Nat) (l : List (Nat × Nat × Nat)) (bad : Bool) (h : MemStep W s t)
    (hw : ∀ x ∈ l, ∀ p, s.placeOf m x.1 = some p → ∀ b, b / 32 = p / 32 → W b) : MemStep W s (readSpan m addr bad l t).2 := by
  induction l generalizing t bad with
  | nil => exact h
  | cons x l ih =>
    obtain ⟨wa, lo, hi⟩ := x
    have hw' := fun x hx => hw x (List.mem_cons_of_mem _ hx)
    simp only [Machine.readSpan]
    split
    · exact ih _ h hw'
    · rename_i p e
      rw [h.placeOf] at e
      exact ih _ (h.readWord _ _ _ _ (hw _ (List.mem_cons_self ..) _ e)) hw'

/-- A read of stacked memory by a master: bytes change at most in the words read (a correction may rewrite one, R309). -/
theorem State.readDram_step (s : State) (m : Master) (addr len : Nat) : MemStep (s.InWords m addr len) s (s.readDram m addr len).2 := by
  unfold State.readDram
  have h := MemStep.readSpan m addr (wordSpan addr len) false (.refl (s.InWords m addr len) s)
    (fun x hx p e b hb => ⟨x, hx, p, e, hb.symm⟩)
  dsimp only
  split
  · exact h.decodeError _ _ _ _
  · exact h

theorem MemStep.writeSpan (m : Master) (addr : Nat) (pois : Nat → Bool) (l : List ((Nat × Nat × Nat) × Nat)) (bs : List Byte) (h : MemStep W s t)
    (hw : ∀ x ∈ l, ∀ p, s.placeOf m x.1.1 = some p → ∀ b, b / 32 = p / 32 → W b) : MemStep W s (writeSpan m addr pois l bs t).2 := by
  induction l generalizing t bs with
  | nil => exact h
  | cons x l ih =>
    obtain ⟨⟨wa, lo, hi⟩, i⟩ := x
    have hw' := fun x hx => hw x (List.mem_cons_of_mem _ hx)
    rw [Machine.writeSpan]
    dsimp only
    split
    · exact ih _ h hw'
    · rename_i p e
      rw [h.placeOf] at e
      refine MemStep.snd_ite ?_ (MemStep.snd_ite ?_ ?_)
      · exact ih _ (MemStep.ite (h.errResp _) h) hw'
      · exact ih _ (MemStep.ite (h.deadAccess _ _) h) hw'
      · exact ih _ ((h.wakeChan p).writeWord _ _ _ _ _ _ (hw _ (List.mem_cons_self ..) _ e)) hw'

/-- A write of stacked memory by a master while no fill runs: bytes change at most in the words written. -/
theorem State.writeDramP_step (s : State) (m : Master) (addr : Nat) (bs : List Byte) (pois : Nat → Bool) (hf : s.bit R.MAP_STAT_FILL_BUSY = false) :
    MemStep (s.InWords m addr bs.length) s (s.writeDramP m addr bs pois).2 := by
  have hm : s.fillMeets addr = s := by
    unfold State.fillMeets State.fillStep
    simp only [hf, Bool.false_eq_true, if_false]
    split
    · split <;> rfl
    · rfl
  unfold State.writeDramP
  rw [hm]
  have h := MemStep.writeSpan m addr pois (wordSpan addr bs.length).zipIdx bs (.refl (s.InWords m addr bs.length) s)
    (fun x hx p e b hb => ⟨x.1, (by obtain ⟨y, i⟩ := x; exact List.fst_mem_of_mem_zipIdx hx), p, e, hb.symm⟩)
  dsimp only
  split
  · exact h.decodeError _ _ _ _
  · exact h

theorem State.writeDram_step (s : State) (m : Master) (addr : Nat) (bs : List Byte) (hf : s.bit R.MAP_STAT_FILL_BUSY = false) :
    MemStep (s.InWords m addr bs.length) s (s.writeDram m addr bs).2 := s.writeDramP_step m addr bs _ hf

end Sys2Proof.Machine
end

