-- ==== Sys2Proof/Tests/Slice0.lean ====
section
/-! SUPPORT. Tests: the well-formedness checks, single steps with results worked out from the spec, and a state and operands that
meet the hypotheses of each claim. -/

open Sys2Proof Sys2Proof.Machine

namespace Sys2Proof.Tests

/-! ### Well-formedness -/

/-- Commands with operands in range are well-formed. -/
theorem test_wf_accepts_1 : ([
  .registerWrite .pcie 0 0 0 true,
  .tableWindowWrite .pcie 0 0 0 true,
  .rcRead .pcie 0,
  .loReadLatch .pcie 0,
  .loWriteStage .pcie 0 0,
  .hiWriteCommit .pcie 0 0,
  .pgKeyWrite .pcie ⟨.lnk, 0⟩ 0,
  .pgLock .pcie ⟨.lnk, 0⟩,
  .blockSoftReset .pcie ⟨.lnk, 0⟩,
  .pageFreeze .pcie ⟨.lnk, 0⟩ true,
  .irqStatClear .pcie ⟨.lnk, 0⟩ 0,
  .pendingMessageSend 0,
  .arm .pcie ⟨.lnk, 0⟩,
  .cancel .pcie ⟨.lnk, 0⟩,
  .copyBack .pcie ⟨.lnk, 0⟩,
  .armCheckDone ⟨.lnk, 0⟩,
  .deviceArmCheck,
  .armApply,
  .replan,
  .lnkEnable .pcie 0] : List Instr).all (fun i => i.wf) = true := by decide

set_option maxRecDepth 20000 in
/-- Commands with operands in range are well-formed. -/
theorem test_wf_accepts_2 : ([
  .lnkDisable .pcie 0,
  .signalDetect 0,
  .capabilityMessage 0 ⟨1, 0, 1, true, 0, 1⟩,
  .trainingFrame 0 ⟨true, 0, 0, 0, true, true, 0, 0, true, 0⟩,
  .stepTrainTimeout 0,
  .markerGroup 0 [] ⟨0, 0, true, false, false, false, 0, 1⟩ 0,
  .linkTile 0 0 0 [],
  .hunt 0 0,
  .strayControlBlock 0 ⟨false, List.replicate 32 0⟩,
  .uncorrectableCodeword 0 0,
  .elasticOverflow 0,
  .lockLoss 0 .cdr,
  .retrain .pcie 0,
  .retrainDone 0 ⟨[], 0⟩,
  .settingTimeout 0,
  .retry .pcie 0,
  .retryDone 0 true,
  .regrow .pcie 0,
  .dormantReq .pcie 0,
  .dormantAckTimeout 0] : List Instr).all (fun i => i.wf) = true := by decide

/-- Commands with operands in range are well-formed. -/
theorem test_wf_accepts_3 : ([
  .wakeReq .pcie 0,
  .wakeTone 0,
  .wakeTimeout 0,
  .presetSave .pcie 0,
  .presetClr .pcie 0,
  .frameTick,
  .loadSync .pcie,
  .loadNow .pcie,
  .loadCancel .pcie,
  .nowLoad,
  .arrEnable .pcie,
  .arrDisable .pcie,
  .initDone,
  .tilePlace,
  .frameClose,
  .slotExpiry,
  .slotRead 0 0 0,
  .updateInterval 0,
  .chunkStart,
  .chunkPair] : List Instr).all (fun i => i.wf) = true := by decide

/-- Commands with operands in range are well-formed. -/
theorem test_wf_accepts_4 : ([
  .chunkEnd,
  .mereRowWrite true,
  .mereDescriptorWrite 0,
  .mereDirFillDone,
  .passStart,
  .channelRelease 0,
  .mereRead 0 0,
  .planEval .pcie,
  .planEvalDone,
  .eval .pcie,
  .evalDone,
  .sweepStart 0,
  .stepStart 0,
  .drainStart 0 0,
  .bufferHandover 0,
  .selftest .pcie 0,
  .selftestDone 0 true,
  .engineReset .pcie 0,
  .collectStart 0,
  .collectDone] : List Instr).all (fun i => i.wf) = true := by decide

/-- Commands with operands in range are well-formed. -/
theorem test_wf_accepts_5 : ([
  .bufferCommit 0,
  .channelPassAccept 0,
  .finisherChannel,
  .packetCommit,
  .rptrWrite .pcie 0,
  .ringReset .pcie,
  .weightLoad,
  .weightLoadDone,
  .bSwitch 0,
  .bankSwap 0 0,
  .voltageNotice,
  .vrelWrite .pcie 0,
  .tokenTimeout 0,
  .stepTimeout 0,
  .failureSign 0 1,
  .fail .pcie 0 0,
  .unlock .pcie 0 0,
  .retest .pcie 0 0,
  .takeover 0,
  .engineReturn 0] : List Instr).all (fun i => i.wf) = true := by decide

/-- Commands with operands in range are well-formed. -/
theorem test_wf_accepts_6 : ([
  .wellFailure 0 0,
  .wellWatchdogExpiry 0,
  .wellTakeback,
  .restart .pcie 0,
  .test .pcie 0,
  .dramRequest ⟨.host, 0, false, 1, [], 0, 0⟩,
  .dramReadComplete .host 0 [],
  .trackExpiry 0,
  .refreshInterval 0,
  .tempChange 0 0,
  .dramRetrainTimer,
  .mcRetrain .pcie 0 0,
  .dramRetrainDone 0 true,
  .retire .pcie 0 0,
  .logPop .pcie 0,
  .regionWrite .pcie 0 0,
  .remap .pcie,
  .remapDone,
  .fill .pcie 0,
  .fillDone] : List Instr).all (fun i => i.wf) = true := by decide

/-- Commands with operands in range are well-formed. -/
theorem test_wf_accepts_7 : ([
  .scrubPassStart,
  .start .pcie,
  .scrubRead 0 0 0 0 [] true,
  .softSpare,
  .dmachStart .pcie 0,
  .dmachStop .pcie 0,
  .dmachClear .pcie 0,
  .stopAll .pcie,
  .programFetch 0 [] .good,
  .move 0,
  .loop 0,
  .wait 0 0 .good,
  .waitPoll 0 0 .good 0,
  .waitTimeout 0 0,
  .signal 0,
  .illegal 0,
  .burstGrant,
  .dmaReadReturn 0 [] .good,
  .writeErrorResponse 0,
  .matrixRequest 0 []] : List Instr).all (fun i => i.wf) = true := by decide

/-- Commands with operands in range are well-formed. -/
theorem test_wf_accepts_8 : ([
  .mspiRstPulse,
  .mspiRead 0,
  .mspiWrite 0 0,
  .mspiBadOpcode 0,
  .mspiCsRise true 0 0 0,
  .configRequest ⟨0, .ids, false, 0⟩,
  .bar2Read 0 1,
  .bar2Write 0 [] true,
  .pcieLinkUp 1 1 true true,
  .pcieLinkDown,
  .d3hotEntry,
  .d0Return,
  .ping .pcie,
  .fwInfo .pcie,
  .nvrRead .pcie,
  .nvrFlush .pcie,
  .setSubsys .pcie,
  .fwStage .pcie,
  .wellTest .pcie,
  .unknownCmd .pcie] : List Instr).all (fun i => i.wf) = true := by decide

/-- Commands with operands in range are well-formed. -/
theorem test_wf_accepts_9 : ([
  .mbxCommandDone ⟨0, 0, 0, true⟩ true,
  .doeDiscovery 0,
  .getVersion,
  .getCapabilities,
  .negotiateAlgorithms,
  .getDigests,
  .getCertificate 0 0 0,
  .challenge 0 [],
  .getMeasurements 0 true [],
  .unsupportedRequest 0,
  .doeAbort,
  .oscLost,
  .oscReturn,
  .oscPullDone,
  .qlSample 0 0,
  .refMeasurement [],
  .refActivityLoss 0,
  .switchBuildout 0,
  .switchDone,
  .refPps 0] : List Instr).all (fun i => i.wf) = true := by decide

/-- Commands with operands in range are well-formed. -/
theorem test_wf_accepts_10 : ([
  .loopUpdate 0,
  .histSaveTimer,
  .histSave .pcie,
  .pstepWrite .pcie 0,
  .pstepCancel .pcie,
  .realign .pcie,
  .realignCancel .pcie,
  .realignEdge,
  .todSecondWrap,
  .todNowRead .pcie 0,
  .cmpFire 0,
  .loadPps .pcie,
  .align .pcie,
  .todCancel .pcie,
  .noPps,
  .tuneFault 1,
  .tuneFaultClear 1,
  .tuneCodeWrite .pcie 0,
  .rangeChange .pcie 0,
  .rangeDone] : List Instr).all (fun i => i.wf) = true := by decide

/-- Commands with operands in range are well-formed. -/
theorem test_wf_accepts_11 : ([
  .domEnWrite .pcie 0,
  .domainDone,
  .goActive .pcie,
  .goIdle .pcie,
  .goStandby .pcie,
  .stateDone,
  .por,
  .perstAssert,
  .perstRelease,
  .hotReset,
  .flr,
  .bringupStep ⟨0, true, true, 0, 0, 0, []⟩,
  .save .pcie,
  .nvrSave,
  .nvrSaveDone true,
  .open .pcie,
  .keyEraseDone true,
  .avsRetry true,
  .agingMonitor 0 true,
  .thermtrip 0] : List Instr).all (fun i => i.wf) = true := by decide

/-- Commands with operands in range are well-formed. -/
theorem test_wf_accepts_12 : ([
  .freezeAll .pcie,
  .thawAll .pcie,
  .check .pcie,
  .checkDone,
  .eventRecord,
  .spillCopy,
  .evtRptrWrite .pcie 0,
  .cdrLock 0,
  .fecLock 0,
  .correctedCodeword 0 1,
  .wellSelftestDone 0 true,
  .completionTimeout 0,
  .boundaryScan] : List Instr).all (fun i => i.wf) = true := by decide

/-- Each check refuses a command with one operand out of range. -/
theorem test_wf_refuses_1 : ([
  .registerWrite (.dma 32) 0 0 0 true,
  .registerWrite .pcie (2 ^ 26) 0 0 true,
  .registerWrite .pcie 0 (2 ^ 32) 0 true,
  .registerWrite .pcie 0 0 16 true,
  .tableWindowWrite (.dma 32) 0 0 0 true,
  .tableWindowWrite .pcie (2 ^ 26) 0 0 true,
  .tableWindowWrite .pcie 0 (2 ^ 32) 0 true,
  .tableWindowWrite .pcie 0 0 16 true,
  .rcRead (.dma 32) 0,
  .rcRead .pcie (2 ^ 26),
  .loReadLatch (.dma 32) 0,
  .loReadLatch .pcie (2 ^ 26),
  .loWriteStage (.dma 32) 0 0,
  .loWriteStage .pcie (2 ^ 26) 0,
  .loWriteStage .pcie 0 (2 ^ 32),
  .hiWriteCommit (.dma 32) 0 0,
  .hiWriteCommit .pcie (2 ^ 26) 0,
  .hiWriteCommit .pcie 0 (2 ^ 32),
  .pgKeyWrite (.dma 32) ⟨.lnk, 0⟩ 0,
  .pgKeyWrite .pcie ⟨.lnk, 64⟩ 0] : List Instr).all (fun i => !i.wf) = true := by decide

/-- Each check refuses a command with one operand out of range. -/
theorem test_wf_refuses_2 : ([
  .pgKeyWrite .pcie ⟨.lnk, 0⟩ (2 ^ 32),
  .pgLock (.dma 32) ⟨.lnk, 0⟩,
  .pgLock .pcie ⟨.lnk, 64⟩,
  .blockSoftReset (.dma 32) ⟨.lnk, 0⟩,
  .blockSoftReset .pcie ⟨.lnk, 64⟩,
  .pageFreeze (.dma 32) ⟨.lnk, 0⟩ true,
  .pageFreeze .pcie ⟨.lnk, 64⟩ true,
  .irqStatClear (.dma 32) ⟨.lnk, 0⟩ 0,
  .irqStatClear .pcie ⟨.lnk, 64⟩ 0,
  .irqStatClear .pcie ⟨.lnk, 0⟩ (2 ^ 32),
  .pendingMessageSend 2048,
  .arm (.dma 32) ⟨.lnk, 0⟩,
  .arm .pcie ⟨.lnk, 64⟩,
  .cancel (.dma 32) ⟨.lnk, 0⟩,
  .cancel .pcie ⟨.lnk, 64⟩,
  .copyBack (.dma 32) ⟨.lnk, 0⟩,
  .copyBack .pcie ⟨.lnk, 64⟩,
  .armCheckDone ⟨.lnk, 64⟩,
  .lnkEnable (.dma 32) 0,
  .lnkEnable .pcie 64] : List Instr).all (fun i => !i.wf) = true := by decide

set_option maxRecDepth 20000 in
/-- Each check refuses a command with one operand out of range. -/
theorem test_wf_refuses_3 : ([
  .lnkDisable (.dma 32) 0,
  .lnkDisable .pcie 64,
  .signalDetect 64,
  .capabilityMessage 64 ⟨1, 0, 1, true, 0, 1⟩,
  .capabilityMessage 0 ⟨256, 0, 1, true, 0, 1⟩,
  .trainingFrame 64 ⟨true, 0, 0, 0, true, true, 0, 0, true, 0⟩,
  .trainingFrame 0 ⟨true, 4, 0, 0, true, true, 0, 0, true, 0⟩,
  .stepTrainTimeout 64,
  .markerGroup 64 [] ⟨0, 0, true, false, false, false, 0, 1⟩ 0,
  .markerGroup 0 [⟨64, 0, 0, 0, 0, 0, 0⟩] ⟨0, 0, true, false, false, false, 0, 1⟩ 0,
  .markerGroup 0 [] ⟨16, 0, true, false, false, false, 0, 1⟩ 0,
  .linkTile 64 0 0 [],
  .linkTile 0 64 0 [],
  .linkTile 0 0 129 [],
  .linkTile 0 0 0 [⟨true, []⟩],
  .hunt 64 0,
  .strayControlBlock 64 ⟨false, List.replicate 32 0⟩,
  .strayControlBlock 0 ⟨true, []⟩,
  .uncorrectableCodeword 64 0,
  .uncorrectableCodeword 0 21] : List Instr).all (fun i => !i.wf) = true := by decide

/-- Each check refuses a command with one operand out of range. -/
theorem test_wf_refuses_4 : ([
  .elasticOverflow 64,
  .lockLoss 64 .cdr,
  .retrain (.dma 32) 0,
  .retrain .pcie 64,
  .retrainDone 64 ⟨[], 0⟩,
  .settingTimeout 64,
  .retry (.dma 32) 0,
  .retry .pcie 64,
  .retryDone 64 true,
  .regrow (.dma 32) 0,
  .regrow .pcie 64,
  .dormantReq (.dma 32) 0,
  .dormantReq .pcie 64,
  .dormantAckTimeout 64,
  .wakeReq (.dma 32) 0,
  .wakeReq .pcie 64,
  .wakeTone 64,
  .wakeTimeout 64,
  .presetSave (.dma 32) 0,
  .presetSave .pcie 64] : List Instr).all (fun i => !i.wf) = true := by decide

/-- Each check refuses a command with one operand out of range. -/
theorem test_wf_refuses_5 : ([
  .presetClr (.dma 32) 0,
  .presetClr .pcie 64,
  .loadSync (.dma 32),
  .loadNow (.dma 32),
  .loadCancel (.dma 32),
  .arrEnable (.dma 32),
  .arrDisable (.dma 32),
  .slotRead (2 ^ 48) 0 0,
  .slotRead 0 64 0,
  .slotRead 0 0 4096,
  .channelRelease 4096,
  .mereRead 0 64,
  .planEval (.dma 32),
  .eval (.dma 32),
  .drainStart 72 0,
  .bufferHandover 72,
  .selftest (.dma 32) 0,
  .selftest .pcie 72,
  .selftestDone 72 true,
  .engineReset (.dma 32) 0] : List Instr).all (fun i => !i.wf) = true := by decide

/-- Each check refuses a command with one operand out of range. -/
theorem test_wf_refuses_6 : ([
  .engineReset .pcie 72,
  .rptrWrite (.dma 32) 0,
  .rptrWrite .pcie (2 ^ 48),
  .ringReset (.dma 32),
  .bSwitch 72,
  .bankSwap 72 0,
  .vrelWrite (.dma 32) 0,
  .vrelWrite .pcie (2 ^ 32),
  .tokenTimeout 72,
  .stepTimeout 72,
  .failureSign 72 1,
  .failureSign 0 8,
  .failureSign 0 0,
  .fail (.dma 32) 0 0,
  .fail .pcie 8 0,
  .fail .pcie 0 9,
  .unlock (.dma 32) 0 0,
  .unlock .pcie 8 0,
  .unlock .pcie 0 9,
  .retest (.dma 32) 0 0] : List Instr).all (fun i => !i.wf) = true := by decide

/-- Each check refuses a command with one operand out of range. -/
theorem test_wf_refuses_7 : ([
  .retest .pcie 8 0,
  .retest .pcie 0 9,
  .takeover 8,
  .engineReturn 8,
  .wellFailure 2 0,
  .wellWatchdogExpiry 2,
  .restart (.dma 32) 0,
  .restart .pcie 2,
  .test (.dma 32) 0,
  .test .pcie 2,
  .dramRequest ⟨.host, 2 ^ 40, false, 1, [], 0, 0⟩,
  .dramReadComplete .host (2 ^ 40) [],
  .dramReadComplete .host 0 [⟨36, 1⟩],
  .trackExpiry 64,
  .refreshInterval 4,
  .tempChange 4 0,
  .mcRetrain (.dma 32) 0 0,
  .mcRetrain .pcie 8 0,
  .mcRetrain .pcie 0 8,
  .dramRetrainDone 64 true] : List Instr).all (fun i => !i.wf) = true := by decide

/-- Each check refuses a command with one operand out of range. -/
theorem test_wf_refuses_8 : ([
  .retire (.dma 32) 0 0,
  .retire .pcie 8 0,
  .retire .pcie 0 8,
  .logPop (.dma 32) 0,
  .logPop .pcie 8,
  .regionWrite (.dma 32) 0 0,
  .regionWrite .pcie (2 ^ 26) 0,
  .regionWrite .pcie 0 (2 ^ 32),
  .remap (.dma 32),
  .fill (.dma 32) 0,
  .fill .pcie 8,
  .start (.dma 32),
  .scrubRead 64 0 0 0 [] true,
  .scrubRead 0 16 0 0 [] true,
  .scrubRead 0 0 65536 0 [] true,
  .scrubRead 0 0 0 64 [] true,
  .scrubRead 0 0 0 0 [⟨36, 1⟩] true,
  .dmachStart (.dma 32) 0,
  .dmachStart .pcie 32,
  .dmachStop (.dma 32) 0] : List Instr).all (fun i => !i.wf) = true := by decide

/-- Each check refuses a command with one operand out of range. -/
theorem test_wf_refuses_9 : ([
  .dmachStop .pcie 32,
  .dmachClear (.dma 32) 0,
  .dmachClear .pcie 32,
  .stopAll (.dma 32),
  .programFetch 32 [] .good,
  .move 32,
  .loop 32,
  .wait 32 0 .good,
  .waitPoll 32 0 .good 0,
  .waitTimeout 32 0,
  .signal 32,
  .illegal 32,
  .dmaReadReturn 32 [] .good,
  .writeErrorResponse 32,
  .matrixRequest 12 [],
  .matrixRequest 0 [⟨.host, 8, 0, false, 0⟩],
  .mspiRead (2 ^ 32),
  .mspiWrite (2 ^ 32) 0,
  .mspiWrite 0 (2 ^ 32),
  .mspiBadOpcode 256] : List Instr).all (fun i => !i.wf) = true := by decide

set_option maxRecDepth 20000 in
/-- Each check refuses a command with one operand out of range. -/
theorem test_wf_refuses_10 : ([
  .mspiBadOpcode 2,
  .mspiBadOpcode 3,
  .mspiCsRise true (2 ^ 32) 0 0,
  .mspiCsRise true 0 (2 ^ 32) 0,
  .mspiCsRise true 0 0 80,
  .configRequest ⟨8, .ids, false, 0⟩,
  .bar2Read (2 ^ 37) 1,
  .bar2Read 0 4097,
  .bar2Read 0 0,
  .bar2Write (2 ^ 37) [] true,
  .bar2Write 0 (List.replicate 513 0) true,
  .pcieLinkUp 7 1 true true,
  .pcieLinkUp 0 1 true true,
  .pcieLinkUp 1 3 true true,
  .ping (.dma 32),
  .fwInfo (.dma 32),
  .nvrRead (.dma 32),
  .nvrFlush (.dma 32),
  .setSubsys (.dma 32),
  .fwStage (.dma 32)] : List Instr).all (fun i => !i.wf) = true := by decide

/-- Each check refuses a command with one operand out of range. -/
theorem test_wf_refuses_11 : ([
  .wellTest (.dma 32),
  .unknownCmd (.dma 32),
  .getCertificate 8 0 0,
  .getCertificate 0 65536 0,
  .getCertificate 0 0 65536,
  .challenge 8 [],
  .unsupportedRequest 256,
  .qlSample 8 0,
  .qlSample 0 8,
  .refActivityLoss 3,
  .histSave (.dma 32),
  .pstepWrite (.dma 32) 0,
  .pstepWrite .pcie (2 ^ 32),
  .pstepCancel (.dma 32),
  .realign (.dma 32),
  .realignCancel (.dma 32),
  .todNowRead (.dma 32) 0,
  .cmpFire 2,
  .loadPps (.dma 32),
  .align (.dma 32)] : List Instr).all (fun i => !i.wf) = true := by decide

/-- Each check refuses a command with one operand out of range. -/
theorem test_wf_refuses_12 : ([
  .todCancel (.dma 32),
  .tuneFault 0,
  .tuneFaultClear 0,
  .tuneCodeWrite (.dma 32) 0,
  .tuneCodeWrite .pcie (2 ^ 32),
  .rangeChange (.dma 32) 0,
  .rangeChange .pcie (2 ^ 32),
  .domEnWrite (.dma 32) 0,
  .domEnWrite .pcie (2 ^ 32),
  .goActive (.dma 32),
  .goIdle (.dma 32),
  .goStandby (.dma 32),
  .save (.dma 32),
  .open (.dma 32),
  .freezeAll (.dma 32),
  .thawAll (.dma 32),
  .check (.dma 32),
  .evtRptrWrite (.dma 32) 0,
  .evtRptrWrite .pcie (2 ^ 32),
  .cdrLock 64] : List Instr).all (fun i => !i.wf) = true := by decide

set_option maxRecDepth 20000 in
/-- Each check refuses a command with one operand out of range. -/
theorem test_wf_refuses_13 : ([
  .fecLock 64,
  .correctedCodeword 64 1,
  .correctedCodeword 0 16,
  .correctedCodeword 0 0,
  .wellSelftestDone 2 true,
  .completionTimeout 32,
  .strayControlBlock 0 ⟨true, List.replicate 32 0⟩,
  .trainingFrame 0 ⟨true, 0, 4, 0, true, true, 0, 0, true, 0⟩,
  .trainingFrame 0 ⟨true, 0, 0, 8, true, true, 0, 0, true, 0⟩,
  .trainingFrame 0 ⟨true, 0, 0, 0, true, true, 32, 0, true, 0⟩,
  .trainingFrame 0 ⟨true, 0, 0, 0, true, true, 0, 32, true, 0⟩,
  .markerGroup 0 [⟨0, 0, 0, 0, 8, 0, 0⟩] ⟨0, 0, true, false, false, false, 0, 1⟩ 0,
  .markerGroup 0 [⟨0, 0, 0, 0, 0, 65536, 0⟩] ⟨0, 0, true, false, false, false, 0, 1⟩ 0,
  .markerGroup 0 [] ⟨0, 8, true, false, false, false, 0, 1⟩ 0,
  .markerGroup 0 [] ⟨0, 0, true, false, false, false, 65536, 1⟩ 0,
  .markerGroup 0 [] ⟨0, 0, true, false, false, false, 0, 256⟩ 0,
  .retrainDone 0 ⟨List.replicate 7 true, 0⟩,
  .dramRequest ⟨.host, 0, false, 0, [], 0, 0⟩,
  .dramRequest ⟨.host, 0, true, 0, [], 0, 0⟩,
  .registerWrite (.well 2) 0 0 15 false] : List Instr).all (fun i => !i.wf) = true := by decide

/-- Each check refuses a command with one operand out of range. -/
theorem test_wf_refuses_14 : ([
  .configRequest ⟨0, .ids, true, 2 ^ 32⟩,
  .capabilityMessage 0 ⟨1, 0, 8, true, 0, 1⟩,
  .capabilityMessage 0 ⟨1, 0, 1, true, 65536, 1⟩,
  .scrubRead 0 0 0 0 [⟨0, 0⟩] false,
  .scrubRead 0 0 0 0 [⟨0, 256⟩] false] : List Instr).all (fun i => !i.wf) = true := by decide

/-! ### Helper states -/

/-- A device that is READY with every power domain on. -/
def up : State := ((State.reset.setFld R.ST_STATE_READY 1).setFld R.PWR_DOM_STAT_ON 0xFFFFF).setFld R.ST_STATE_DEV_STATE 1


/-- The hypotheses of MemoryStaysCanonical and StepKeepsDeviceAndOutputs hold of the device after reset with a command waiting. -/
theorem test_hyp_step : Memory.wf State.reset.dram = true ∧ ∃ t, step { State.reset with pending := [.boundaryScan] } = .next t :=
  ⟨by decide, _, rfl⟩

/-- The hypothesis of StepKeepsDeviceAndOutputs, and of the other statements about every step. -/
theorem test_hyp_any_step : ∃ t, step { State.reset with pending := [.perstRelease, .por] } = .next t ∧ t.pending = [.por] := ⟨_, rfl, rfl⟩

/-- Both hypotheses of StepTakesFrontCommand. -/
theorem test_hyp_front_command : ({ State.reset with pending := [.armApply, .armApply] } : State).pending = .armApply :: [.armApply]
    ∧ State.reset.pending = [] := by decide

/-- The hypotheses of RegisterWriteByAccessCode: LNK0.CFG, and at the lower boundary PG_SCRATCH. -/
theorem test_hyp_register_write : up.Serves .pcie 0x60044 ∧ pageAt 0x60044 = some (lnkPg 0) ∧
    (∃ b r, regRow .lnk 0x44 = some (b, r) ∧ r.pair = false ∧ b + r.off = 0x44 ∧ (r.fields.map (·.lo)).Nodup ∧ ∀ x ∈ r.fields, x.lo < 64) ∧
    up.shadowHeld (lnkPg 0) 0x44 = false ∧ up.cfgHeld (lnkPg 0) 0x44 = false ∧ (command .pcie (lnkPg 0) 0x44 0x12345678).isNone = true :=
  ⟨⟨by decide, by decide⟩, by decide, ⟨_, _, rfl, rfl, rfl, by decide, by decide⟩, by decide, by decide, by decide⟩
theorem test_hyp_register_write_scratch : up.Serves .mspi 0x6002C ∧
    (∃ b r, regRow .lnk 0x2C = some (b, r) ∧ r.pair = false ∧ b + r.off = 0x2C ∧ (r.fields.map (·.lo)).Nodup) ∧
    up.shadowHeld (lnkPg 0) 0x2C = false ∧ up.cfgHeld (lnkPg 0) 0x2C = false :=
  ⟨⟨by decide, by decide⟩, ⟨_, _, rfl, rfl, rfl, by decide⟩, by decide, by decide⟩

/-- The hypotheses of AccessesTurnedAway: an offset of nothing, at the last dword of BAR0 too; before READY; a domain that is
off; an absent page; a partial and a poisoned write; a held shadow register; a held register of each block. -/
theorem test_hyp_unmapped : up.reaches .pcie = true ∧ up.ready = true ∧ ([0x1D000, 0x3FFFFFC].all (fun off =>
    !isMsix off && !zeroPage off && (pageAt off).isNone && (windowDomain off).isNone)) = true := by decide
/-- Accesses that AccessesTurnedAway blocks: before READY, at an offset of no page too; a domain that is off, from the first register
behind the header on, and a window of it; a page that the ordering code lacks. -/
theorem test_hyp_blocked : (let s := up.setFld R.ST_STATE_READY 0; s.reaches .pcie = true ∧ s.ready = false ∧ zeroPage 0x13000 = true ∧
      pageAt 0x1D000 = none ∧ s.has (lnkPg 0) = true ∧ s.early (lnkPg 0) = false) ∧
    (let s := up.setFld R.PWR_DOM_STAT_ON 0; pageAt 0x60040 = some (lnkPg 0) ∧ s.domOn (lnkPg 0).domain = false ∧
      headerEnd ≤ 0x60040 - (lnkPg 0).base ∧ windowDomain 0x1000000 = some 7 ∧ s.domOn 7 = false) ∧
    (let s : State := { up with dev := { up.dev with code := .h } }; pageAt 0x9F040 = some (lnkPg 63) ∧ s.has (lnkPg 63) = false) := by decide
/-- Writes that AccessesTurnedAway drops: a poisoned one, one of a held shadow register, one of a held register of each block. -/
theorem test_hyp_held : up.reaches .pcie = true ∧
    (up.setFld (R.ARM_STATUS_STATE (armB (pg .xs))) 2).shadowHeld (pg .xs) 0x48 = true ∧
    (up.setFld (R.PG_CTL_ENABLE (lnkPg 0)) 1).cfgHeld (lnkPg 0) 0x44 = true ∧ (up.setFld (R.PG_CTL_ENABLE (pg .arr)) 1).cfgHeld (pg .arr) 0x54 = true ∧
    up.cfgHeld (pg .chn0) 0x58 = true ∧ up.cfgHeld (pg .bm) 0x6C = true ∧
    (up.setFld R.XS_STAT_RUN 1).cfgHeld (pg .bas) 0x80 = true ∧
    (up.setFld (R.DMACH_STAT_STATE 0) 1).cfgHeld (pg .dmach) 0x88 = true := by decide

/-- Both hypotheses of TableWindowWriteMergesBytes, at the first word of the delay model's shadow window. -/
theorem test_hyp_table_write : up.Serves .pcie 0x1000000 ∧ (up.setFld (R.ARM_STATUS_STATE 0xA1100) 1).Serves .pcie 0x1000000 ∧
    pageAt 0x1000000 = none ∧ (winAt 0x1000000).map (fun w => w.kind) = some .dly ∧ up.armBusy (pg .dly) = false ∧
    (up.setFld (R.ARM_STATUS_STATE 0xA1100) 1).armBusy (pg .dly) = true :=
  ⟨⟨by decide, by decide⟩, ⟨by decide, by decide⟩, by decide, by decide, by decide, by decide⟩
/-- The other windows of TableWindowWriteMergesBytes at their edges: program SRAM, MSI-X table, both coefficient banks, an active
window. -/
theorem test_hyp_windows : pageAt 0x143FFFC = none ∧ pageAt 0x3D0000 = none ∧ pageAt 0x3D7FFC = none ∧ pageAt 0x117FFFC = none ∧
    up.fld R.CHN0_CFG_COEF_BANK = (0x1100000 - 0x1100000) / 0x40000 ∧ up.fld R.CHN0_CFG_COEF_BANK ≠ (0x117FFFC - 0x1100000) / 0x40000 ∧
    (winAt 0x1180000).isNone = true ∧ up.gate 0x1400000 = .served ∧ up.gate 0x3D0000 = .served ∧ up.gate 0x1100000 = .served := by decide

/-- The hypotheses of PairWritesTakeEffectTogether, of ARR.NOW_LD. -/
theorem test_hyp_pair_write : up.Serves .pcie 0xA0064 ∧ up.Serves .pcie 0xA0068 ∧ pageAt 0xA0068 = some (pg .arr) ∧
    (∃ b r, regRow .arr 0x64 = some (b, r) ∧ regRow .arr 0x68 = some (b, r) ∧ r.pair = true ∧ b + r.off = 0x64 ∧
      (r.fields.map (·.lo)).Nodup ∧ ∀ x ∈ r.fields, x.lo < 64) ∧
    up.shadowHeld (pg .arr) 0x64 = false ∧ up.cfgHeld (pg .arr) 0x64 = false :=
  ⟨⟨by decide, by decide⟩, ⟨by decide, by decide⟩, by decide, ⟨_, _, rfl, rfl, rfl, rfl, by decide, by decide⟩, by decide, by decide⟩

/-- The hypotheses of ReadsLatchAndClear: a register with an RC field, and a pair. -/
theorem test_hyp_read : up.Serves .pcie 0x2006C ∧ up.Serves .pcie 0xA0088 ∧ up.Serves .pcie 0xA008C ∧
    (∃ b r, regRow .slk (0x6C) = some (b, r) ∧ r.pair = false ∧ r.fields.any (fun x => x.acc == .rc) = true) ∧
    (∃ b r, regRow .arr 0x88 = some (b, r) ∧ regRow .arr 0x8C = some (b, r) ∧ r.pair = true ∧ b + r.off = 0x88) ∧
    ({ up with pcie := { up.pcie with up := true } } : State).pcie.up = true :=
  ⟨⟨by decide, by decide⟩, ⟨by decide, by decide⟩, ⟨by decide, by decide⟩, ⟨_, _, rfl, rfl, by decide⟩, ⟨_, _, rfl, rfl, rfl, rfl⟩, by decide⟩

/-- The hypotheses of KeyOpensPageForOneWrite. -/
theorem test_hyp_page_key : up.Serves .pcie 0x60008 ∧ up.Serves .pcie 0x6003C ∧ up.Serves .pcie 0x60044 ∧
    pageAt 0x60044 = some (lnkPg 0) ∧ ∃ t, exec (.registerWrite .pcie 0x60044 1 15 false) up = .next t :=
  ⟨⟨by decide, by decide⟩, ⟨by decide, by decide⟩, ⟨by decide, by decide⟩, by decide, _, rfl⟩

/-- The hypotheses of InterruptRegisters: a message pending and free to go, one held, at the last vector too. -/
theorem test_hyp_interrupts : up.Serves .pcie 0x60014 ∧ (let s := (({ up with pcie := { up.pcie with msixEn := true, bme := true } } : State).setTab 0x3D80FC (2 ^ 31)).setTab 0x3D7FFC 0
    s.pba 2047 = true ∧ s.pcie.msixEn = true ∧ s.msixHeld 2047 = false ∧ s.msixHeld 0 = true ∧ s.pba 0 = false) :=
  ⟨⟨by decide, by decide⟩, by decide⟩

/-- The hypotheses of BlockSoftReset and PageFreeze. -/
theorem test_hyp_soft_reset : up.Serves .pcie 0x60008 ∧ up.Serves .pcie 0xA0008 ∧ up.bit (R.PG_CTL_FREEZE (pg .arr)) = false ∧
    (up.setBit (R.PG_CTL_FREEZE (pg .arr)) true).Serves .pcie 0xA0008 ∧
    (up.setBit (R.PG_CTL_FREEZE (pg .arr)) true).bit (R.PG_CTL_FREEZE (pg .arr)) = true :=
  ⟨⟨by decide, by decide⟩, ⟨by decide, by decide⟩, by decide, ⟨by decide, by decide⟩, by decide⟩

/-- A page arm of the delay model in a state of its group, with its boundary in so many frames. -/
def armed (st : Nat) (due : Nat) : State := (up.setFld (R.ARM_STATUS_STATE (armB (pg .dly))) st).setArm (pg .dly) { due := due }
/-- The hypotheses of ArmRequests: no arm, one in its check, one that waits, one whose boundary NOW has reached. -/
theorem test_hyp_arm : up.Serves .pcie (armB (pg .dly)) ∧ (armed 1 0).Serves .pcie (armB (pg .dly)) ∧
    up.armBusy (pg .dly) = false ∧ (armed 1 0).armBusy (pg .dly) = true ∧
    (armed 2 5).armState (pg .dly) = 2 ∧ after32 (armed 2 5).now ((armed 2 5).arm (pg .dly)).due = false ∧
    (armed 2 0).armState (pg .dly) = 2 ∧ after32 (armed 2 0).now ((armed 2 0).arm (pg .dly)).due = true ∧
    pg .dly ∉ (armed 2 0).arms.parts ∧ ((armed 2 0).arm (pg .dly)).level ≠ 2 ∧ ((armed 2 0).arm (pg .dly)).sets = (armed 2 0).arms.gen :=
  ⟨⟨by decide, by decide⟩, ⟨by decide, by decide⟩, by decide, by decide, by decide, by decide, by decide, by decide, by decide, by decide, by decide⟩
/-- ArmRequests on a page of a device arm in progress whose boundary NOW has not reached. -/
theorem test_hyp_arm_device : (let s := (armed 1 0).setFld (R.ARM_STATUS_STATE (armB xsPg)) 2
    let t : State := ({ s with arms := { s.arms with parts := [pg .dly] } } : State).setArm xsPg { due := 5 }
    t.armBusy (pg .dly) = true ∧ pg .dly ∈ t.arms.parts ∧ t.armBusy xsPg = true ∧ t.deviceDue = false) := by decide

/-- The hypotheses of ArmCheckOutcome: a check whose own checks find nothing, and one that finds a reason; a list of reasons. -/
theorem test_hyp_arm_check : (armed 1 0).armState (pg .dly) = 1 ∧ (armOffset PageKind.dly).isSome = true ∧
    firstBad [⟨0x05, 0, 0, none⟩, ⟨0x03, 0, 0, none⟩] = some ⟨0x03, 0, 0, none⟩ ∧
    (firstBad ((armed 1 0).ownChecks (pg .dly) true)).isSome = true := by decide

/-- The hypotheses of ArmBoundary: an arm whose boundary is reached, none that waits, the device arm in its check, a re-plan due. -/
theorem test_hyp_arm_boundary : pg .dly ∈ (armed 2 0).armPages ∧ ((armed 2 0).armPages.all (fun q => q == pg .dly || (armed 2 0).armState q != 2)) = true ∧
    (up.armPages.all (fun q => up.armState q != 2)) = true ∧
    (up.setFld (R.ARM_STATUS_STATE (armB xsPg)) 1).armState xsPg = 1 ∧ up.arms.parts = [] ∧ up.arms.replan = none ∧
    ({ up with sward := { up.sward with replanDue := true } } : State).sward.replanDue = true ∧ up.armBusy xsPg = false := by decide
/-- An XS arm in its check whose configuration passes every rule: 64 inputs, one coarse channel on link 0, one X engine. -/
def planned : State := [(R.ARM_STATUS_STATE (armB xsPg), 1), (R.XS_CFG_SH_E_X, 1), (R.XS_SPAN_SH_F_SPAN, 65536), (R.XS_N_X_SH_N_X, 64),
  (R.ARR_GEOM_N, 64), (R.ARR_GEOM_N_CC, 1), (R.LNK_TS_CC_CC_CNT 0, 1), (R.LNK_TS_IG_IG_CNT 0, 1), (R.PG_CTL_ENABLE (lnkPg 0), 1),
  (R.LNK_CFG_WIDTH 0, 3), (R.LNK_CFG_MAX_STEP 0, 4), (R.MAP_STAT_MAP_CH, 64), (R.MAP_STAT_ACT_CH, 64), (R.MAP_RGN_SLICE_CSIZE 0, 1024),
  (R.MAP_RGN_CTL_ENABLE 0, 1), (R.MAP_RGN_SLICE_CSIZE 1, 512), (R.MAP_RGN_CTL_ENABLE 1, 1), (R.MAP_RGN_BASE_BASE 1, 2048),
  (R.MAP_RGN_CTL_ORDER 1, 1), (R.ARR_PAY_BASE, 2 ^ 20), (R.ARR_DIR_BASE, 2 ^ 20 + 2 ^ 19), (R.MERE_SPAN_BASE0, 2 ^ 21),
  (R.MERE_SPAN_BASE1, 2 ^ 21 + 2 ^ 20), (R.MERE_DIR_BASE, 2 ^ 22), (R.BAS_BANK_BASE0, 2 ^ 25), (R.BAS_BANK_BASE1, 2 ^ 25 + 2 ^ 20),
  (R.PK_CFG_K, 0)].foldl (fun s x => s.setFld x.1 x.2) up
/-- The checks of a device arm with no partner. -/
def checked (s : State) : Option Bad := firstBad (s.ownChecks xsPg false ++
  (s.showShape true s.armedCfg).deviceChecks (xsPg :: s.arms.parts) s.armedCfg (s.arm xsPg).target)
set_option maxRecDepth 100000 in
/-- ArmBoundary's device check: one that passes, one that fails, and a partner that has passed its own. -/
theorem test_hyp_device_check : planned.armState xsPg = 1 ∧ planned.arms.parts = [] ∧ checked planned = none ∧
    checked (planned.setFld R.XS_CFG_SH_E_X 0) = some ⟨0x10, PageKind.xs.type, 0x48, none⟩ ∧
    (let s : State := { planned.setFld (R.ARM_STATUS_STATE (armB (pg .dly))) 2 with arms := { parts := [pg .dly] } };
      s.armState xsPg = 1 ∧ pg .dly ∈ s.armPages ∧ pg .dly ≠ xsPg ∧ s.armState (pg .dly) ≠ 1 ∧ s.armBusy (pg .dly) = true) := by decide
/-- ArmBoundary's device arm at its boundary: it starts a run, it stops one in a pass. -/
theorem test_hyp_device_apply : (let s := (up.setFld (R.ARM_STATUS_STATE (armB xsPg)) 2).setFld R.XS_CFG_SH_RUN 1; s.armState xsPg = 2 ∧
      after32 s.now (s.arm xsPg).due = true ∧ s.arms.replan = none ∧ s.armedCfg.eX + s.armedCfg.eB ≤ s.workingTotal ∧
      (s.armPages.all (fun q => q == xsPg || s.armState q != 2)) = true ∧ s.lastCfg.run = false ∧ s.fld R.XS_CFG_SH_RUN % 2 = 1) ∧
    (let s : State := { up.setFld (R.ARM_STATUS_STATE (armB xsPg)) 2 with
        cfgs := [{ run := true }], sward := { runs := [(0, none)] }, mere := { pass := some 0 } };
      s.lastCfg.run = true ∧ s.fld R.XS_CFG_SH_RUN % 2 = 0 ∧ s.sward.runs = [(0, none)] ∧ s.mere.pass.isSome = true ∧
      s.armedCfg.eX + s.armedCfg.eB ≤ s.workingTotal) := by decide

/-- The hypotheses of LinkEnableAndDisable: an enable that is admitted (link 63 on the last lane), one refused, one of an
enabled link, and a disable with a tile in progress. -/
theorem test_hyp_link_enable : (up.setFld (R.LNK_CFG_MAX_STEP 0) 4).Serves .pcie 0x60008 ∧
    (let s := ((up.setFld (R.LNK_CFG_MAX_STEP 63) 2).setFld (R.LNK_CFG_FIRST_LANE 63) 63).setFld (R.LNK_CFG_WIDTH 63) 0; s.domOn (lnkPg 63).domain = true ∧ s.bit (R.PG_CTL_ENABLE (lnkPg 63)) = false ∧ s.lnkRefused 63 = none) ∧
    (let s := (up.setFld (R.LNK_CFG_WIDTH 0) 5).setFld (R.LNK_CFG_FIRST_LANE 0) 16; s.lnkRefused 0 = some 3) ∧
    (let s := (up.setFld (R.PG_CTL_ENABLE (lnkPg 0)) 1).setLink 0 { rx := { inTile := true } }; s.bit (R.PG_CTL_ENABLE (lnkPg 0)) = true ∧ (s.link 0).rx.inTile = true) :=
  ⟨⟨by decide, by decide⟩, by decide, by decide, by decide⟩

/-- The hypotheses of LaneSignals. -/
theorem test_hyp_lane_signals : (up.setFld (R.SLK_STAT_LSTATE 63) lsDetect).lstate 63 = lsDetect ∧ up.lstate 63 ≠ lsDetect ∧
    (let s := (((up.setFld (R.SLK_STAT_SIG_DET 0) 1).setFld (R.SLK_STAT_CDR_LOCK 0) 1).setFld (R.SLK_STAT_STEP 0) 2).setFld (R.SLK_STAT_FEC_LOCK 0) 1; s.bit (R.SLK_STAT_SIG_DET 0) = true ∧ s.bit (R.SLK_STAT_CDR_LOCK 0) = true ∧ 2 ≤ s.fld (R.SLK_STAT_STEP 0) ∧
      s.bit (R.SLK_STAT_FEC_LOCK 0) = true ∧ s.laneLink 0 = none) ∧ up.bit (R.SLK_STAT_FEC_LOCK 0) = false := by decide

/-- A link that carries data, with a tile in progress: the hypotheses of StrayControlBlockDiscarded. -/
theorem test_hyp_stray_control_block : ((up.setFld (R.LNK_STAT_STATE 0) 2).setLink 0 { rx := { inTile := true } }).carries 0 = true
    ∧ (((up.setFld (R.LNK_STAT_STATE 0) 2).setLink 0 { rx := { inTile := true } }).link 0).rx.inTile = true := by decide

/-- A host access over PCI Express that is served: its two conditions in one. -/
theorem served {s : State} {off : Nat} (h : (s.reaches .pcie && decide (s.gate off = .served)) = true) : s.Serves .pcie off := by
  simpa [State.Serves] using h
/-- Link 0 on lanes 0 and 1 in a state of the link, its lanes in a state of the lane. -/
def linked (k l : Nat) : State :=
  ((((((up.setLink 0 { first := 0, width := 1, final := 4 }).setFld (R.LNK_STAT_STATE 0) k).setFld (R.SLK_STAT_IN_LINK 0) 1).setFld
    (R.SLK_STAT_IN_LINK 1) 1).setFld (R.LNK_CFG_WIDTH 0) 1).setFld (R.SLK_STAT_LSTATE 0) l).setFld (R.SLK_STAT_LSTATE 1) l
/-- The hypotheses of LinkTraining: S1, a lane training without and with READY, a link that carries tiles, one that is
disabled. -/
theorem test_hyp_link_training : (linked lkNegotiate lsS1).lkstate 0 = lkNegotiate ∧ ((linked lkNegotiate lsS1).link 0).capDone = false ∧
    ((linked lkNegotiate lsS1).link 0).badVersion = false ∧ (∀ x ∈ (linked lkNegotiate lsS1).linkLanes 0, x < 64 ∧ (linked lkNegotiate lsS1).lstate x = lsS1) ∧
    ((linked lkNegotiate lsTrain).setFld (R.SLK_STAT_CDR_LOCK 1) 1).lstate 1 = lsTrain ∧
    ((linked lkNegotiate lsTrain).setFld (R.SLK_STAT_CDR_LOCK 1) 1).bit (R.SLK_STAT_CDR_LOCK 1) = true ∧
    (linked lkNegotiate lsTrain).laneLink 1 = some 0 ∧ 1 ∈ (linked lkNegotiate lsTrain).linkLanes 0 ∧
    (((linked lkNegotiate lsTrain).lane 1).ownReady && ((linked lkNegotiate lsTrain).lane 1).peerReady) = false ∧
    (linked lkNegotiate lsTrain).fld (R.SLK_STAT_STEP 1) ≤ 2 ∧ ((linked lkNegotiate lsTrain).lane 1).alone = false ∧ (linked lkUp lsActive).carries 0 = true ∧ up.lkstate 0 = lkDisabled ∧
    (∀ x ∈ (linked lkUp lsActive).linkLanes 0 ++ (linked lkUp lsActive).cfgLanes 0, x < 64) := by decide

/-- Link 0 UP with a receive stream. -/
def receiving (rx : LinkRx) (e : Bool) : State := (linked lkUp lsActive).setLink 0 { first := 0, width := 1, final := 4, elastic := e, rx := rx }
/-- A tile header in the stream. -/
def header1 : List (Bool × List Byte) := [[0x5E, 0x3C, 0xA9, 0x47], [1, 0, 0, 0], [0, 0, 0, 0], [0, 0, 0, 0], [0, 0, 0, 0], [0, 0, 0, 0],
  [0, 0, 0, 0], [0, 0, 0, 130]].map (fun b => (false, b))
set_option maxRecDepth 20000 in
/-- The hypotheses of LinkTilesAndDrops: a data block for a tile in progress, on the lane whose turn it is; a hunt, with and without a
header; a lane with FEC lock. -/
theorem test_hyp_link_tiles : up.carries 0 = false ∧
    (let l := (receiving { inTile := true, turn := 1 } false).link 0; (receiving { inTile := true, turn := 1 } false).carries 0 = true ∧
      l.elastic = false ∧ l.rx.hunt = none ∧ l.rx.fifo = [] ∧ l.rx.turn < 2 ^ l.width ∧ 1 = l.first + l.rx.turn ∧ l.rx.words.length < 513) ∧
    (let l := (receiving { hunt := some 3, words := header1 } false).link 0; l.rx.hunt = some 3 ∧ 8 ≤ l.rx.words.length ∧ huntTest l.rx.words = true) ∧
    (receiving { hunt := some 3, words := header1 } false).carries 0 = true ∧
    (receiving {} true).carries 0 = true ∧ (linked lkUp lsActive).laneLink 1 = some 0 ∧
    (let s := (linked lkRetrain lsActive).setFld (R.SLK_STAT_FEC_LOCK 1) 1; s.bit (R.SLK_STAT_FEC_LOCK 1) = true ∧ s.carries 0 = false ∧
      s.laneLink 1 = some 0) := by decide
/-- The last word of a tile, of which every word before came well. -/
theorem test_hyp_last_word : (List.replicate 513 (false, ([] : List Byte))).length = 513 ∧ ((⟨true, []⟩ : Block).data = true) :=
  ⟨List.length_replicate .., rfl⟩
/-- LOCK_LOSS of a lane in use (LaneSignals); a codeword of a link that carries data, below the threshold and at it. -/
theorem test_hyp_lane_in_use : (let s := (linked lkUp lsActive).setFld (R.SLK_STAT_CDR_LOCK 1) 1; s.bit (R.SLK_STAT_CDR_LOCK 1) = true ∧
      s.laneLink 1 = some 0 ∧ s.carries 0 = true ∧ 1 ∈ s.linkLanes 0) ∧
    (let s := ((linked lkUp lsActive).setFld (R.SLK_STAT_FEC_LOCK 1) 1).setFld (R.SLK_UNCORR_THR_COUNT 1) 1;
      s.bit (R.SLK_STAT_FEC_LOCK 1) = true ∧ s.carries 0 = true ∧ (s.lane 1).uncorr = [] ∧
      1 ≤ (([1] : List Nat).take (max 1 (s.fld (R.SLK_UNCORR_THR_WINDOW 1)))).sum) ∧
    (((linked lkUp lsActive).setFld (R.SLK_UNCORR_THR_COUNT 1) 0).fld (R.SLK_UNCORR_THR_COUNT 1) = 0) := by decide
/-- The stream of a whole tile whose first words are given. -/
def wholeTile (h : List (Bool × List Byte)) : List Byte :=
  streamBytes ((h ++ List.replicate 505 (false, [0, 0, 0, 0])) ++ blockWords false (List.replicate 32 0))
set_option maxRecDepth 100000 in
/-- LinkTilesAndDrops at the end of a tile: a header that holds, one with a bad CRC-8, one with a field that R67 does not allow. -/
theorem test_hyp_tile_end : hdrCrcOk (wholeTile header1) = true ∧ hdrFieldsOk (wholeTile header1) 0 = true ∧
    hdrCrcOk (wholeTile (List.replicate 8 (false, [1, 0, 0, 0]))) = false ∧
    hdrCrcOk (wholeTile (List.replicate 8 (false, [0, 0, 0, 0]))) = true ∧
    hdrFieldsOk (wholeTile (List.replicate 8 (false, [0, 0, 0, 0]))) 0 = false := by decide

/-- The hypotheses of LinkRetraining: a link that carries tiles, lanes that retrain, a failed lane, a link with fewer lanes
than its configuration. -/
theorem test_hyp_link_retraining : (linked lkUp lsActive).Serves .pcie 0x60040 ∧ (linked lkUp lsActive).Serves .pcie 0x20040 ∧
    (linked lkUp lsActive).carries 0 = true ∧ up.carries 0 = false ∧ (∀ x ∈ (linked lkUp lsActive).linkLanes 0, x < 64) ∧
    (linked lkRetrain lsRetrain).laneLink 1 = some 0 ∧ (linked lkRetrain lsRetrain).lstate 1 = lsRetrain ∧
    (linked lkUp lsFailed).lstate 0 = lsFailed ∧ (linked lkUp lsFailed).Serves .pcie 0x20040 ∧
    ((linked lkUp lsFailed).setLane 1 { alone := true }).laneLink 1 = some 0 ∧ (((linked lkUp lsFailed).setLane 1 { alone := true }).lane 1).alone = true ∧
    (let s := (linked lkDegraded lsSpareOk).setLink 0 { first := 0, width := 0, final := 4 }; s.Serves .pcie 0x60040 ∧ s.lkstate 0 = lkDegraded ∧ s.bestSet 0 (s.fld (R.LNK_CFG_WIDTH 0)) s.sound = some (0, 1) ∧ (s.link 0).width < 1) :=
  ⟨served (by decide), served (by decide), by decide, by decide, by decide, by decide, by decide, by decide, served (by decide), by decide, by decide,
    served (by decide), by decide, by decide, by decide⟩
/-- LinkRetraining: the first start that works, the last of them, and none. -/
theorem test_hyp_starts : [true].findIdx? id = some 0 ∧ (List.replicate 5 false ++ [true]).findIdx? id = some 5 ∧
    ([false, false].findIdx? id).isNone = true := by decide

/-- The hypotheses of LinkDormancy: a link whose tiles no run uses, one whose tiles a run uses, a request out, DORMANT, a lane
that wakes, a lane at step S4. -/
theorem test_hyp_link_dormancy : (linked lkUp lsActive).Serves .pcie 0x60040 ∧ (linked lkUp lsActive).bit (R.LNK_CTL_DORMANT_REQ 0) = false ∧ (linked lkUp lsActive).carries 0 = true ∧
    ((linked lkUp lsActive).running && (linked lkUp lsActive).tileSetUsed 0) = false ∧
    (((linked lkUp lsActive).setLink 0 { dormWait := true }).link 0).dormWait = true ∧
    (linked lkDormant lsActive).Serves .pcie 0x60040 ∧ (linked lkDormant lsActive).lkstate 0 = lkDormant ∧
    (linked lkWaking lsWaking).laneLink 1 = some 0 ∧ (linked lkWaking lsWaking).lstate 1 = lsWaking ∧
    ((linked lkUp lsActive).setFld (R.SLK_STAT_STEP 0) 4).Serves .pcie 0x20040 ∧
    4 ≤ ((linked lkUp lsActive).setFld (R.SLK_STAT_STEP 0) 4).fld (R.SLK_STAT_STEP 0) ∧ (linked lkUp lsActive).fld (R.SLK_STAT_STEP 0) < 4 :=
  ⟨served (by decide), by decide, by decide, by decide, by decide, served (by decide), by decide, by decide, by decide, served (by decide), by decide, by decide⟩
/-- LinkDormancy of a link that a run uses. -/
theorem test_hyp_dormant_refused : (let s : State := { (((linked lkUp lsActive).setFld R.XS_STAT_RUN 1).setFld (R.LNK_TS_CC_CC_CNT 0) 1).setFld
      (R.LNK_TS_IG_IG_CNT 0) 1 with cfgs := [{ run := true }] }; s.running && s.tileSetUsed 0) = true := by decide

/-- A run is in progress. -/
def run1 : State := { up with sward := { runs := [(0, none)] }, cfgs := [{ run := true, nCC := 1, n := 64, k := 2, nX := 64, eX := 1 }] }
/-- The hypotheses of FrameClock: the grid on, with no run and in a run; a pending load written before the last tick; the frame
before a SYNC edge. -/
theorem test_hyp_frame_clock : (up.setFld R.ST_STATE_STEP 9).gridOn = true ∧ up.domOn 7 = true ∧ up.Serves .pcie 0xA0040 ∧ up.running = false ∧
    (up.setFld R.TRN2_SYNC_PERIOD_FRAMES 1).Serves .pcie 0xA0040 ∧ (up.setFld R.TRN2_SYNC_PERIOD_FRAMES 1).fld R.TRN2_SYNC_PERIOD_FRAMES ≠ 0 ∧
    up.arr.load = .none ∧ (let s : State := { up with ticks := 1, arr := { load := .now } }; s.arr.loadTick < s.ticks ∧ s.arr.load = .now) ∧
    (let s : State := { up.setFld R.TRN2_SYNC_PERIOD_FRAMES 1 with ticks := 1, arr := { load := .sync } }; s.arr.loadTick < s.ticks ∧ s.syncEdge = true) :=
  ⟨by decide, by decide, served (by decide), by decide, served (by decide), by decide, by decide, by decide, by decide⟩
/-- FrameClock in a memory fill; the loads that a run, and a SYNC grid with no period, block. -/
theorem test_hyp_frame_clock_blocked : (let s := (up.setFld R.ST_STATE_STEP 9).setFld R.MAP_STAT_FILL_BUSY 1; s.gridOn = true ∧ s.bit R.MAP_STAT_FILL_BUSY = true) ∧
    (up.setFld R.XS_STAT_RUN 1).running = true ∧ (up.setFld R.XS_STAT_RUN 1).gate 0xA0040 = .served ∧
    (let s := up.setFld R.TRN2_SYNC_PERIOD_FRAMES 0; s.fld R.TRN2_SYNC_PERIOD_FRAMES = 0 ∧ s.tarn.realign = false ∧ s.gate 0xA0040 = .served) := by decide

/-- A tile accepted. -/
def oneTile : TileIn := ⟨0, 0, 0, 0, 0, 0, 0, 0, []⟩
/-- The hypotheses of DuplicateTile: the slot holds the tile's frame. -/
theorem test_hyp_duplicate : ({ up with arr := { accepted := [oneTile], resident := [(0, 1)] } } : State).arr.accepted = [oneTile] ∧
    ({ up with arr := { resident := [(0, 1)] } } : State).slotOf 0 0 0 = 0 ∧
    ({ up with arr := { resident := [(0, 1)] } } : State).residentFrame 0 = some 0 := by decide

/-- The hypotheses of ArrivalArea: disabled with and without a reason to refuse, enabled, INIT in progress, a tile for an empty
slot. -/
theorem test_hyp_arrival : up.Serves .pcie 0xA0008 ∧ up.bit (R.PG_CTL_ENABLE (pg .arr)) = false ∧ up.domOn (pg .arr).domain = true ∧
    (up.setFld R.ARR_CFG_DEPTH_EXP 3).arrRefused = some 1 ∧ (up.setFld R.ARR_CFG_DEPTH_EXP 7).arrRefused = none ∧
    (up.setFld (R.PG_CTL_ENABLE (pg .arr)) 1).Serves .pcie 0xA0008 ∧ (up.setFld (R.PG_CTL_ENABLE (pg .arr)) 1).bit (R.PG_CTL_ENABLE (pg .arr)) = true ∧
    (up.setFld R.ARR_STAT_INIT_BUSY 1).bit R.ARR_STAT_INIT_BUSY = true ∧
    (let s : State := { up with arr := { accepted := [oneTile] } }; s.arr.accepted = [oneTile] ∧ s.residentFrame (s.slotOf 0 0 0) = none) ∧
    up.bit R.ARR_STAT_NOW_VALID = false :=
  ⟨served (by decide), by decide, by decide, by decide, by decide, served (by decide), by decide, by decide, by decide, by decide⟩
/-- The arrival area enabled, the window open, and one pair in the tile set of link 0 from frame 0 on. -/
def window1 (sets : List ActSet) : State :=
  { (((up.setFld R.ARR_STAT_NOW_VALID 1).setFld (R.PG_CTL_ENABLE (pg .arr)) 1).setFld R.ARR_STAT_INIT_DONE 1).setFld R.ARR_NOW 20 with actives := sets }
/-- One pair in the tile set of link 0. -/
def sets1 : List ActSet := [⟨pg .arr, 0, [(R.ARR_GEOM_N.key, 64), (R.ARR_GEOM_N_CC.key, 1)], []⟩,
  ⟨lnkPg 0, 0, [((R.LNK_TS_CC_CC_CNT 0).key, 1), ((R.LNK_TS_IG_IG_CNT 0).key, 1)], []⟩]
/-- The hypotheses of ArrivalArea, of a frame that closes with every slot and with one missing, and of a slot read. -/
theorem test_hyp_frame_close : ∀ x ∈ [(([] : List ActSet), 0), (sets1, 1)], (window1 x.1).placeAll = window1 x.1 ∧
    (window1 x.1).arrOpen = true ∧ (window1 x.1).arr.floor = none ∧ (window1 x.1).arr.closed ≠ some 4 ∧
    ((window1 x.1).now + m48 - (window1 x.1).lat) % m48 = 4 ∧ framesPerSlot ((window1 x.1).geomMode 4) = 1 ∧
    (window1 x.1).missingSlots 4 = x.2 ∧ (window1 x.1).bit R.ARR_STAT_NOW_VALID = true ∧
    ((window1 x.1).lat : Int) ≤ seqDiff 48 (window1 x.1).now 4 ∧ (x.2 = 1 → 0 < groupsOf ((window1 x.1).geomN 4) ∧ 0 < (window1 x.1).geomCc 4) := by
  decide
/-- ArrivalArea of an expiry, outside a run and in one; of a resident slot that is read; and LinkTilesAndDrops of a tile in its
link's set, or not, and in the window, or not. -/
theorem test_hyp_slots : (let s := window1 sets1; let h := (s.now + m48 + s.fld R.ARR_CFG_AHEAD - s.depth) % m48
      h = 2 ^ 48 - 972 ∧ s.runAt h = false ∧ ({ s with sward := { runs := [(h, none)] } } : State).runAt h = true ∧
      ({ s with arr := { resident := [(0, h + 1)] } } : State).residentFrame 0 = some h ∧ s.inTileSet 0 20 0 0 = true ∧
      s.inTileSet 0 20 1 0 = false ∧ s.inWindow 20 0 = true ∧ s.inWindow 200 0 = false) ∧
    (let s : State := { window1 sets1 with arr := { resident := [((window1 sets1).slotOf 4 0 0, 5)] } };
      s.residentFrame (s.slotOf 4 0 0) = some 4 ∧ s.bit (R.PG_CTL_ENABLE (pg .arr)) = true) ∧
    (let s := ((up.setFld R.MAP_STAT_MAP_CH 64).setFld (R.MAP_RGN_SLICE_CSIZE 0) 1).setFld (R.MAP_RGN_CTL_ENABLE 0) 1;
      s.dramOpen .arrive = true ∧ s.rgnOf (s.fld R.ARR_DIR_BASE * 4096) = some (0, 0)) := by decide

/-- The hypotheses of DelayIntervals: an interval of 32,768 samples in which no input clamps. -/
theorem test_hyp_delay : (2 ^ up.fld R.DLY_CFG_UPD_EXP, (up.clampedInputs 0 64).length, up.segExpired 0 0) = (2 ^ up.fld R.DLY_CFG_UPD_EXP, 0, false) ∧
    (let s : State := { up with actives := [⟨pg .dly, 0, [(R.DLY_CFG_MODEL_EN.key, 1), (R.DLY_SEG_LEN_FRAMES.key, 0)], []⟩] }; s.segExpired 0 0 = true) := by decide

/-- The hypotheses of Chunks: a chunk to start whose frames have closed, one in progress with and without a pair to come. -/
theorem test_hyp_chunks : (let s := (window1 sets1).setFld R.ARR_NOW 100; s.nextChunk = (8, 9, 72) ∧ s.chn.chunk = none ∧ s.arrOpen = true ∧
      s.domOn chn0.domain = true ∧ s.frameClosed ((9 + 1) * 8 - 1) = true) ∧
    (let s : State := { up with chn := { chunk := some ⟨0, 8, 0, [(0, 0)], false⟩ } }; s.chn.chunk = some ⟨0, 8, 0, [(0, 0)], false⟩) ∧
    (let s : State := { up with chn := { chunk := some ⟨0, 8, 0, [], false⟩ } }; s.chn.chunk = some ⟨0, 8, 0, [], false⟩ ∧ s.writerIdle = true) := by decide

/-- A configuration of one pair of channel and group, with 64 fine samples in a span. -/
def cfg1 : Cfg := { run := true, nCC := 1, n := 64, k := 2, nX := 64, eX := 1, span := 16, shape := { nblk := 36, ctx := 36 } }
/-- One segment under the small configuration. -/
theorem segments_of (s : State) (h : s.cfgs = [cfg1]) : s.segments 0 8 = [(cfg1, 0, 8)] := by
  have e : after48 0 cfg1.f0 = true := by decide
  simp [State.segments, State.cfgAt, h, e]
  simp [show cfg1.f0 = 0 from rfl]
/-- Chunks of a pair: one segment of the run's configuration; a support with no cause, with one, and with a read offset that changes. -/
theorem test_hyp_segments : ({ up with cfgs := [cfg1] } : State).segments 0 8 = [(cfg1, 0, 8)] ∧ (0 < cfg1.nCC ∧ 0 < groupsOf cfg1.n ∧ cfg1.chan = true ∧
    firstCause [⟨0, (0, 0), some 1⟩] = 0 ∧ firstCause [⟨3, (0, 0), none⟩, ⟨2, (0, 0), none⟩] = 2 ∧
    discont [⟨0, (0, 0), some 1⟩, ⟨0, (0, 0), some 2⟩] = true ∧ discont [⟨0, (0, 0), some 1⟩, ⟨0, (0, 0), some 1⟩] = false) :=
  ⟨segments_of _ rfl, by decide⟩
/-- A row of it. -/
def row1 : Row := ⟨0, 0, 0, 0, [], 0⟩
/-- A run of it with a row on its way and a tile open with so many rows. -/
def writing (rows : Nat) (held : Bool) : State := { up with
  cfgs := [cfg1], sward := { runs := [(0, none)] }, chn := { rows := [row1] }, mere := { opens := [(0, some ⟨0, 0, 0, 0, 0, 0, rows, held, false, 0⟩)] } }
/-- The hypotheses of MereWriter: a row for an open tile, for a held one, for a tile all of whose rows have come, outside a run; a
tile for its descriptor; the directory fill; a channel-pass to release. -/
theorem test_hyp_mere_writer : (∀ r < 33, ∀ h, (writing r h).runAt row1.frame = true ∧ ((writing r h).cfgAt row1.frame).tLen = 64 ∧
      tileKey 0 (((writing r h).cfgAt 0).tileIdx 0 0 0) = 0 ∧ (writing r h).openTile 0 = some ⟨0, 0, 0, 0, 0, 0, r, h, false, 0⟩ ∧
      (writing r h).mere.filling = false) ∧ up.runAt 0 = false ∧ (writing 5 false).tileFull ((writing 5 false).cfgAt 0) row1 = false ∧
    ({ up with mere := { filling := true } } : State).mere.filling = true ∧
    ({ up with bas := { accepted := [(0, 3)] } } : State).bas.accepted.find? (fun a => a.2 == 3) = some (0, 3) := by decide
/-- MereWriter of a row that opens its tile, whose pass has its half free, or not. -/
theorem test_hyp_mere_open : (let s : State := { writing 0 false with mere := {} }; s.openTile 0 = none ∧ s.tileHeldBy (s.cfgAt 0) 0 0 = none) ∧
    (let s : State := { writing 0 false with mere := { unrel := [⟨1, []⟩] } }; s.openTile 0 = none ∧ (s.tileHeldBy (s.cfgAt 0) 3 0).isSome = true) ∧
    (up.setFld R.MAP_STAT_FILL_BUSY 0).bit R.MAP_STAT_FILL_BUSY = false := by decide

/-- The hypotheses of PlanAndShape: evaluations in progress, of a configuration that is not evaluable and of one that is, an arm
of XS in its check. -/
theorem test_hyp_plan : up.Serves .pcie 0xC0040 ∧ up.Serves .pcie 0x160040 ∧ up.fld (R.ARM_STATUS_STATE 0x160100) ≠ 1 ∧
    (up.setFld (R.ARM_STATUS_STATE 0x160100) 1).Serves .pcie 0x160040 ∧ up.sward.planBusy = false ∧
    ({ up with sward := { planBusy := true, evalBusy := true } } : State).sward.evalBusy = true ∧
    (up.buildCfg (fun _ => true)).evaluable = false ∧ ({ cfg1 with shape := {} } : Cfg).evaluable = true :=
  ⟨served (by decide), served (by decide), by decide, served (by decide), by decide, by decide, by decide, by decide⟩

/-- A run of the small configuration, in a pass and a sweep of it or between them. -/
def inRun (p : Option Nat) (w : Option SweepKey) : State :=
  ({ up with cfgs := [cfg1], sward := { runs := [(0, none)], sweep := w, next := some ⟨0, 0, 0, 0⟩ }, mere := { pass := p } }).setFld R.XS_STAT_RUN 1
/-- The hypotheses of PassSteps: the next pass closed, a read that may be made with and without a slot for its masks, a takeover,
a return and a lockout. -/
theorem test_hyp_pass_steps : (let s : State := { inRun none none with mere := { closed := [(0, 0)] } }; s.mere.pass = none ∧ s.mere.filling = false ∧ s.mere.next = 0 ∧ s.sward.sweep = none) ∧
    (inRun (some 0) (some ⟨0, 0, 0, 0⟩)).mayRead ((inRun (some 0) (some ⟨0, 0, 0, 0⟩)).cfgOfPass 0) ⟨0, 0, 0, 0⟩ 0 0 = true ∧
    (inRun (some 0) (some ⟨0, 0, 0, 0⟩)).bas.masks.length < 3 ∧
    (let s : State := { up with gsvs := [(0, { takeover := some (2, 2) })] }; (s.gsv 0).takeover = some (2, 2) ∧ (s.setFld (R.ENG_STAT_STATE 8) esStandby).spareSlot 0 = some 8) := by decide
/-- A failed engine in slot 3 that has passed its tests, with so many reverts of late. -/
def returning (n : Nat) : State :=
  { ((((up.setFld (R.ENG_STAT_STATE 3) esFailed).setFld (R.GSV_CFG_AUTO_RETURN 0) 1).setFld (R.GSV_HEALTH_PASS_RUN 0 3) 255).setFld (R.GSV_HOLDOFF_PASSES 0) 1).setFld
      (R.GSV_HOLDOFF_SECONDS 0) 0 with gsvs := [(0, { fallow := some 8, reverts := [(3, List.replicate n 0)] })] }
/-- The hypotheses of PassSteps, of a return and of a lockout. -/
theorem test_hyp_return : ∀ n < 3, 0 < (returning n).nGroups ∧ (returning n).mere.pass = none ∧ (returning n).mayReturn 0 3 = true ∧
    (∀ k, k < 9 → k ≠ 3 → (returning n).mayReturn 0 k = false) ∧ (returning n).recentReverts 0 3 = List.replicate n 0 := by decide
/-- PassSteps: the first read of a sweep with all three slots of the mask store taken. -/
theorem test_hyp_masks_full : (let w : SweepKey := ⟨0, 0, 0, 0⟩; let v : SweepKey := ⟨0, 1, 0, 0⟩; let s := inRun (some 0) (some w)
    let u : State := { s with bas := { masks := [⟨v, [], [], 1⟩, ⟨v, [], [], 1⟩, ⟨v, [], [], 1⟩] } }; u.maskReady (s.cfgOfPass 0) w = false ∧
      3 ≤ u.bas.masks.length ∧ u.mayRead (s.cfgOfPass 0) w 0 0 = true) := by decide

/-- A tile staged for the first step of a sweep. -/
def staged1 : Staged := ⟨0, 0, [], 0, 0⟩
/-- The hypotheses of SweepsAndDrains: a sweep to start; a step with its tile; the last step done, with and without a credit; a
buffer to hand over. -/
theorem test_hyp_sweeps : (inRun (some 0) none).weightsReady ((inRun (some 0) none).cfgOfPass 0) ⟨0, 0, 0, 0⟩ = true ∧
    (let s := inRun (some 0) (some ⟨0, 0, 0, 0⟩); let t : State := { s with sward := { s.sward with staging := [staged1] } }; let c := t.cfgOfPass 0; t.sward.step + 1 < c.steps 0 ∧ t.stepStaged c ⟨0, 0, 0, 0⟩ = true ∧ t.firstVoltStep c ⟨0, 0, 0, 0⟩ = false ∧
      t.stepEndsBin c ⟨0, 0, 0, 0⟩ = false) ∧
    (∀ cr, let s := inRun (some 0) (some ⟨0, 0, 0, 0⟩); let t : State := { s with sward := { s.sward with step := 64, engs := [(0, { phase := 1, credit := cr })] } }; let c := t.cfgOfPass 0; (t.activeEngs c).find? (fun x => x.2 == 0) = some (0, 0) ∧ t.stepsOver c ⟨0, 0, 0, 0⟩ = true ∧ 0 < c.eX ∧ (t.eng 0).phase = 1 ∧
      (t.eng 0).credit = cr ∧ (c.places 0 0 0).isEmpty = false) ∧
    (let s := inRun (some 0) (some ⟨0, 0, 0, 0⟩); let t : State := { s with sward := { s.sward with engs := [(0, { phase := 2 })] } }; (t.activeEngs (t.cfgOfPass 0)).find? (fun x => x.2 == 0) = some (0, 0) ∧ (t.eng 0).phase = 2) := by decide
/-- A configuration with one engine of the B side, whose voltages are recorded. -/
def cfgB : Cfg := { cfg1 with eX := 0, eB := 1, beams := 1, bChans := 1, bVolt := true, shape := { d := 1 } }
/-- A run of it, in a sweep of its beamformed channel. -/
def inRunB (d : Nat) : State := ({ up with
  cfgs := [{ cfgB with shape := { d := d } }], sward := { runs := [(0, none)], sweep := some ⟨0, 0, 0, 0⟩, engs := [(0, { phase := 1 })] }, mere := { pass := some 0 } }).setFld R.XS_STAT_RUN 1
/-- SweepsAndDrains: a first step of beamformed voltages whose half is not free; the end of a sub-pass, and of the last, of an
engine of the B side. -/
theorem test_hyp_b_side : (let s := inRunB 1; let c := s.cfgOfPass 0; s.firstVoltStep c ⟨0, 0, 0, 0⟩ = true ∧ c.bVrel = 0 ∧ c.bVolt = true) ∧
    (let s := (inRunB 1).setFld R.BM_VREL_PASS 9; s.vHalfFree (s.cfgOfPass 0) 20 = false) ∧
    (∀ d < 3, let s := inRunB d; (s.activeEngs (s.cfgOfPass 0)).find? (fun x => x.2 == 0) = some (0, 0) ∧
      (let t : State := { s with sward := { s.sward with step := (s.cfgOfPass 0).steps 0 } }; t.stepsOver (t.cfgOfPass 0) ⟨0, 0, 0, 0⟩ = true) ∧ (s.cfgOfPass 0).eX ≤ 0 ∧ (s.eng 0).phase = 1) := by decide
/-- A bank with weights of no element. -/
def bank1 : WtBank := ⟨0, 0, [], [], []⟩
/-- A run with an engine of the B side between sweeps, with its banks so. -/
def swapping (b : BeamSt) : State := ({ up with cfgs := [cfgB], sward := { runs := [(0, none)], next := some ⟨0, 0, 0, 0⟩ }, mere := { pass := some 0 }, beam := b }).setFld R.XS_STAT_RUN 1
/-- SweepsAndDrains: swaps with a loaded bank, with a load in progress, and with a bank that stays. -/
theorem test_hyp_swaps : (∀ b ∈ [({ free := some bank1 } : BeamSt), { loading := some (0, 0) }, { cur := some bank1 }], let s := swapping b;
      s.sward.sweep = none ∧ (s.activeEngs s.passCfg).find? (fun x => x.2 == 0) = some (0, 0) ∧ s.passCfg.eX ≤ 0) ∧
    (swapping { loading := some (0, 0) }).oldBank = true ∧ (swapping { cur := some bank1 }).oldBank = false := by decide
/-- SweepsAndDrains: an engine without a place, one whose injection is not armed, and the empty sums of a place. -/
theorem test_hyp_places : (Cfg.places { cfg1 with shape := { nblk := 0 } } 0 0 0) = [] ∧ up.injects 0 [⟨0, 0, 0, false, 0⟩] = false ∧ (sumsOf [] ⟨0, 0, 0, false, 0⟩).length = 4096 ∧
    (let s := inRun (some 0) (some ⟨0, 0, 0, 0⟩); (s.activeEngs (s.cfgOfPass 0)).filter (fun x => x.2 == 0) = [(0, 0)]) :=
  ⟨by decide, by decide, List.length_replicate, by decide⟩

/-- The hypotheses of EngineTests: an engine to test, one that is not, a test in progress, a lockout to end. -/
theorem test_hyp_engine_tests : up.Serves .pcie 0x100040 ∧ up.Serves .pcie 0x100008 ∧ up.Serves .pcie 0x150040 ∧
    (up.setFld (R.ENG_STAT_STATE 0) esIdle).fld (R.ENG_STAT_STATE 0) ∈ [esIdle, esStandby, esFailed] ∧ up.bit (R.ENG_STAT_BUF_FULL 0) = false ∧
    (let s : State := { up with sward := { engs := [(0, { testing := true, testFrom := esFailed })] } }; 0 < s.nEngs ∧ (s.eng 0).testing = true) ∧
    (up.setFld (R.ENG_STAT_STATE 0) esDrain).fld (R.ENG_STAT_STATE 0) ∉ [esIdle, esStandby, esFailed] ∧
    (up.setFld (R.ENG_STAT_STATE 0) esFailed).fld (R.ENG_STAT_STATE 0) ∈ [esStandby, esFailed] ∧
    (up.setFld (R.ENG_STAT_STATE 0) esLocked).engBase 0 = esLocked ∧ up.engBase 0 ≠ esLocked ∧ (up.eng 0).testing = false :=
  ⟨served (by decide), served (by decide), served (by decide), by decide, by decide, by decide, by decide, by decide, by decide, by decide, by decide⟩

/-- The hypotheses of FailureSigns: an engine that lives, a token and a step missing, a Fallow with a record, a buffer of the
engine in its copy. -/
theorem test_hyp_failure_signs : up.settle = up ∧ 0 < up.nEngs ∧ up.engDead 0 = false ∧ up.tokenMissing 0 = false ∧ up.stepMissing 0 = false ∧
    (let s := inRun (some 0) (some ⟨0, 0, 0, 0⟩); let t : State := { s with sward := { s.sward with step := 1, engs := [(0, { phase := 1 })] } }; t.stepMissing 0 = true ∧ t.engDead 0 = false) ∧
    (let s : State := { up with gsvs := [(0, { fallow := some 8, recs := [⟨0, 0, 0, 0, 0, 0, 0, 0, 0, 0, 0, 0, 0, 0, 0⟩] })] }; s.sward.sweep = none ∧ s.engDead 8 = false ∧ (s.gsv 0).fallow = some 8 ∧ (s.gsv 0).recs.isEmpty = false) ∧
    (let s : State := { up with bas := { copying := some ⟨⟨0, 0, 0, 0⟩, 0, 0, false, []⟩, begun := [(0, 0)] } }; s.dropsBuf ⟨⟨0, 0, 0, 0⟩, 0, 0, false, []⟩ = false ∧ ∀ r ∈ s.sward.reps, r.n ≠ 0) ∧
    (up.setFld (R.ENG_STAT_STATE 0) esFailed).engDead 0 = true ∧ up.Serves .pcie 0x150040 :=
  ⟨by decide, by decide, by decide, by decide, by decide, by decide, by decide, by decide, by decide, served (by decide)⟩
/-- FailureSigns: an engine whose token of the channel-pass is missing. -/
theorem test_hyp_token_missing : (let s := inRun (some 0) (some ⟨0, 0, 0, 0⟩)
    let t : State := { s with cfgs := [{ cfg1 with eX := 2 }], sward := { s.sward with tokens := [1], engs := [(0, { phase := 3, credit := true })] } }
    t.tokenMissing 0 = true ∧ t.engDead 0 = false) := by decide

/-- A drain buffer with the Basin. -/
def buf1 : Buf := ⟨⟨0, 0, 0, 0⟩, 0, 0, false, []⟩
/-- The hypotheses of Collection: a buffer that waits, one in its copy, one to commit, one that follows an earlier sweep, a
channel-pass to accept. -/
theorem test_hyp_collection : takeFirst [buf1] = some (buf1, []) ∧
    (let s : State := { up with bas := { copying := some buf1, begun := [(0, 0)] } }; buf1.phys < 80 ∧ buf1.phys ∉ s.bas.failed ∧ s.keyDone buf1 = false ∧ ∀ r ∈ s.sward.reps, r.n ≠ 0) ∧
    (let s : State := { up with bas := { cbs := [buf1] } }; s.commitHeld buf1 = false ∧ s.mustFollow buf1 = false ∧ s.bas.late = []) ∧
    (let s : State := { up with bas := { begun := [(0, 0)] } }; s.bas.begun.find? (fun k => s.mayAccept k) = some (0, 0)) := by decide
/-- An integration of the small configuration. -/
def int1 : IntSt := ⟨0, cfg1, 0, 1, some 0, 1, 0, 0, 0, 0, false, 0, 0⟩
/-- Four bytes spell the number they were taken from. -/
theorem leNat_leBytes4 (v : Nat) (h : v < 2 ^ 32) : leNat (leBytes 4 v) = v := by
  simp only [leBytes, leNat, BitVec.toNat_ofNat]; omega
/-- A buffer without a record is intact where it spells header, CRC and descriptors. -/
theorem intact_of (c : Cfg) (b : Buf) (h d : List Byte) (hp : c.places b.key.round b.key.pass b.logical = [])
    (hh : drainHeader c b.key b.logical b.phys 0 b.replay = h) (hd : drainDescs c b.key [] = d) (lh : h.length = 60)
    (ld : d.length = 448) (hb : b.bytes = h ++ (leBytes 4 (crc32c (h ++ d)) ++ d)) : b.intact c = true ∧ b.diagsOk c = true := by
  have l4 : ∀ v, (leBytes 4 v).length = 4 := fun v => rfl
  have e1 : b.bytes.take 60 = h := by rw [hb, ← lh, List.take_left]
  have e2 : b.bytes.drop 64 = d := by
    rw [hb, ← List.append_assoc, show 64 = (h ++ leBytes 4 (crc32c (h ++ d))).length by simp [lh, l4], List.drop_left]
  have e3 : leAt b.bytes 60 4 = crc32c (h ++ d) := by
    have : (b.bytes.drop 60).take 4 = leBytes 4 (crc32c (h ++ d)) := by
      rw [hb, ← lh, List.drop_left]; exact List.take_left' (l4 _)
    rw [leAt, sliceBytes, this]
    simp only [l4, Nat.sub_self, List.replicate_zero, List.append_nil]
    exact leNat_leBytes4 _ (BitVec.isLt _)
  simp only [Buf.intact, Buf.diagsOk, hp, e1, e2, e3]
  simp [hh, hd, List.take_of_length_le (Nat.le_of_eq ld)]
/-- A configuration without a block. -/
def cfg0 : Cfg := { cfg1 with shape := { nblk := 0 } }
/-- A buffer of it. -/
def buf0 : Buf := { buf1 with bytes := drainBuffer cfg0 buf1.key 0 0 false [] [] [] }
/-- Collection: a buffer with no record, intact and with right diagonals. -/
theorem test_hyp_intact : buf0.intact cfg0 = true ∧ buf0.diagsOk cfg0 = true := by
  refine intact_of _ _ (drainHeader cfg0 buf1.key 0 0 0 false) (drainDescs cfg0 buf1.key []) (by decide) rfl rfl ?_ ?_ ?_
  · rfl
  · exact List.length_replicate
  · simp only [buf0, drainBuffer, buf1, List.append_assoc, List.append_nil, List.length_nil]
/-- Collection: the Basin's writes that wait for the finisher, with and without a buffer; a commit that follows an earlier pass's. -/
theorem test_hyp_collect_done : ({ up with bas := { zeroLater := [(buf1.key, 0)] } } : State).finWaits = true ∧
    ({ up with bas := { ints := [int1], cbs := [buf1], zeroLater := [(buf1.key, 0)] } } : State).commitHeld buf1 = true ∧
    (let b : Buf := { buf1 with key := ⟨1, 0, 0, 0⟩ }; let s : State := { up with cfgs := [{ cfg1 with pInt := 2 }], bas := { cbs := [b], pend := [⟨0, buf1.key⟩] } };
      s.mustFollow b = true ∧ s.commitHeld b = false) := by decide
/-- Collection of the blocks of a buffer, all of them whole; and of a slice. -/
theorem test_hyp_commit : (let s : State := { up with cfgs := [cfg1], bas := { cbs := [buf1], ints := [int1], masks := [⟨buf1.key, [], [], 36⟩] } };
      s.finWaits = false ∧ buf1.replay = false ∧ s.mustFollow buf1 = false ∧ s.intOfPass 0 = some int1 ∧
      (∀ p ∈ (s.cfgOfPass 0).places 0 0 0, p.sliced = false) ∧ ((s.cfgOfPass 0).places 0 0 0).length = 36 ∧ s.bas.zeroed = []) ∧
    (let s : State := { up with bas := { slices := [⟨buf1.key, 0, 1, [(0, 0)], false⟩] } };
      s.bas.slices.find? (fun a => a.key == buf1.key && a.block == 0) = some ⟨buf1.key, 0, 1, [(0, 0)], false⟩) ∧
    stickyAdd 32 5 3 = 8 ∧ (5 : Nat) ≠ 2 ^ (32 - 1) := by decide

/-- A packet on its way, with so many body bytes written. -/
def pkt1 (n : Nat) : PktPend := ⟨64, [], [0, 0], [false], n, none, none, none, none⟩
/-- The hypotheses of PacketsAndRing: a packet that waits, one whose body is written, a voltage notice, a read pointer that may and
one that may not be taken, a ring to reset. -/
theorem test_hyp_packets : ({ up with bas := { pkt := some (pkt1 1) } } : State).bas.pkt = some (pkt1 1) ∧ (pkt1 1).count < (pkt1 1).body.length ∧
    (pkt1 2).body.length ≤ (pkt1 2).count ∧ (({ up with bas := { pkt := some (pkt1 2) } } : State).ringWrite 0 (pkt1 2).header (fun _ => false)).1 = .ok ∧
    ({ up with beam := { notices := [(0, false)] } } : State).beam.notices = [(0, false)] ∧ up.Serves .pcie 0x180094 ∧ up.Serves .pcie 0x180040 ∧
    (0 % m48 + m48 - up.fld R.BAS_RPTR) % m48 ≤ (up.fld R.BAS_WPTR + m48 - up.fld R.BAS_RPTR) % m48 ∧
    (up.fld R.BAS_WPTR + m48 - up.fld R.BAS_RPTR) % m48 < (1 % m48 + m48 - up.fld R.BAS_RPTR) % m48 ∧ up.running = false ∧
    up.bit R.BAS_STAT_FINISHING = false ∧ (inRun none none).running = true ∧ (inRun none none).Serves .pcie 0x180040 :=
  ⟨by decide, by decide, by decide, by decide, by decide, served (by decide), served (by decide), by decide, by decide, by decide, by decide,
    by decide, served (by decide)⟩
/-- PacketsAndRing: an integration with the finisher; a packet not yet written whole; a ring of one page, of which bytes go past its end. -/
theorem test_hyp_ring : (let s : State := { up with bas := { fin := [int1] } }; s.bas.fin = [int1] ∧ s.bas.pkt = none ∧ s.beam.notices = [] ∧ int1.stage = 0) ∧
    (let s : State := ({ up with bas := { pkt := some (pkt1 1) } }).setFld R.BAS_RING_SIZE 1;
      s.bas.pkt = some (pkt1 1) ∧ (pkt1 1).count < (pkt1 1).body.length ∧ 0 < s.fld R.BAS_RING_SIZE * 4096 ∧
      4095 % (s.fld R.BAS_RING_SIZE * 4096) + [(0 : Byte), 0].length ≤ 4097 ∧ s.fld R.BAS_RING_SIZE * 4096 < 4095 % (s.fld R.BAS_RING_SIZE * 4096) + [(0 : Byte), 0].length) ∧
    ({ up with bas := { pkt := some (pkt1 1) } } : State).Serves .pcie 0x180094 :=
  ⟨by decide, by decide, served (by decide)⟩

/-- The hypotheses of BeamWeights: a channel to load in a run of beams, a load in progress. -/
theorem test_hyp_weights : (let s : State := ({ up with cfgs := [{ cfg1 with eB := 1, beams := 1, nB := 64, bChans := 1 }], sward := { runs := [(0, none)] } }).setFld R.XS_STAT_RUN 1
      s.beam.free = none ∧ s.running = true ∧ s.nextBeam = some (0, 0)) ∧
    ({ up with beam := { loading := some (0, 0) } } : State).beam.loading.isSome = true ∧ up.Serves .pcie 0x1610BC :=
  ⟨by decide, by decide, served (by decide)⟩

/-- Well A and Well B in two states. -/
def wells (a b : Nat) : State := (up.setFld (R.WELL_STAT_STATE 0) a).setFld (R.WELL_STAT_STATE 1) b
/-- The hypotheses of Wells: in STANDBY, in control with and without a second Well, in TEST with and without a Well in control, a
takeback due, FAILED. -/
theorem test_hyp_wells : (wells wsControl wsStandby).fld (R.WELL_STAT_STATE 0) = wsControl ∧
    (wells wsControl wsStandby).fld (R.WELL_STAT_STATE 1) = wsStandby ∧ (wells wsControl wsFailed).fld (R.WELL_STAT_STATE 1) ≠ wsStandby ∧
    (wells wsControl wsFailed).fld (R.WELL_STAT_STATE 1) ≠ wsControl ∧ (wells wsTest wsFailed).fld (R.WELL_STAT_STATE 0) = wsTest ∧
    (wells wsTest wsFailed).wellIn = none ∧ (wells wsTest wsControl).wellIn = some 1 ∧
    ({ wells wsStandby wsControl with well := { takeback := true } } : State).well.takeback = true ∧ (wells wsStandby wsControl).well.op = none ∧
    (wells wsFailed wsStandby).fld (R.WELL_STAT_STATE 0) = wsFailed ∧ (wells wsFailed wsStandby).Serves .pcie 0x280040 ∧
    (wells wsFailed wsStandby).Serves .pcie 0x281040 :=
  ⟨by decide, by decide, by decide, by decide, by decide, by decide, by decide, by decide, by decide, by decide, served (by decide), served (by decide)⟩

/-- The hypotheses of Mailbox: BUSY, with no Well in control, with both; operations in progress that end at once, after the save and
after the test. -/
theorem test_hyp_mailbox : up.Serves .pcie 0x282044 ∧ (up.setFld R.MBX_STAT_BUSY 1).Serves .pcie 0x282044 ∧ (up.setFld R.MBX_STAT_BUSY 1).bit R.MBX_STAT_BUSY = true ∧
    up.bit R.MBX_STAT_BUSY = false ∧ up.wellIn = none ∧ (wells wsControl wsStandby).Serves .pcie 0x282044 ∧
    (wells wsControl wsStandby).wellIn.isSome = true ∧ (wells wsControl wsStandby).standbyWell = some 1 ∧ up.fld R.MBX_CMD_OPCODE ∉ [0x01, 0x02, 0x10, 0x11, 0x12, 0x20, 0x30] ∧
    (∀ o ∈ [0x01, 0x02, 0x10, 0x20, 0x40, 0x11, 0x30, 2 ^ 24 + 0x20], let s : State := { wells wsControl wsStandby with well := { op := some o, saved := some true, tested := some true } }; s.well.op = some o ∧ s.wellIn = some 0 ∧ s.well.saved.isSome = true ∧ s.well.tested.isSome = true ∧ (o < 2 ^ 24 ∨ o = 2 ^ 24 + 0x20)) ∧
    (wells wsControl wsFailed).wellIn.isSome = true ∧ (wells wsControl wsFailed).standbyWell = none :=
  ⟨served (by decide), served (by decide), by decide, by decide, by decide, served (by decide), by decide, by decide, by decide, by decide, by decide, by decide⟩
/-- A firmware image with a good signature. -/
def img1 : Img := { good := true, key := 0, version := 0, build := 0 }
/-- Mailbox, FW_STAGE: an image that passes and one that does not, whose bytes lie in a region, and in none. -/
theorem test_hyp_stage : (wells wsControl wsStandby).imgOk img1 = true ∧ (wells wsControl wsStandby).imgOk { img1 with good := false } = false ∧
    (wells wsControl wsStandby).inRegions 0 1 = false := by decide

/-- The hypotheses of DebugAndAttestation: OPEN with and without its key, with the debug path fused shut, an erase in progress. -/
theorem test_hyp_debug : up.Serves .pcie 0x340040 ∧ pathKey .pcie secPg.base ∉ up.opened ∧
    (let s : State := { up with opened := [pathKey .pcie secPg.base] }; pathKey .pcie secPg.base ∈ s.opened ∧ s.bit R.SEC_DBG_STAT_OPENED = false ∧
      s.bit R.SEC_DBG_STAT_ERASING = false ∧ s.bit R.FUSE_SEC_CFG_DBG_PERM_CLOSED = false ∧
      (s.setFld R.FUSE_SEC_CFG_DBG_PERM_CLOSED 1).bit R.FUSE_SEC_CFG_DBG_PERM_CLOSED = true) ∧
    (up.setFld R.SEC_DBG_STAT_ERASING 1).bit R.SEC_DBG_STAT_ERASING = true :=
  ⟨served (by decide), by decide, by decide, by decide⟩
/-- DebugAndAttestation: a mailbox that is served, with and without an object in error. -/
theorem test_hyp_doe : (∀ e, let s : State := { (wells wsControl wsStandby).setFld R.ST_STATE_STEP 9 with pcie := { doeErr := e } }; s.doeServed = true ∧ s.pcie.doeErr = e) ∧
    up.doeServed = false := by decide

/-- The map built over the 64 channels, and region 0 the first 64 MiB or more of each. -/
def mapped1 : State := { ((up.setFld R.MAP_STAT_MAP_CH 64).setFld (R.MAP_RGN_SLICE_CSIZE 0) 1).setFld (R.MAP_RGN_CTL_ENABLE 0) 1 with
  dram := { mapped := List.range 64 } }
/-- The hypotheses of MemoryRequestsAndScrub: an address with a place and one without, awake and asleep; a read in progress; a
tracking entry that expires; a scrub pass to start, one in progress; a soft spare with a spare row left and with none. -/
theorem test_hyp_memory : mapped1.placeOf .host 0 = some 0 ∧ up.placeOf .host 0 = none ∧ mapped1.chanAsleep 0 = false ∧
    ({ mapped1 with dram := { mapped1.dram with selfRefresh := true } } : State).chanAsleep 0 = true ∧
    (let s : State := { mapped1 with dram := { mapped1.dram with reads := [(.host, 0)] } }; s.placeOf .host 0 = some 0 ∧ (Master.host, 0 / 32) ∈ s.dram.reads) ∧
    (let s : State := { up with dram := { tracks := [(3, some ⟨0, 0, 0, 0, 0, 0⟩)] }, ticks := 2 ^ 60 }; s.track 3 = some ⟨0, 0, 0, 0, 0, 0⟩ ∧ 0 + 4 * s.scrubMin * minuteTicks ≤ s.ticks ∧ s.track 4 = none) ∧
    up.Serves .pcie 0x1C0060 ∧ up.Serves .pcie 0x1C9040 ∧ up.scrubMin ≠ 0 ∧ up.bit R.SCR_STAT_ACTIVE = false ∧ up.scrubDue = true ∧
    (up.setFld R.SCR_CFG_PERIOD_MIN 0).scrubMin = 0 ∧ (up.setFld R.SCR_CFG_PERIOD_MIN 0).Serves .pcie 0x1C9040 ∧
    (let s : State := { up with dram := { spareQ := [(0, 0, 7)] } }; s.dram.spareQ = [(0, 0, 7)] ∧ s.sparesUsed 0 0 < 4) ∧
    (let s : State := { up with dram := { spareQ := [(0, 0, 7)], spares := (List.range 4).map (fun i => ⟨0, 0, i, i⟩) } }; 4 ≤ s.sparesUsed 0 0) :=
  ⟨by decide, by decide, by decide, by decide, by decide, by decide, served (by decide), served (by decide), by decide, by decide, by decide, by decide,
    served (by decide), by decide, by decide⟩
/-- MemoryRequestsAndScrub: a channel in its retraining; a write of a good word, and a failed read with nothing left of it. -/
theorem test_hyp_requests : (let s : State := { mapped1 with dram := { mapped1.dram with retraining := [0] } }; s.placeOf .host 0 = some 0 ∧ placeChan 0 = 0 ∧
      0 ∈ s.dram.retraining ∧ s.chanRetired 0 = false) ∧
    mapped1.bit R.MAP_STAT_FILL_BUSY = false ∧ mapped1.inRegions 0 1 = true ∧ (mapped1.rgnOf 0 = some (0, 0)) ∧
    (let s : State := { mapped1 with dram := { mapped1.dram with reads := [(.host, 0)], cells := (List.range 32).map (fun i => ⟨i, 1⟩) } };
      s.blankWord 0 = false ∧ (Master.host, 0) ∉ s.dram.failed ∧ 0 ∉ s.dram.wfaults) := by decide
/-- The scrubber in a pass over the first rows. -/
def scrubbing : State := ((mapped1.setFld (R.MAP_RGN_CTL_SCRUB 0) 1).setFld R.SCR_STAT_ACTIVE 1).setFld (R.MC_STAT_ACTIVE 0) 1
/-- MemoryRequestsAndScrub, SCRUB_READ: the next word of a pass, and one that is not. -/
theorem test_hyp_scrub : scrubbing.scrubNext none = some (0, 0, 0) ∧ scrubbing.bit R.SCR_STAT_ACTIVE = true ∧ scrubbing.dram.selfRefresh = false ∧
    rowIndex (mkPlace 0 0 0 0) = 0 ∧ scrubbing.scrubNext (some (0, 0, 5)) = some (0, 0, 6) := by decide

/-- The hypotheses of MapCommands: a region disabled and enabled, an enable that is refused and one that is not, a remap and a fill
that start, and those in progress. -/
theorem test_hyp_map : (∀ r < 7, up.bit (R.MAP_RGN_CTL_ENABLE r) = false) ∧ up.Serves .pcie 0x1C8088 ∧ up.Serves .pcie 0x1C80E8 ∧ up.Serves .pcie 0x1C80EC ∧
    up.Serves .pcie 0x1C80F0 ∧ up.Serves .pcie 0x1C8040 ∧ mapped1.Serves .pcie 0x1C8088 ∧ mapped1.bit (R.MAP_RGN_CTL_ENABLE 0) = true ∧
    5 % 4096 ≠ mapped1.fld (R.MAP_RGN_SLICE_CBASE 0) ∧ (4 : Nat) / 4 % 2 = 1 ∧ (up.rgnRefused 6).isSome = true ∧
    (up.setFld (R.MAP_RGN_SLICE_CSIZE 0) 1).rgnRefused 0 = none ∧
    up.bit R.MAP_CTL_REMAP = false ∧ up.running = false ∧ up.dmaIdle = true ∧ up.bit R.BAS_STAT_FINISHING = false ∧ up.bit R.MAP_STAT_FILL_BUSY = false ∧
    (up.setFld R.MAP_STAT_REMAP_BUSY 1).bit R.MAP_STAT_REMAP_BUSY = true ∧ mapped1.Serves .pcie 0x1C8040 ∧ mapped1.bit R.MAP_CTL_FILL = false ∧
    mapped1.bit R.MAP_STAT_REMAP_BUSY = false ∧ (up.setFld R.MAP_STAT_FILL_BUSY 1).bit R.MAP_STAT_FILL_BUSY = true ∧ up.dram.fillRgn < 8 :=
  ⟨by decide, served (by decide), served (by decide), served (by decide), served (by decide), served (by decide), served (by decide), by decide,
    by decide, by decide, by decide, by decide, by decide, by decide, by decide, by decide, by decide, by decide, served (by decide), by decide,
    by decide, by decide, by decide⟩
/-- MapCommands: a remap of fewer channels than are mapped, and bits of a region's place. -/
theorem test_hyp_remap : (let s := (up.setFld R.MAP_STAT_REMAP_BUSY 1).setFld R.MAP_STAT_MAP_CH 64; s.fld R.MAP_STAT_ACT_CH < s.fld R.MAP_STAT_MAP_CH) ∧
    (up.setFld (R.MAP_RGN_CTL_ORDER 0) 1).rgnOrder 0 ≠ 2 ∧ 0 ∈ mapped1.rgnChans 0 ∧ mapped1.chanRetired 0 = false := by decide

/-- The hypotheses of RefreshAndRetraining: a multiplier that waits, a retrain that may start and one that waits, a manual one, a
channel to retire and one that is retired, a retrain in progress. -/
theorem test_hyp_refresh : (let s : State := { up with dram := { nextMult := [(0, some 2)] } }; 0 < s.nStacks ∧ s.dram.nextMult.get none 0 = some 2) ∧
    (up.setFld R.MAP_CFG_RT_EN 1).bit R.MAP_CFG_RT_EN = true ∧ up.dram.retraining = [] ∧
    (let s := up.setFld R.MAP_CFG_RT_EN 1; s.chanAsleep 0 = false ∧ s.chanRetired 0 = false) ∧
    up.Serves .pcie 0x1C0040 ∧ up.bit (R.MC_CTL_RETRAIN 0) = false ∧ (up.setFld R.MAP_RETIRED 32).chanRetired 5 = true ∧
    (0 ∈ ({ up with dram := { retraining := [0] } } : State).dram.retraining) ∧ up.dram.manual = [] ∧ up.dram.retrainDue = false :=
  ⟨by decide, by decide, by decide, by decide, served (by decide), by decide, by decide, by decide, by decide, by decide⟩
/-- RefreshAndRetraining: the timer due and not due, with a channel to train and with none; a channel with one held request. -/
theorem test_hyp_timer : (let s : State := (({ mapped1 with dram := { mapped1.dram with rtLast := some 0 }, ticks := 2 ^ 60 }).setFld R.MAP_CFG_RT_EN 1).setFld (R.MC_STAT_ACTIVE 0) 1;
      s.rtDue = true ∧ s.bit R.MAP_CFG_RT_EN = true ∧ s.nextRetrain.isSome = true) ∧
    ({ up with dram := { rtLast := some 0 } } : State).rtDue = false ∧
    (let q : DramReq := ⟨.pool, 0, true, 1, [7], 0, 0⟩; let s : State := { mapped1 with dram := { mapped1.dram with retraining := [0], held := [(0, q)] } };
      s.dram.held.filter (fun x => decide (x.1 = 0)) = [(0, q)] ∧ s.placeOf q.master q.addr = some 0 ∧ q.failures < 3 ∧ placeChan 0 = 0 ∧ s.chanRetired 0 = false) := by decide

/-- Channel 0 in a state. -/
def dmaIn (st : Nat) (c : DmaCh) : State := (up.setFld (R.DMACH_STAT_STATE 0) st).setDmaCh 0 c
/-- The hypotheses of DmaChannels: idle, running, done; a program whose address is aligned and one whose is not; a MOVE with and
without reads in progress; a fetch; an illegal instruction. -/
theorem test_hyp_dma_channels : (dmaIn csIdle {}).Serves .pcie 0x201040 ∧ (dmaIn csRunning {}).Serves .pcie 0x201040 ∧ (dmaIn csDone {}).Serves .pcie 0x201040 ∧
    (dmaIn csIdle {}).fld (R.DMACH_STAT_STATE 0) ∉ [csRunning, csWaiting, csStopping] ∧ (dmaIn csRunning {}).fld (R.DMACH_STAT_STATE 0) ∈ [csRunning, csWaiting] ∧
    (dmaIn csDone {}).fld (R.DMACH_STAT_STATE 0) ∈ [csDone, csStopped, csError] ∧ up.fld (R.DMACH_PROG_ADDR 0) % 32 = 0 ∧
    up.fld (R.DMACH_CFG_PROG_SPACE 0) ≠ 3 ∧ (up.setFld (R.DMACH_PROG_ADDR 0) 8).fld (R.DMACH_PROG_ADDR 0) % 32 ≠ 0 ∧
    (up.setFld (R.DMACH_CFG_PROG_SPACE 0) 3).fld (R.DMACH_CFG_PROG_SPACE 0) = 3 ∧
    (let b : Burst := ⟨0, 64, 0, 0, false⟩; ((dmaIn csRunning { move := some ⟨[], [b], [], 0, [], false, false, false, [], 0, 0⟩ }).dmaCh 0).move =
      some ⟨[], [b], [], 0, [], false, false, false, [], 0, 0⟩) ∧ up.Serves .pcie 0x200040 ∧
    (∀ e ∈ ((dmaIn csRunning {}).dmaCh 0).buf, e.1 ≠ (dmaIn csRunning {}).fld (R.DMACH_PC 0) + 32 * 0) ∧
    (dmaIn csRunning { buf := [(0, [9])] }).dmaFetched 0 = some [9] ∧ instrOk [9] = false :=
  ⟨served (by decide), served (by decide), served (by decide), by decide, by decide, by decide, by decide, by decide, by decide, by decide, by decide,
    served (by decide), by decide, by decide, by decide⟩

/-- A channel with an instruction at PC: its first bytes, the others zero. -/
def instr1 (bs : List Byte) : State := dmaIn csRunning { buf := [(0, bs ++ List.replicate (32 - bs.length) 0)] }
/-- The hypotheses of DmaInstructions: a MOVE of 64 bytes from DRAM to DRAM that may run, one from space 3; a LOOP; a WAIT of each kind
of space; a SIGNAL that only ends; a WAIT in progress. -/
theorem test_hyp_dma_instr : ((instr1 [1, 0, 0, 0, 64]).dmaInstr 0 1).isSome = true ∧ ((instr1 [1, 3]).dmaInstr 0 1).isSome = true ∧
    ((instr1 [1, 0, 0, 0, 64]).ringUnset 0 0 || (instr1 [1, 0, 0, 0, 64]).ringUnset 0 0) = false ∧
    ((instr1 [2, 0, 0, 0, 3, 0, 0, 0, 2]).dmaInstr 0 2).isSome = true ∧ ((instr1 [3, 1]).dmaInstr 0 3).isSome = true ∧
    ((instr1 [3, 4]).dmaInstr 0 3).isSome = true ∧ ((instr1 [4, 1]).dmaInstr 0 4).isSome = true ∧
    sigWrite ([4, 1] ++ List.replicate 30 0) = false ∧ sigCrc ([4, 1] ++ List.replicate 30 0) = false ∧ sigFlush ([4, 1] ++ List.replicate 30 0) = false ∧
    ((instr1 [1]).dmaCh 0).late = false ∧ ((instr1 [1]).dmaCh 0).loops = [] ∧
    ((dmaIn csWaiting { buf := [(0, [3, 1])], waited := some 0 }).waitingOn 0 = some ([3, 1], 0)) := by decide
/-- SIGNALs with one action: a word written to DRAM and to HOST, the CRC stored in DRAM, a flush of HOST; a MOVE that overlaps. -/
theorem test_hyp_dma_signal : (let b : List Byte := [4, 4] ++ List.replicate 30 0; sigWrite b = true ∧ sigCrc b = false ∧ sigFlush b = false ∧ sigWSpace b = 0) ∧
    (let b : List Byte := [4, 4, 1] ++ List.replicate 29 0; sigWrite b = true ∧ sigCrc b = false ∧ sigFlush b = false ∧ sigWSpace b = 1) ∧
    (let b : List Byte := [4, 16] ++ List.replicate 30 0; sigWrite b = false ∧ sigCrc b = true ∧ sigFlush b = false ∧ sigCSpace b = 0) ∧
    (let b : List Byte := [4, 64] ++ List.replicate 30 0; sigFlush b = true ∧ sigBadSpace b = false ∧ (instr1 [4, 64]).sigNoRing 0 b = false) ∧
    segsShare [(0, 0, 64)] [(0, 32, 64)] = true ∧ segsShare [(0, 0, 64)] [(0, 64, 64)] = false := by decide

/-- The hypotheses of DmaBursts: a burst to grant, a read from HOST in progress, a failed write, a legal request at a target port of
registers and of a controller. -/
theorem test_hyp_dma_bursts : (let b : Burst := ⟨0, 64, 0, 0, false⟩; (dmaIn csRunning { move := some ⟨[b], [], [(1, 0, 64)], 0, [], false, false, false, [], 0, 0⟩ }).grantChoice = some (0, 1) ∧
      (dmaIn csRunning { move := some ⟨[], [b], [(1, 0, 64)], 0, [], false, false, false, [], 0, 0⟩ }).oldestRead 0 =
        some (⟨[], [b], [(1, 0, 64)], 0, [], false, false, false, [], 0, 0⟩, b, []) ∧
      ({ b with space := 1 } : Burst).fromHost = true) ∧
    ((dmaIn csRunning { werrs := [⟨0, 0, 0, 2, false⟩] }).dmaCh 0).werrs = [⟨0, 0, 0, 2, false⟩] ∧ up.domOn 19 = true ∧
    up.mxKind 8 ⟨.host, 0, 0, false, 0⟩ = .legal ∧ mapped1.mxKind 0 ⟨.host, 0, 0, false, 0⟩ = .legal := by decide
/-- DmaBursts: the link up with bus mastering, a burst that closes its move, and one of HOST; timeouts disabled. -/
theorem test_hyp_dma_host : (let s : State := { dmaIn csRunning { move := some ⟨[], [⟨1, 64, 0, 0, false⟩], [(0, 0, 64)], 0, [], false, false, false, [], 0, 0⟩ } with
      pcie := { up := true, bme := true } }; s.pcie.up = true ∧ s.pcie.bme = true ∧ s.pcie.noTimeout = false ∧ (s.dmaCh 0).flush = 0 ∧ (s.oldestRead 0).isSome = true) ∧
    cutLen 0 0 64 = 64 ∧ (dmaIn csRunning { flush := 1 }).dmaCh 0 = { flush := 1 } := by decide

/-- The hypotheses of ManagementPort: hung and not hung, addresses on both sides of the space, served, blocked and unmapped. -/
theorem test_hyp_mspi : (up.setFld R.MX_STAT_MSPI_HUNG 1).bit R.MX_STAT_MSPI_HUNG = true ∧ up.bit R.MX_STAT_MSPI_HUNG = false ∧ 2 ^ 26 ≤ (2 ^ 26 : Nat) ∧
    up.gate 0x2048 = .served ∧ (up.setFld R.PWR_DOM_STAT_ON 1).gate 0xA0064 = .blocked ∧ up.gate 0x3FFFFFC = .unmapped := by decide
/-- ManagementPort: after bring-up's first step, not hung; and before it. -/
theorem test_hyp_mspi_step : (up.setFld R.ST_STATE_STEP 9).fld R.ST_STATE_STEP ≠ 0 ∧ (up.setFld R.ST_STATE_STEP 9).bit R.MX_STAT_MSPI_HUNG = false ∧
    (up.setFld R.ST_STATE_STEP 9).gate 0x2048 = .served ∧ (up.setFld R.ST_STATE_STEP 0).fld R.ST_STATE_STEP = 0 := by decide

/-- The hypotheses of PciFunction: PERST# released and asserted, the restore made, the link up and down. -/
theorem test_hyp_pci : up.pcie.perst = false ∧ ({ up with pcie := { perst := true } } : State).pcie.perst = true ∧ up.pcie.restored = false ∧
    ({ up with pcie := { restored := true, up := true } } : State).pcie.up = true ∧ 4 ≤ (up.setFld R.ST_STATE_STEP 9).fld R.ST_STATE_STEP ∧
    up.fld R.ST_STATE_STEP < 4 ∧ up.bit (R.PG_ERR_CODE_VALID pciePg) = false := by decide
/-- PciFunction: fields of Device Control 3 for L0p to four lanes, a DOE mailbox that is served, full, and in error. -/
theorem test_hyp_pci_fields : (0x28 : Nat).testBit 3 = true ∧ 0x28 / 16 % 8 = 2 ∧
    (let s : State := { (wells wsControl wsStandby).setFld R.ST_STATE_STEP 9 with pcie := { restored := true, doe := List.replicate 1024 0 } };
      s.doeServed = true ∧ s.pcie.doeErr = false ∧ s.pcie.doe.length = 1024) ∧ (let s : State := { up with pcie := { doeErr := true } }; s.pcie.doeErr = true) :=
  ⟨by decide, by decide, ⟨by decide, by decide, List.length_replicate⟩, by decide⟩

/-- The hypotheses of BarTwoWindow: an aligned word with a place that lies in no region 7 and in no retired channel. -/
theorem test_hyp_bar2 : mapped1.pcie.perst = false ∧ mapped1.pcie.d3hot = false ∧ mapped1.domOn 19 = true ∧
    mapped1.fld R.PCIE_WIN_BASE_BASE * 2 ^ 30 + 0 = 0 ∧ mapped1.placeOf .host 0 = some 0 ∧ mapped1.rgnOf 0 = some (0, 0) ∧
    mapped1.chanRetired (placeChan 0) = false ∧ (up.setFld R.PWR_DOM_STAT_ON 1).domOn 19 = false ∧
    ({ up with pcie := { d3hot := true, up := true } } : State).pcie.d3hot = true := by decide
/-- BarTwoWindow: a write that is refused, to an address in no region. -/
theorem test_hyp_bar2_refused : ((up.mxMem .host 0 4).writeDram .host 0 [0, 0, 0, 0]).1.refused = true ∨ up.placeOf .host 0 = none := by decide

/-- The hypotheses of TarnReferences: a reference that may qualify, a switch with and without its build-out, ACQUIRE, OSC_IN lost
and back. -/
theorem test_hyp_references : (let s := (up.setFld (R.TRN1_REF_CFG_QL_OVR 0) 1).setFld (R.TRN1_REF_CFG_QL_VAL 0) 1; s.detect 0 (tenMhz + 1000) ≠ 0 ∧
      (pptOf (s.detect 0 (tenMhz + 1000)) (tenMhz + 1000)).natAbs ≤ 1000 * s.qualWin ∧ s.refNominal 0 (tenMhz + 1000) ≠ 0 ∧
      s.bit (R.TRN1_REF_CFG_DISABLE 0) = false ∧ s.bit (R.TRN1_REF_CFG_PPS_REQ 0) = false ∧
      s.bit (R.TRN1_REF_CFG_QL_OVR 0) = true ∧ s.fld (R.TRN1_REF_CFG_QL_VAL 0) ≠ 0 ∧ (s.setFld R.TRN0_STAT_ACTIVE 7).fld R.TRN0_STAT_ACTIVE ≠ 0) ∧
    ({ up with tarn := { switch := some (0, 1) } } : State).tarn.built = false ∧ ({ up with tarn := { switch := some (0, 1), built := true } } : State).tarn.built = true ∧
    (up.setFld R.TRN0_STAT_STATE tsAcquire).fld R.TRN0_STAT_STATE = tsAcquire ∧ (up.setFld R.TRN0_STAT_OSC_LOST 1).bit R.TRN0_STAT_OSC_LOST = true ∧
    up.bit R.TRN0_STAT_OSC_LOST = false ∧ 5 ∉ up.tune.faults ∧
    ({ up with tarn := { oscBack := true } } : State).tarn.oscBack = true := by decide
/-- TarnReferences: a switch to the reference that is lost. -/
theorem test_hyp_switch_lost : ({ up with tarn := { switch := some (0, 1) } } : State).tarn.switch = some (0, 1) := by decide

/-- The hypotheses of TarnLoopAndTune: each state of the loop, an hour in LOCKED, a slew, faults, a range change. -/
theorem test_hyp_loop : (∀ st ∈ [tsFreerun, tsAcquire, tsLocked, tsHoldover], (up.setFld R.TRN0_STAT_STATE st).fld R.TRN0_STAT_STATE = st) ∧
    ({ up with tarn := { built := true, acquiring := true } } : State).tarn.built = true ∧
    up.settleMs ≤ ({ up with tarn := { inBounds := 2 ^ 32 } } : State).tarn.inBounds + 1 ∧ 0 + 1 < up.settleMs ∧
    3600000 ≤ ({ up with tarn := { saveMs := 3600000 } } : State).tarn.saveMs ∧ up.Serves .pcie 0x10040 ∧ up.Serves .pcie 0x10054 ∧
    (up.setFld R.TRN0_STAT_HOLD_VALID 1).Serves .pcie 0x10040 ∧ (up.setFld R.TRN0_STAT_HOLD_VALID 1).bit R.TRN0_STAT_HOLD_VALID = true ∧
    (let s : State := { up with tune := { faults := [3] } }; 3 ∈ s.tune.faults ∧ s.tune.faults.filter (· != 3) = []) ∧
    up.Serves .pcie 0x15048 ∧ up.Serves .pcie 0x15040 ∧ (up.setFld R.TUNE_CFG_SRC 1).bit R.TUNE_CFG_SRC = true ∧
    (up.setFld R.TUNE_CFG_SRC 1).Serves .pcie 0x15048 ∧ up.bit R.TUNE_STAT_FAULT = false ∧ up.bit R.TUNE_STAT_RANGING = false ∧
    (up.setFld R.TUNE_STAT_RANGING 1).bit R.TUNE_STAT_RANGING = true ∧ ({ up with tune := { waits := false } } : State).tune.waits = false :=
  ⟨by decide, by decide, by decide, by decide, by decide, served (by decide), served (by decide), served (by decide), by decide, by decide,
    served (by decide), served (by decide), by decide, served (by decide), by decide, by decide, by decide, by decide⟩
/-- TarnLoopAndTune: HOLDOVER with a step to work off, before and while it slews; LOCKED with a held code. -/
theorem test_hyp_slew : (∀ b, let s : State := { (up.setFld R.TRN0_STAT_STATE tsHoldover).setFld R.TRN0_PSTEP_REM_PS 5 with tarn := { slewing := b } };
      s.fld R.TRN0_STAT_STATE = tsHoldover ∧ s.sfld R.TRN0_PSTEP_REM_PS ≠ 0 ∧ s.tarn.slewing = b) ∧ up.sfld R.TRN0_PSTEP_REM_PS = 0 ∧
    (let s := (up.setFld R.TRN0_STAT_STATE tsLocked).setFld R.TRN0_STAT_HOLD_VALID 1; s.fld R.TRN0_STAT_STATE = tsLocked ∧ s.bit R.TRN0_STAT_HOLD_VALID = true) := by decide

/-- The hypotheses of TimeOfDay: a second that ends in the frame, a realign due, a load and an align that wait, a comparator whose
time has come. -/
theorem test_hyp_tod : (let s : State := { up.setFld R.ST_STATE_STEP 9 with tod := { half := secHalf - 1 } }; s.gridOn = true ∧ s.tod.half < secHalf ∧
      s.tod.ahead + (secHalf - s.tod.half) ≤ frameHalf) ∧
    up.Serves .pcie 0x1404C ∧ up.Serves .pcie 0x12040 ∧ up.Serves .pcie 0x14040 ∧ up.running = false ∧ (inRun none none).running = true ∧
    (inRun none none).Serves .pcie 0x12040 ∧
    (let s : State := { up.setFld R.ST_STATE_STEP 9 with tarn := { realign := true } }; s.tarn.realign = true ∧ s.gridOn = true ∧ s.tod.half = 0 ∧
      s.tod.sec % max 1 (s.fld R.TRN2_ALIGN_MOD_SECONDS) = 0) ∧
    up.ppsEdge 0 ≤ 0 ∧ (-up.ppsEdge 0).toNat < secHalf ∧ 0 < up.ppsEdge 1250 ∧ up.ppsEdge 1249 = 0 ∧
    (up.setFld R.TRN0_STAT_ACTIVE 1).fld R.TRN0_STAT_ACTIVE < 2 ∧ (up.setFld R.TRN0_STAT_ACTIVE 2).fld R.TRN0_STAT_ACTIVE = 2 ∧
    (up.setFld R.TOD_STAT_PEND 1).bit R.TOD_STAT_PEND = true ∧
    (let s := up.setFld (R.TOD_CMP_CTL_ARM 1) 1; s.bit (R.TOD_CMP_CTL_ARM 1) = true ∧ 0 ≤ seqDiff 64 s.todComposite (s.fld (R.TOD_CMP_TGT_C 1))) :=
  ⟨by decide, served (by decide), served (by decide), served (by decide), by decide, by decide, served (by decide), by decide, by decide, by decide,
    by decide, by decide, by decide, by decide, by decide, by decide⟩

/-- The hypotheses of DomainsAndStates: a mask with an absent domain, in ACTIVE and out of it, a switch and transitions in progress,
that may and may not end. -/
theorem test_hyp_domains : (let s := up.setFld R.ST_STATE_DEV_STATE 0; s.Serves .pcie 0x2048 ∧ s.Serves .pcie 0x2040) ∧
    (up.setFld R.ST_STATE_DEV_STATE 0).fld R.ST_STATE_DEV_STATE = 0 ∧ up.fld R.ST_STATE_DEV_STATE ≠ 0 ∧ (up.setFld R.ST_STATE_DEV_STATE 0).quiet = true ∧
    up.quiet = false ∧ (∀ d < 20, up.domRefused d = false) ∧ (inRun none none).domRefused 7 = true ∧
    ({ up with pwr := { up.pwr with target := some 0xFFFFF } } : State).pwr.target = some 0xFFFFF ∧
    (∀ n < 3, ({ (up.setFld R.ST_STATE_DEV_STATE (if n = 0 then 2 else 0)) with pwr := { up.pwr with trans := some n } } : State).transReady n = true) ∧
    ({ up.setLink 0 { dormWait := true } with pwr := { up.pwr with trans := some 1 } } : State).transReady 1 = false :=
  ⟨⟨served (by decide), served (by decide)⟩, by decide, by decide, by decide, by decide, by decide, by decide, by decide, by decide, by decide⟩
/-- DomainsAndStates: GO_ACTIVE from IDLE with a link to wake, and a domain that the state allows. -/
theorem test_hyp_wake : (let s := up.setFld R.ST_STATE_DEV_STATE 1; s.fld R.ST_STATE_DEV_STATE = 1 ∧ s.pwr.trans = none) ∧
    (up.setFld R.ST_STATE_DEV_STATE 0).domAllowed 0xFFFFF = 0xFFFFF := by decide

/-- The hypotheses of ResetsAndBringup: a bring-up that goes on, at each step, and one that waits. -/
theorem test_hyp_resets : State.reset.pcie.perst = false ∧ up.bringupWaits = true ∧
    (∀ n < 9, (State.reset.setFld R.ST_STATE_STEP n).bringupWaits = false ∧ (State.reset.setFld R.ST_STATE_STEP n).fld R.ST_STATE_STEP + 1 ≤ 9) := by decide

/-- The hypotheses of RecordAndVoltage: a save to begin and one in progress, a setpoint not acknowledged, needs above and below the
setpoint. -/
theorem test_hyp_record : up.Serves .pcie 0x380040 ∧ (let s := (wells wsControl wsStandby).setFld R.NVR_STAT_DIRTY 1; s.bit R.NVR_STAT_DIRTY = true ∧ s.bit R.NVR_STAT_BUSY = false ∧ s.wellIn ≠ none ∧ s.newerBank = none) ∧
    ({ up with flash := { up.flash with saving := some (1, []) } } : State).flash.saving = some (1, []) ∧
    (let s : State := { up with pwr := { up.pwr with avsOpen := true } }; s.pwr.avsOpen = true) ∧ up.pwr.avsOpen = false ∧ up.savePending = false ∧
    (up.setFld R.NVR_STAT_BUSY 1).Serves .pcie 0x380040 ∧ (up.setFld R.NVR_STAT_BUSY 1).savePending = true ∧
    (let s : State := { wells wsControl wsStandby with pwr := { up.pwr with avsSent := 750, avsAcked := 750, avsLowered := none } }; s.pwr.avsAcked ≤ max 700 (min 800 ((790 + 4) / 5 * 5)) ∧ max 700 (min 800 ((720 + 4) / 5 * 5)) < s.pwr.avsAcked ∧ s.mayLower = true) ∧
    ({ up with pwr := { up.pwr with avsLowered := some 0 } } : State).mayLower = false :=
  ⟨served (by decide), by decide, by decide, by decide, by decide, by decide, served (by decide), by decide, by decide, by decide⟩

/-- An event to record. -/
def ev1 : Ev := ⟨1, 0, none, 0, 0, 0, 0, none⟩
/-- The hypotheses of AccountsAndEvents: a check that may start, one in progress, identities that hold and one that does not, an
event with a slot and without, a spill due, a read pointer that may and one that may not be taken. -/
theorem test_hyp_accounts : up.Serves .pcie 0x2C0040 ∧ up.Serves .pcie 0x300050 ∧ (up.setFld R.ACC_STAT_FROZEN 1).Serves .pcie 0x2C0040 ∧
    (up.setFld R.ACC_STAT_FROZEN 1).bit R.ACC_STAT_FROZEN = true ∧ up.snap.broken = false ∧ (up.setFld R.ACC_STAT_CHECK_BUSY 1).bit R.ACC_STAT_CHECK_BUSY = true ∧
    ({ up.setFld R.ACC_STAT_CHECK_BUSY 1 with snap := { broken := true } } : State).snap.broken = true ∧
    up.identHolds 2 0 = true ∧ (up.setFld R.ARR_IN 1).identHolds 2 0 = false ∧
    ({ up with evq := [ev1] } : State).evq = [ev1] ∧ up.slotFree = true ∧ (up.setFld R.EVT_WPTR_SEQ 4096).slotFree = false ∧
    (let s := ((wells wsControl wsStandby).setFld R.EVT_CFG_SPILL_EN 1).setFld R.EVT_WPTR_SEQ 4000; s.wellIn ≠ none ∧ s.bit R.EVT_CFG_SPILL_EN = true ∧
      max 256 (s.fld R.EVT_SPILL_THR_ENTRIES) ≤ (s.fld R.EVT_WPTR_SEQ + 2 ^ 32 - s.fld R.EVT_SPILL_HEAD_SEQ) % 2 ^ 32) ∧
    (up.fld R.EVT_WPTR_SEQ + 2 ^ 32 - up.fld R.EVT_RPTR_SEQ) % 2 ^ 32 < (1 % 2 ^ 32 + 2 ^ 32 - up.fld R.EVT_RPTR_SEQ) % 2 ^ 32 :=
  ⟨served (by decide), served (by decide), served (by decide), by decide, by decide, by decide, by decide, by decide, by decide, by decide, by decide,
    by decide, by decide, by decide⟩

set_option maxRecDepth 20000 in
/-- A word as CheckBytesGiveCodeWord takes it, and its check bytes. -/
theorem test_hyp_check_bytes : (List.replicate 32 (1 : Byte)).length = 32 ∧
    syndromes (List.replicate 32 1 ++ checkBytes (List.replicate 32 1)) = [0, 0, 0, 0] := by decide

/-- A lane that precodes, and one that undoes it: the hypotheses of PamSymbols. -/
theorem test_hyp_pam_symbols : ((up.setLane 0 { txPrecode := true }).lane 0).txPrecode = true
    ∧ (up.setBit (R.SLK_STAT_PRECODE_ON 0) true).bit (R.SLK_STAT_PRECODE_ON 0) = true
    ∧ (up.lane 0).txPrecode = false ∧ up.bit (R.SLK_STAT_PRECODE_ON 0) = false := by decide
/-- R49 by hand: levels 3, 1, 0 after symbol 2 are sent as 1, 0, 0. -/
theorem test_precode : precode 2 [3, 1, 0] = [1, 0, 0] := by decide

/-- The hypotheses of CommandWrites: a served command register, region register, ring pointer, plain register of TRN1, and
page of the Basin. -/
theorem test_hyp_command_writes_1 : up.Serves .pcie 0x60040 ∧ pageAt 0x60040 = some ⟨.lnk, 0⟩ ∧
    (∃ b r, regRow .lnk 0x40 = some (b, r) ∧ r.pair = false ∧ b + r.off = 0x40 ∧ (command .pcie ⟨.lnk, 0⟩ 0x40 4).isSome = true) ∧
    up.shadowHeld ⟨.lnk, 0⟩ 0x40 = false ∧ up.cfgHeld ⟨.lnk, 0⟩ 0x40 = false :=
  ⟨⟨by decide, by decide⟩, by decide, ⟨_, _, rfl, rfl, rfl, rfl⟩, by decide, by decide⟩
theorem test_hyp_command_writes_2 : up.Serves .pcie 0x1C8080 ∧ up.Serves .pcie 0x180090 ∧ up.Serves .pcie 0x180094 ∧
    (up.stageLo .pcie 0x180090 64).stagedLo .pcie 0x180090 = some 64 ∧ (up.stageLo .pcie 0x180090 64).Serves .pcie 0x180094 :=
  ⟨⟨by decide, by decide⟩, ⟨by decide, by decide⟩, ⟨by decide, by decide⟩, by decide, ⟨by decide, by decide⟩⟩
theorem test_hyp_command_writes_3 : up.Serves .pcie 0x11040 ∧ (∃ b r, regRow .trn1 0x40 = some (b, r) ∧ r.pair = false ∧
    b + r.off = 0x40 ∧ (command .pcie ⟨.trn1, 0⟩ 0x40 0).isNone = true ∧ (r.fields.map (·.lo)).Nodup ∧ ∀ x ∈ r.fields, x.lo < 64) ∧
    up.Serves .pcie 0x180008 ∧ up.Serves .pcie 0x282008 :=
  ⟨⟨by decide, by decide⟩, ⟨_, _, rfl, rfl, rfl, rfl, by decide, by decide⟩, ⟨by decide, by decide⟩, ⟨by decide, by decide⟩⟩

end Sys2Proof.Tests
end

section
/-! Proofs about the sample link: a tile in progress that is cut (R72), and STRAY_CONTROL_BLOCK (R58). -/

namespace Sys2Proof.Machine

/-! ### A link's record -/

/-- A link's record just written. -/
@[simp] theorem State.link_setLink_same (s : State) (j : Nat) (l : LinkSt) : (s.setLink j l).link j = l :=
  SMap.get_put_same _ _ _ _

/-- A counter's advance leaves every link's record. -/
@[simp] theorem State.addFld_link (s : State) (f : Fld) (n j : Nat) : (s.addFld f n).link j = s.link j := rfl

/-- A link's record lies outside every frame. -/
theorem Frame.setLink {s t : State} {reg win : Nat → Prop} (h : Frame s t reg win) (j : Nat) (l : LinkSt) :
    Frame s (t.setLink j l) reg win :=
  h.same rfl rfl rfl rfl

/-! ### A tile dropped unreadable (R73) -/

/-- The registers see a tile dropped unreadable as its drop counter's advance. -/
@[simp] theorem State.fld_dropUnread (s : State) (j : Nat) (ctr f : Fld) :
    (s.dropUnread j ctr).fld f = (s.addFld ctr 1).fld f := rfl

/-- The link's record counts one more unreadable tile. -/
@[simp] theorem State.link_dropUnread_same (s : State) (j : Nat) (ctr : Fld) :
    (s.dropUnread j ctr).link j = { s.link j with unread := (s.link j).unread + 1 } := by
  simp [State.dropUnread]

theorem Frame.dropUnread {s t : State} {reg win : Nat → Prop} (h : Frame s t reg win) (j : Nat) {ctr : Fld} (hc : reg ctr.key) :
    Frame s (t.dropUnread j ctr) reg win :=
  (h.addFld 1 hc).setLink j _

/-! ### A tile in progress is cut (R72) -/

section
variable {s : State} {j : Nat}

/-- Where no tile is in progress, nothing is cut. -/
theorem State.cutTile_of_not_inTile (h : (s.link j).rx.inTile = false) (ctr : Fld) : s.cutTile j ctr = s := by
  simp [State.cutTile, h]

/-- A tile in progress that is cut leaves the stream, counts in RX_TILES, and is dropped unreadable. -/
theorem State.cutTile_of_inTile (h : (s.link j).rx.inTile = true) (ctr : Fld) :
    s.cutTile j ctr = ((s.setLink j { s.link j with
      rx := { (s.link j).rx with words := [], inTile := false, elasticNow := false } }).addFld (R.LNK_RX_TILES j) 1).dropUnread j ctr := by
  simp [State.cutTile, h]

/-- The record of a link whose tile in progress is cut. -/
theorem State.link_cutTile_same (h : (s.link j).rx.inTile = true) (ctr : Fld) :
    (s.cutTile j ctr).link j = { s.link j with
      rx := { (s.link j).rx with words := [], inTile := false, elasticNow := false }
      unread := (s.link j).unread + 1 } := by
  rw [State.cutTile_of_inTile h, State.link_dropUnread_same, State.addFld_link, State.link_setLink_same]

/-- A cut tile counts once in RX_TILES. -/
theorem State.fld_cutTile_rxTiles (h : (s.link j).rx.inTile = true) {ctr : Fld} (hc : ctr.key ≠ (R.LNK_RX_TILES j).key) :
    (s.cutTile j ctr).fld (R.LNK_RX_TILES j) = (s.fld (R.LNK_RX_TILES j) + 1) % 2 ^ (R.LNK_RX_TILES j).w := by
  rw [State.cutTile_of_inTile h, State.fld_dropUnread, State.fld_addFld_ne _ _ hc.symm, State.fld_addFld_same, State.setLink_fld]

/-- A cut tile counts once in the drop counter of its cause. -/
theorem State.fld_cutTile_ctr (h : (s.link j).rx.inTile = true) {ctr : Fld} (hc : ctr.key ≠ (R.LNK_RX_TILES j).key) :
    (s.cutTile j ctr).fld ctr = (s.fld ctr + 1) % 2 ^ ctr.w := by
  rw [State.cutTile_of_inTile h, State.fld_dropUnread, State.fld_addFld_same, State.fld_addFld_ne _ _ hc, State.setLink_fld]

end

/-- A cut changes RX_TILES and the drop counter of its cause alone. -/
theorem Frame.cutTile {s t : State} {reg win : Nat → Prop} (h : Frame s t reg win) (j : Nat) {ctr : Fld}
    (hr : reg (R.LNK_RX_TILES j).key) (hc : reg ctr.key) : Frame s (t.cutTile j ctr) reg win := by
  cases hin : (t.link j).rx.inTile with
  | false => rwa [State.cutTile_of_not_inTile hin]
  | true =>
    rw [State.cutTile_of_inTile hin]
    exact ((h.setLink j _).addFld 1 hr).dropUnread j hc

/-- Of the units' state a cut changes the links' records alone. -/
theorem State.cutTile_units (s : State) (j : Nat) (ctr : Fld) :
    (s.cutTile j ctr).units = { s.units with links := (s.cutTile j ctr).links } := by
  cases hin : (s.link j).rx.inTile with
  | false => rw [State.cutTile_of_not_inTile hin]; rfl
  | true => rw [State.cutTile_of_inTile hin]; rfl

/-- DROP_TRUNC and RX_TILES of a link are different registers. -/
theorem dropTrunc_key_ne_rxTiles (j : Nat) : (R.LNK_DROP_TRUNC j).key ≠ (R.LNK_RX_TILES j).key := by
  simp only [Fld.key, R.LNK_DROP_TRUNC, R.LNK_RX_TILES, ne_eq]
  omega

/-! ### STRAY_CONTROL_BLOCK (R58) -/

/-- A block whose header bit says control is of no data kind (R57). -/
theorem blockKind_ne_data {b : Block} (h : b.data = false) : blockKind b ≠ BlockType.data := by
  unfold blockKind
  rw [h, if_neg Bool.false_ne_true]
  split <;> exact BlockType.noConfusion

/-- On a link that carries data, a stray control block cuts the tile in progress, with cause TRUNC. -/
theorem exec_strayControlBlock {s : State} {j : Nat} {b : Block} (hj : s.carries j = true) (hb : b.data = false) :
    exec (.strayControlBlock j b) s = .next (s.cutTile j (R.LNK_DROP_TRUNC j)) := by
  have hdo : doStrayControlBlock j b s = s.strayBlock j := by
    simp [doStrayControlBlock, hj, blockKind_ne_data hb]
  exact congrArg Host.Outcome.next hdo

/-- Settles O20: the block cuts the tile in progress, which counts once in RX_TILES and once in DROP_TRUNC; with no tile in
progress there is nothing to cut. -/
theorem strayControlBlockDiscarded : Obligations.StrayControlBlockDiscarded := by
  intro j b s hj hb
  rw [exec_strayControlBlock hj hb]
  have hne := dropTrunc_key_ne_rxTiles j
  refine ⟨fun hin => by rw [State.cutTile_of_not_inTile hin], fun hin => ⟨_, rfl, ?_, ?_, ?_, ?_, ?_, ?_⟩⟩
  · exact State.fld_cutTile_ctr hin hne
  · exact State.fld_cutTile_rxTiles hin hne
  · rw [State.link_cutTile_same hin]
  · rw [State.link_cutTile_same hin]
  · exact (Frame.refl s _ _).cutTile j (by simp [Keys]) (by simp [Keys])
  · exact s.cutTile_units j _

end Sys2Proof.Machine
end

section
/-! Proofs about the arrival area: TILE_PLACE of a duplicate (R95). -/

namespace Sys2Proof.Machine

/-! ### The accepted tiles -/

/-- The accepted tiles replaced, the rest of the arrival area left as it is. -/
def State.withAccepted (s : State) (l : List TileIn) : State := { s with arr := { s.arr with accepted := l } }

/-- A tile's slot follows from its frame, group and channel and from the registers, not from the tiles that wait. -/
@[simp] theorem State.slotOf_withAccepted (s : State) (l : List TileIn) (f g c : Nat) :
    (s.withAccepted l).slotOf f g c = s.slotOf f g c := rfl

/-- The registers do not see the accepted tiles. -/
@[simp] theorem State.fld_withAccepted (s : State) (l : List TileIn) (f : Fld) : (s.withAccepted l).fld f = s.fld f := rfl

/-- The accepted tiles lie outside every frame. -/
theorem Frame.withAccepted {s t : State} {reg win : Nat → Prop} (h : Frame s t reg win) (l : List TileIn) :
    Frame s (t.withAccepted l) reg win :=
  h.same rfl rfl rfl rfl

/-! ### TILE_PLACE of a duplicate (R95) -/

/-- Where the slot of the oldest accepted tile holds the tile's frame, the tile leaves the queue and counts as a duplicate. -/
theorem exec_tilePlace_of_resident {s : State} {x : TileIn} {rest : List TileIn} (ha : s.arr.accepted = x :: rest)
    (hr : (s.withAccepted rest).residentFrame (s.slotOf x.frame x.group x.chan) = some x.frame) :
    exec .tilePlace s = .next ((s.withAccepted rest).addFld R.ARR_INVAL_DUP 1) := by
  rw [← s.slotOf_withAccepted rest] at hr
  have hdo : doTilePlace s = (s.withAccepted rest).addFld R.ARR_INVAL_DUP 1 := by
    unfold State.withAccepted at hr ⊢
    simp [doTilePlace, ha, hr]
  exact congrArg Host.Outcome.next hdo

/-- Settles O26: a duplicate tile leaves the accepted tiles and advances INVAL_DUP; its slot and memory are never reached. -/
theorem duplicateTile : Obligations.DuplicateTile := by
  intro s x rest ha hr
  refine ⟨_, exec_tilePlace_of_resident ha hr, ?_, rfl, rfl, ?_, rfl⟩
  · rw [State.fld_addFld_same, State.fld_withAccepted]
    rfl
  · exact ((Frame.refl s _ _).withAccepted rest).addFld 1 (by simp [Keys])

end Sys2Proof.Machine
end
